-- ==== Sys2Proof/Word.lean ====
section
/-! DEFINITION. The module's words and the plainest types that everything else is written over. -/

namespace Sys2Proof

/-- A byte of memory, of a packet or of flash (R4: little-endian everywhere). -/
abbrev Byte := BitVec 8

/-- A 32-bit packet word, counter or register. -/
abbrev Word := BitVec 32

/-- A 64-bit register or hitch value. -/
abbrev DWord := BitVec 64

/-- A sparse table by number, kept with its keys strictly rising. -/
abbrev KV (α : Type) := List (Nat × α)

/-- A strand as the list of its child indices from the root downward (R22 to R25); the root is the empty list. -/
abbrev Strand := List Nat

end Sys2Proof
end

