-- ==== Sys2Proof/Syntax.lean ====
section
/-! DEFINITION. The commands the module takes from outside and the indivisible steps of its own engines (spec/opcode_table.json; file 95 says what each holds), with their operands. -/

namespace Sys2Proof

/-- What lost its clock (R17): the array loop's lock, or the loop or the monitored tree of one of the 236 islands. -/
inductive ClockFault where
  | arrayLoop
  | island (n : Nat)
  deriving DecidableEq, Repr

/-- What fails in phase 4 of start-up: domains whose rails do not reach window, and islands that do not lock (R466). -/
structure PowerFaults where
  rails : List Nat
  islands : List Nat
  deriving DecidableEq, Repr

/-- An engine that a capture asks in vain: the scratchpad banks it last addressed, each with the number of a 4 KiB line (R432). -/
structure SilentEngine where
  strand : Strand
  samples : List (Nat × Nat)
  deriving DecidableEq, Repr

/-- Who issued a packet: a queue by its global ID (R58), the management port (R358, R457), the mailbox (R492), or a peer by MGT_REQ (R352): its device ID, the context, generation and transfer tag to echo, the message tag, and the link to answer on when it was sent LOCAL_ONLY. -/
inductive Issuer where
  | queue (gqid : Nat)
  | port (tag : Byte)
  | mbox
  | link (dev : BitVec 14) (ctx gen : BitVec 16) (xferTag : Word) (tag : Byte) (back : Option Nat)
  deriving DecidableEq, Repr

/-- A command packet (R48, R49): its header fields and its parameter words 4 onward. -/
structure Packet where
  issuer : Issuer
  opcode : BitVec 16
  flags : BitVec 16
  length : BitVec 8
  rsvd : BitVec 24
  seq : Word
  cookie : Word
  params : List Word
  deriving DecidableEq, Repr

/-- A remote message after its flits (R345): REQ, RSP and MGT classes. -/
structure Msg where
  kind : Byte
  code : Byte
  srcDev : BitVec 16
  srcCtx : BitVec 16
  srcGen : BitVec 16
  xferTag : Word
  winId : BitVec 16
  winEpoch : Byte
  cause : Byte
  offset : DWord
  lenVal : DWord
  /-- WRITE and READ_DATA: bit w covers data bytes 8w to 8w + 7. -/
  poison : List Bool
  data : List Byte
  deriving DecidableEq, Repr

/-- A splice message (R273). -/
structure SplMsg where
  kind : Byte
  pflags : Byte
  tag : BitVec 16
  step : BitVec 16
  srcDev : BitVec 16
  jobKey : Word
  chunk : Word
  valid : Nat
  count : Nat
  devSum : Word
  firstMissing : BitVec 16
  cause : Byte
  poison : List Bool
  elems : List Word
  checks : List (BitVec 5)
  deriving DecidableEq, Repr

/-- A cell of the array whose total the physical world altered before the drain read it: physical row, physical column, the binary32 read. -/
structure CellUpset where
  row : Nat
  col : Nat
  total : Word
  deriving DecidableEq, Repr

/-- How the physical world disturbs one addition of the splice lanes (R276, R277): the check fields that the running value and the input carry into the lanes, where altered; what the first lane's adder and the second's give, where altered; whether each lane's checker errs. -/
structure LaneUpset where
  elem : Nat
  slotField : Option (BitVec 5)
  inputField : Option (BitVec 5)
  first : Option Word
  second : Option Word
  firstErrs : Bool
  secondErrs : Bool
  deriving DecidableEq, Repr

/-- What the host does in its own memory and how it will answer the module's own reads of it: bytes it has stored, and the ranges [lo, hi) it refuses with Unsupported Request or Completer Abort, or leaves without a completion (R46). Addresses carry their PASID (Sys2Proof.Machine.hostKey). -/
structure HostNews where
  cells : List Host.Cell
  refused : List (Nat × Nat)
  silent : List (Nat × Nat)
  deriving DecidableEq, Repr

/-- How the host ended a read (R46). -/
inductive HostEnd where
  | data (poisoned : Bool)
  | unsupported
  | completerAbort
  deriving DecidableEq, Repr

/-- What a memory controller's check found on a word it read (R241, R243). -/
inductive Ecc where
  | clean
  | corrected
  | uncorrectable
  deriving DecidableEq, Repr

/-- The object smaller than its strand that an event struck, where the detector's row names one (R394, R396). -/
inductive ErrObj where
  | none
  | word (addr : Nat)
  | block (number : Nat)
  | tracker (tid : Nat)
  | queue (gqid : Nat)
  | hitch (id : Nat)
  | window (id : Nat)
  | slot (id : Nat)
  deriving DecidableEq, Repr

/-- A private instruction of the IEEE 1149.1 port (R477). -/
inductive JtagOp where
  | readMem (pa : Nat)
  | writeMem (pa : Nat) (value : Byte)
  | readReg (offset : Nat)
  | writeReg (offset : Nat) (value : Word)
  | readSecret
  | readFuses
  | writeFuses (keyRevoked : BitVec 4) (rollback : Nat)
  | burnRemoval (strand : Strand)
  /-- Fuses of a key hash, slot 0 to 3, or of UNIQUE_SECRET. -/
  | burnKeyHash (slot : Nat) (bits : BitVec 384)
  | burnSecret (bits : BitVec 384)
  /-- The signing unit signs a digest. -/
  | sign (digest : BitVec 384)
  | haltCore (core : Nat)
  | programSlot (slotB : Bool) (image : List Byte)
  /-- BOOT_PREF, TRIES and the CONFIRMED bits. -/
  | programBoot (prefB : Bool) (tries : BitVec 2) (confA confB : Bool)
  | programMap (entries : List (Nat × Nat))
  | programCert (cert : List Byte)
  /-- One slot of the record area. -/
  | programRecord (slot : Nat) (record : List Byte)
  | eraseLogline
  deriving DecidableEq, Repr

/-- One constructor per row of spec/opcode_table.json. -/
inductive Instr where
  -- command packets
  | ctlNop (p : Packet)
  | ctlBarrier (p : Packet)
  | ctxCreate (p : Packet)
  | ctxDestroy (p : Packet)
  | ctxMap (p : Packet)
  | ctxUnmap (p : Packet)
  | qCreate (p : Packet)
  | qDestroy (p : Packet)
  | hchSignal (p : Packet)
  | hchAdd (p : Packet)
  | hchWait (p : Packet)
  | hchRead (p : Packet)
  | hchProducer (p : Packet)
  | hchRemoteSignal (p : Packet)
  | xfrCopy (p : Packet)
  | xfrCopy2d (p : Packet)
  | xfrFill (p : Packet)
  | xfrPrefetch (p : Packet)
  | xfrRemoteWrite (p : Packet)
  | xfrRemoteRead (p : Packet)
  | xfrWindowGrant (p : Packet)
  | xfrWindowRevoke (p : Packet)
  | arrMma (p : Packet)
  | arrMmaPacked (p : Packet)
  | arrDist (p : Packet)
  | arrSelftest (p : Packet)
  | accSave (p : Packet)
  | accResume (p : Packet)
  | vecMap (p : Packet)
  | vecReduce (p : Packet)
  | vecSoftmax (p : Packet)
  | vecNorm (p : Packet)
  | vecConvert (p : Packet)
  | vecQuant (p : Packet)
  | vecOrtho (p : Packet)
  | vecSummary (p : Packet)
  | gsxGather (p : Packet)
  | gsxScatter (p : Packet)
  | gsxRoute (p : Packet)
  | rnkTopk (p : Packet)
  | attSelect (p : Packet)
  | attFwd (p : Packet)
  | attBwd (p : Packet)
  | splPlan (p : Packet)
  | splOpen (p : Packet)
  | splContrib (p : Packet)
  | splLowrank (p : Packet)
  | splClose (p : Packet)
  | splStatus (p : Packet)
  | tklCoef (p : Packet)
  | tklStepsize (p : Packet)
  | tklMask (p : Packet)
  | tklNorm (p : Packet)
  | tklStep (p : Packet)
  | tklLoad (p : Packet)
  | tklStore (p : Packet)
  | tklDigest (p : Packet)
  | ttlBind (p : Packet)
  | ttlRead (p : Packet)
  | ttlReset (p : Packet)
  | strQuery (p : Packet)
  | strFence (p : Packet)
  /-- `refault`: a detected fault sets a stopper on the strand in the same cycle (R32). -/
  | strUnfence (p : Packet) (refault : Bool)
  | strReset (p : Packet)
  | strInject (p : Packet)
  | strRepairCommit (p : Packet)
  | strService (p : Packet)
  | logMark (p : Packet)
  | logRead (p : Packet)
  | logLimit (p : Packet)
  | secIdent (p : Packet)
  | secAttest (p : Packet)
  /-- `readBackOk`: the slot read back verifies (R473). -/
  | secFwStage (p : Packet) (readBackOk : Bool)
  | secFwActivate (p : Packet)
  -- queues, dispatcher, hitches
  /-- `host`: what the host stored in its own memory before the doorbell (R65). -/
  | doorbellWrite (offset : Nat) (size : Nat) (value : DWord) (host : HostNews)
  | packetFetch (gqid : Nat) (host : HostNews)
  | packetComplete (uid : Nat)
  | hchWaitTimeout (gqid : Nat)
  | batchDeadline (batch : Nat)
  /-- `failing`: the physical cells, row and column, that a self-test which starts or ends with this step has found; `units`: the feeders or drain it has found faulty (R153). -/
  | arraySchedule (failing : List (Nat × Nat)) (units : List Strand)
  | arrMapRebuild
  | tileDrain (upsets : List CellUpset)
  | arraySpill
  | spillSplitWrite (value : Word)
  | spillSplitApply
  -- messages and flits
  | msgWrite (link : Nat) (m : Msg)
  | msgReadReq (link : Nat) (m : Msg)
  | msgHitchOp (link : Nat) (m : Msg)
  | msgWindowRevoke (link : Nat) (m : Msg)
  | msgAck (link : Nat) (m : Msg)
  | msgReadData (link : Nat) (m : Msg)
  | msgNeg (link : Nat) (m : Msg)
  | msgMgtReq (link : Nat) (localOnly : Bool) (m : Msg)
  | msgMgtRsp (link : Nat) (m : Msg)
  | msgSend (link : Nat) (vc : Nat)
  | flitData (link : Nat) (flit : List Byte)
  | flitIdle (link : Nat) (flit : List Byte)
  | flitNak (link : Nat) (flit : List Byte)
  | flitCreditAudit (link : Nat) (flit : List Byte)
  /-- One training exchange: what the peer reports, the lanes that fail to lock, the round trip in units of 8 ns. -/
  | flitTrain (link : Nat) (peerDev : Option (BitVec 14)) (peerLink : BitVec 5) (badLanes : List Nat) (rtt : BitVec 10)
  | linkRetrainEnd (link : Nat) (ok : Bool)
  | laneSymbolLimit (link : Nat) (lane : Nat)
  -- splice
  | splMsgRun (link : Nat) (m : SplMsg) (upsets : List LaneUpset)
  | splMsgFinal (link : Nat) (m : SplMsg)
  | splMsgGrant (link : Nat) (m : SplMsg)
  | splMsgAbandon (link : Nat) (m : SplMsg)
  | splBucketActivate (plan : Nat)
  | splLocalRead (plan : Nat) (entry : Nat) (chunk : Nat) (upsets : List LaneUpset)
  | splLowrankStep (plan : Nat) (entry : Nat)
  | splSlotRelease (plan : Nat) (entry : Nat) (chunk : Nat)
  | splWaitTimeout (plan : Nat) (entry : Nat)
  | splFinalTimeout (plan : Nat) (entry : Nat)
  -- Tackle
  /-- One block in a lane; `parityFail`: the write-back check of R322 finds a mismatch. -/
  | tklBlockUpdate (block : Nat) (lane : Nat) (parityFail : Bool)
  | tklGroupDone
  -- tracker and host
  | trackerTimeout (tid : Nat)
  | hostCompletion (tid : Nat) (epoch : Byte) (how : HostEnd) (host : HostNews)
  | pcieCompletionTimeout (tid : Nat)
  -- faults and memory repair
  | errorEvent (strand : Strand) (src : Nat) (obj : ErrObj)
  | railFault (strand : Strand) (src : Nat) (summary : Bool)
  | blockRemapDone (unit : Strand) (block : Nat)
  | unitRedirectDone (unit : Strand)
  | patrolScrub (unit : Strand) (addr : Nat) (found : Ecc)
  | rootScan
  | stickyRearm (strand : Strand) (src : Nat)
  | watchdogExpiry
  | clockLoss (what : ClockFault)
  | sysRefclkLoss
  -- resets, teardown, hangs, captures
  | genResetDone (uid : Nat)
  | genResetForce (uid : Nat)
  | fndCaptureDone
  | fndStopDone
  | fndDrainDone
  | fndResetDone
  | fndRestoreDone
  | ctxDestroyDone (uid : Nat)
  | ctxDestroyForce (uid : Nat)
  | snarlEval
  /-- `silent`: the engines that gave no answer within 100 us (R432). -/
  | captureDone (silent : List SilentEngine)
  | captTrigger
  | sbTrigLow
  -- PCI Express and BAR0
  | mboxGo
  | mboxDone
  | irqEnableWrite (value : Word)
  | deviceIdWrite (value : Word)
  | routingWrite (offset : Nat) (size : Nat) (value : DWord)
  | apertureWrite (offset : Nat) (size : Nat) (value : DWord)
  | apertureRead
  | bar4Read (offset : Nat) (len : Nat)
  | bar4Write (offset : Nat) (data : List Byte) (ep : Bool)
  | regWrite (offset : Nat) (size : Nat) (value : DWord)
  | msixUnmask (vector : Nat)
  | pciePmStateWrite (d3hot : Bool)
  | rebarSizeWrite (log2GiB : Nat)
  | pcieHotReset
  | perstNAssert
  | perstNRelease
  | pcieCorrectable
  -- pins and power
  | sysResetNAssert
  | sysResetNRelease
  | inputInWindow
  | pwrEnAssert
  | pwrEnDeassert
  | powerdownDone
  /-- The voltage measured, in mV, and whether the board domain keeps its supply for 10 ms (R512). -/
  | inputDrop (millivolts : Nat) (kept : Bool)
  /-- The source of the trip and its stack number (R515). -/
  | thermalTrip (source : BitVec 4) (stack : BitVec 4)
  | tripLatchClear
  -- start-up
  | startupSupply
  | startupRom (straps : BitVec 3)
  | startupMgmt
  | startupHost (failedCores : List Nat)
  | startupPower (failed : PowerFaults)
  | startupTrain (failed : List Strand)
  | startupTest (failed : List Strand) (failedBlocks : List (Strand × Nat))
  /-- `elapsedMs`: milliseconds from the start of start-up to phase 7 (R478). -/
  | startupReady (elapsedMs : BitVec 24)
  | startupPhaseTimeout (unit : Strand)
  -- Logline and time
  | logProgram
  | logTokenRefill (code : BitVec 16)
  | opSecondsTick
  | uptimeMsTick
  | opSecondsPersist
  -- management port
  | entdaa (addr : BitVec 7)
  | setdasa (staticAddr : BitVec 7) (addr : BitVec 7)
  | setEndpointId (eid : Byte)
  | getEndpointId
  | getMctpVersionSupport
  | getMessageTypeSupport
  | getVendorDefinedMessageSupport
  | packetReq (vendor : BitVec 16) (tag : Byte) (rsvd : BitVec 24) (words : List Word)
  | captReq (vendor : BitVec 16) (tag : Byte) (rsvd : BitVec 24) (offset : Word) (length : Word)
  | getSensorReading (sensor : Nat)
  | getPdr (record : Nat)
  /-- Receiver address, and whether events are polled for. -/
  | setEventReceiver (eid : Byte) (polling : Bool)
  | queryDeviceIdentifiers
  | getFirmwareParameters
  | getStatus
  | requestUpdate
  | passComponentTable
  | updateComponent (imageSize : Word)
  | requestFirmwareData (offset : Nat) (data : List Byte)
  | activateFirmware
  | cancelUpdateComponent
  | cancelUpdate
  | memoryReply (tid : Nat) (epoch : Byte) (ecc : Ecc)
  | frameAlignmentLoss (link : Nat)
  | jtagPrivateInstruction (op : JtagOp)
  | verifyComplete
  | applyComplete (readBackOk : Bool)
  deriving DecidableEq, Repr

end Sys2Proof
end

