-- ==== Sys2Proof/Machine/Table.lean ====
section
/-! DEFINITION. Sparse tables by number, kept with rising keys, and the plain list helpers the units share. -/

namespace Sys2Proof.Machine

/-- The entry of key k. -/
def kvGet {α : Type} (k : Nat) : KV α → Option α
  | [] => none
  | (j, v) :: t => if j = k then some v else kvGet k t

/-- Set the entry of key k. -/
def kvSet {α : Type} (k : Nat) (v : α) : KV α → KV α
  | [] => [(k, v)]
  | (j, w) :: t => if k < j then (k, v) :: (j, w) :: t else if j = k then (k, v) :: t else (j, w) :: kvSet k v t

/-- Remove the entry of key k. -/
def kvErase {α : Type} (k : Nat) (m : KV α) : KV α := m.filter fun kv => kv.1 != k

/-- The entry of key k, or a default. -/
def kvGetD {α : Type} (k : Nat) (d : α) (m : KV α) : α := (kvGet k m).getD d

/-- Change every entry. -/
def kvMap {α : Type} (f : Nat → α → α) (m : KV α) : KV α := m.map fun kv => (kv.1, f kv.1 kv.2)

/-- The lowest number from k on that a rising list does not hold. -/
def firstGap (k : Nat) : List Nat → Nat
  | [] => k
  | j :: t => if k < j then k else if j = k then firstGap (k + 1) t else firstGap k t

/-- The lowest number below n that is no key of the table. -/
def kvFree {α : Type} (n : Nat) (m : KV α) : Option Nat :=
  let g := firstGap 0 (m.map Prod.fst)
  if g < n then some g else none

/-- Insert into a rising list of numbers without repeats. -/
def insNat (k : Nat) : List Nat → List Nat
  | [] => [k]
  | j :: t => if k < j then k :: j :: t else if j = k then j :: t else j :: insNat k t

/-- Insertion of an element into a list sorted by a rank. -/
def insBy {α : Type} (rank : α → Nat) (x : α) : List α → List α
  | [] => [x]
  | y :: t => if rank x < rank y then x :: y :: t else y :: insBy rank x t

/-- Stable sort by a rank. -/
def sortBy {α : Type} (rank : α → Nat) (l : List α) : List α :=
  l.foldl (fun acc x => insBy rank x acc) []

/-- Replace element n of a list. -/
def setAt {α : Type} (n : Nat) (f : α → α) : List α → List α
  | [] => []
  | x :: t => match n with
    | 0 => f x :: t
    | m + 1 => x :: setAt m f t

/-- Do two ranges share an address? -/
def overlap (a n b m : Nat) : Bool := decide (a < b + m) && decide (b < a + n) && decide (0 < n) && decide (0 < m)

/-- Fold over 0, 1, … n − 1. -/
def foldUpTo {α : Type} (n : Nat) (f : Nat → α → α) (a : α) : α :=
  (List.range n).foldl (fun acc i => f i acc) a

/-- A count that stops at the limit (R360). -/
def satAdd (limit a b : Nat) : Nat := min limit (a + b)

/-- A 32-bit count that saturates (R360). -/
def satWord (a : Word) (n : Nat) : Word := BitVec.ofNat 32 (min (2 ^ 32 - 1) (a.toNat + n))

/-- A number as a 32-bit count, saturating. -/
def sat32 (n : Nat) : Word := BitVec.ofNat 32 (min (2 ^ 32 - 1) n)

/-- The quotient rounded up. -/
def ceilDiv (a b : Nat) : Nat := if b = 0 then 0 else a / b + (if a % b = 0 then 0 else 1)

/-- Field [hi:lo] of a number. -/
def fld (v hi lo : Nat) : Nat := v / 2 ^ lo % 2 ^ (hi + 1 - lo)

/-- Bit n of a number. -/
def bit (v n : Nat) : Bool := v / 2 ^ n % 2 = 1

/-- A truth value as a bit. -/
def bnat (b : Bool) : Nat := if b then 1 else 0

/-- The n low bytes of a number, lowest first (R4). -/
def leBytes : Nat → Nat → List Byte
  | 0, _ => []
  | n + 1, v => BitVec.ofNat 8 v :: leBytes n (v / 256)

/-- The number that bytes spell, lowest first (R4). -/
def leNat : List Byte → Nat
  | [] => 0
  | b :: t => b.toNat + 256 * leNat t

/-- The number that bytes spell, highest first. -/
def beNat (l : List Byte) : Nat := l.foldl (fun acc b => acc * 256 + b.toNat) 0

/-- n bytes of a number, highest first. -/
def beBytes (n v : Nat) : List Byte := (leBytes n v).reverse

/-- n bytes from offset o of a byte string, zeros past its end. -/
def slice (o n : Nat) (l : List Byte) : List Byte :=
  let t := (l.drop o).take n
  t ++ List.replicate (n - t.length) 0

/-- The little-endian number at bytes [o, o + n). -/
def leAt (o n : Nat) (l : List Byte) : Nat := leNat (slice o n l)

/-- A string's bytes. -/
def zeros (n : Nat) : List Byte := List.replicate n 0

/-- Cut a list into pieces of n, the last one shorter. -/
def chunks {α : Type} (n : Nat) (l : List α) : List (List α) :=
  (List.range (ceilDiv l.length (max n 1))).map fun i => (l.drop (i * max n 1)).take (max n 1)

/-! ## Byte cells: rising addresses, no entry equal to 0, which an unlisted byte reads as (log 7) -/

/-- The byte at an address. -/
def cellGet (a : Nat) : List Host.Cell → Byte
  | [] => 0
  | (j, v) :: t => if j = a then v else if a < j then 0 else cellGet a t

/-- Store a byte, keeping the canonical form. -/
def cellSet (a : Nat) (v : Byte) : List Host.Cell → List Host.Cell
  | [] => if v = 0 then [] else [(a, v)]
  | (j, w) :: t =>
    if a < j then (if v = 0 then (j, w) :: t else (a, v) :: (j, w) :: t)
    else if j = a then (if v = 0 then t else (a, v) :: t)
    else (j, w) :: cellSet a v t

/-- The canonical form: every key above the bound and rising, no listed zero. -/
def cellsWf : Nat → List Host.Cell → Bool
  | _, [] => true
  | lo, (a, v) :: t => decide (lo ≤ a) && (v != 0) && cellsWf (a + 1) t

/-- n bytes from an address. -/
def cellRead (a n : Nat) (m : List Host.Cell) : List Byte := (List.range n).map fun i => cellGet (a + i) m

/-- Store bytes from an address on. -/
def cellWrite (a : Nat) (bs : List Byte) (m : List Host.Cell) : List Host.Cell :=
  (bs.foldl (fun (st : Nat × List Host.Cell) b => (st.1 + 1, cellSet st.1 b st.2)) (a, m)).2

/-- Lay given cells over a memory. -/
def cellMerge (new : List Host.Cell) (m : List Host.Cell) : List Host.Cell :=
  new.foldl (fun acc c => cellSet c.1 c.2 acc) m

/-! ## Sets of addresses as rising disjoint intervals [lo, hi) -/

/-- Is the address in the set? -/
def ivHas (a : Nat) (l : List (Nat × Nat)) : Bool := l.any fun p => decide (p.1 ≤ a) && decide (a < p.2)

/-- Take [lo, hi) out. -/
def ivClear (lo hi : Nat) : List (Nat × Nat) → List (Nat × Nat)
  | [] => []
  | (a, b) :: t =>
    if hi ≤ lo then (a, b) :: t
    else (if a < min b lo then [(a, min b lo)] else []) ++ (if max a hi < b then [(max a hi, b)] else []) ++ ivClear lo hi t

/-- Put [lo, hi) in. -/
def ivAdd (lo hi : Nat) (l : List (Nat × Nat)) : List (Nat × Nat) :=
  if hi ≤ lo then l
  else
    let touching := l.filter fun p => decide (p.1 ≤ hi) && decide (lo ≤ p.2)
    let rest := l.filter fun p => !(decide (p.1 ≤ hi) && decide (lo ≤ p.2))
    let lo' := touching.foldl (fun m p => min m p.1) lo
    let hi' := touching.foldl (fun m p => max m p.2) hi
    insBy Prod.fst (lo', hi') rest

end Sys2Proof.Machine
end

