-- ==== Sys2Proof/Machine/Crypto.lean ====
section
/-! DEFINITION. The cryptography the firmware chapter names: SHA-384, and ECDSA on brainpoolP384r1 (R468, R469, R474, R476; log 22). -/

namespace Sys2Proof.Machine

/-! ## SHA-384 -/

/-- Words of 64 bits are numbers below 2^64 here. -/
def shaRot (x n : Nat) : Nat := (x >>> n ||| x <<< (64 - n)) % 2 ^ 64

/-- Round constants. -/
def shaK : List Nat :=
  ([0x428a2f98d728ae22, 0x7137449123ef65cd, 0xb5c0fbcfec4d3b2f, 0xe9b5dba58189dbbc, 0x3956c25bf348b538] ++
   [0x59f111f1b605d019, 0x923f82a4af194f9b, 0xab1c5ed5da6d8118, 0xd807aa98a3030242, 0x12835b0145706fbe] ++
   [0x243185be4ee4b28c, 0x550c7dc3d5ffb4e2, 0x72be5d74f27b896f, 0x80deb1fe3b1696b1, 0x9bdc06a725c71235] ++
   [0xc19bf174cf692694, 0xe49b69c19ef14ad2, 0xefbe4786384f25e3, 0x0fc19dc68b8cd5b5, 0x240ca1cc77ac9c65] ++
   [0x2de92c6f592b0275, 0x4a7484aa6ea6e483, 0x5cb0a9dcbd41fbd4, 0x76f988da831153b5, 0x983e5152ee66dfab] ++
   [0xa831c66d2db43210, 0xb00327c898fb213f, 0xbf597fc7beef0ee4, 0xc6e00bf33da88fc2, 0xd5a79147930aa725] ++
   [0x06ca6351e003826f, 0x142929670a0e6e70, 0x27b70a8546d22ffc, 0x2e1b21385c26c926, 0x4d2c6dfc5ac42aed] ++
   [0x53380d139d95b3df, 0x650a73548baf63de, 0x766a0abb3c77b2a8, 0x81c2c92e47edaee6, 0x92722c851482353b] ++
   [0xa2bfe8a14cf10364, 0xa81a664bbc423001, 0xc24b8b70d0f89791, 0xc76c51a30654be30, 0xd192e819d6ef5218] ++
   [0xd69906245565a910, 0xf40e35855771202a, 0x106aa07032bbd1b8, 0x19a4c116b8d2d0c8, 0x1e376c085141ab53] ++
   [0x2748774cdf8eeb99, 0x34b0bcb5e19b48a8, 0x391c0cb3c5c95a63, 0x4ed8aa4ae3418acb, 0x5b9cca4f7763e373] ++
   [0x682e6ff3d6b2b8a3, 0x748f82ee5defb2fc, 0x78a5636f43172f60, 0x84c87814a1f0ab72, 0x8cc702081a6439ec] ++
   [0x90befffa23631e28, 0xa4506cebde82bde9, 0xbef9a3f7b2c67915, 0xc67178f2e372532b, 0xca273eceea26619c] ++
   [0xd186b8c721c0c207, 0xeada7dd6cde0eb1e, 0xf57d4f7fee6ed178, 0x06f067aa72176fba, 0x0a637dc5a2c898a6] ++
   [0x113f9804bef90dae, 0x1b710b35131c471b, 0x28db77f523047d84, 0x32caab7b40c72493, 0x3c9ebe0a15c9bebc] ++
   [0x431d67c49c100d4c, 0x4cc5d4becb3e42b6, 0x597f299cfc657e2a, 0x5fcb6fab3ad6faec, 0x6c44198c4a475817])

/-- Initial state. -/
def shaInit : List Nat := [0xcbbb9d5dc1059ed8, 0x629a292a367cd507, 0x9159015a3070dd17, 0x152fecd8f70e5939, 0x67332667ffc00b31, 0x8eb44a8768581511, 0xdb0c2e0d64f98fa7, 0x47b5481dbefa4fa4]

def shaAt (l : List Nat) (n : Nat) : Nat := l.getD n 0

/-- The message with its padding: a one bit, zeros, and its length in bits, to a multiple of 128 bytes. -/
def shaPad (m : List Byte) : List Byte :=
  m ++ [0x80] ++ zeros ((128 - (m.length + 17) % 128) % 128) ++ beBytes 16 (m.length * 8)

/-- The message schedule from the sixteen words of a block, built newest word first. -/
def shaSchedule (block : List Nat) : List Nat :=
  ((List.range 64).foldl (fun w _ =>
    let x := shaAt w 14
    let y := shaAt w 1
    let s0 := shaRot x 1 ^^^ shaRot x 8 ^^^ x >>> 7
    let s1 := shaRot y 19 ^^^ shaRot y 61 ^^^ y >>> 6
    ((shaAt w 15 + s0 + shaAt w 6 + s1) % 2 ^ 64) :: w) block.reverse).reverse

/-- One round. -/
def shaRound (v : List Nat) (kw : Nat) : List Nat :=
  match v with
  | [a, b, c, d, e, f, g, h] =>
    let t1 := h + (shaRot e 14 ^^^ shaRot e 18 ^^^ shaRot e 41) + ((e &&& f) ^^^ ((2 ^ 64 - 1 - e) &&& g)) + kw
    let t2 := (shaRot a 28 ^^^ shaRot a 34 ^^^ shaRot a 39) + ((a &&& b) ^^^ (a &&& c) ^^^ (b &&& c))
    [(t1 + t2) % 2 ^ 64, a, b, c, (d + t1) % 2 ^ 64, e, f, g]
  | l => l

/-- One block of 128 bytes. -/
def shaBlock (st : List Nat) (b : List Byte) : List Nat :=
  let w := shaSchedule ((chunks 8 b).map beNat)
  let out := (List.zipWith (· + ·) shaK w).foldl shaRound st
  List.zipWith (fun x y => (x + y) % 2 ^ 64) st out

/-- SHA-384 as 48 bytes. -/
def sha384 (m : List Byte) : List Byte :=
  (((chunks 128 (shaPad m)).foldl shaBlock shaInit).take 6).flatMap (beBytes 8)

def shaBits (m : List Byte) : BitVec 384 := BitVec.ofNat 384 (beNat (sha384 m))

/-! ## brainpoolP384r1 -/

def ecP : Nat := 0x8CB91E82A3386D280F5D6F7E50E641DF152F7109ED5456B412B1DA197FB71123ACD3A729901D1A71874700133107EC53
def ecA : Nat := 0x7BC382C63D8C150C3C72080ACE05AFA0C2BEA28E4FB22787139165EFBA91F90F8AA5814A503AD4EB04A8C7DD22CE2826
def ecB : Nat := 0x04A8C7DD22CE28268B39B55416F0447C2FB77DE107DCD2A62E880EA53EEB62D57CB4390295DBC9943AB78696FA504C11
def ecGx : Nat := 0x1D1C64F068CF45FFA2A63A81B7C13F6B8847A3E77EF14FE3DB7FCAFE0CBD10E8E826E03436D646AAEF87B2E247D4AF1E
def ecGy : Nat := 0x8ABE1D7520F9C2A45CB1EB8E95CFD55262B70B29FEEC5864E19C054FF99129280E4646217791811142820341263C5315
/-- The order of the group. -/
def ecN : Nat := 0x8CB91E82A3386D280F5D6F7E50E641DF152F7109ED5456B31F166E6CAC0425A7CF3AB6AF6B7FC3103B883202E9046565

/-- Powers modulo m, over the bits of the exponent from the highest. -/
def powMod (m b e : Nat) : Nat :=
  (List.range 384).foldl (fun acc i =>
    let sq := acc * acc % m
    if bit e (383 - i) then sq * b % m else sq) 1

/-- Inverse modulo a prime. -/
def invMod (m a : Nat) : Nat := powMod m (a % m) (m - 2)

/-- A point of the curve, or none at infinity. -/
abbrev EcPoint := Option (Nat × Nat)

/-- The chord or tangent through two points. -/
def ecAdd (a b : EcPoint) : EcPoint :=
  match a, b with
  | none, q => q
  | p, none => p
  | some (x1, y1), some (x2, y2) =>
    if x1 = x2 ∧ (y1 + y2) % ecP = 0 then none
    else
      let l := if x1 = x2 then (3 * x1 * x1 + ecA) * invMod ecP (2 * y1) % ecP
        else (y2 + ecP - y1) * invMod ecP (x2 + ecP - x1) % ecP
      let x3 := (l * l + 2 * ecP - x1 - x2) % ecP
      some (x3, (l * (x1 + ecP - x3) + ecP - y1) % ecP)

/-- A point as X / Z², Y / Z³, so that a multiple takes one division; Z = 0 at infinity. -/
structure EcJac where
  x : Nat
  y : Nat
  z : Nat
  deriving DecidableEq, Repr

def ecInfinity : EcJac := ⟨1, 1, 0⟩

/-- Difference modulo the prime. -/
def ecSub (a b : Nat) : Nat := (a + ecP - b) % ecP

def ecDouble (p : EcJac) : EcJac :=
  let yy := p.y * p.y % ecP
  let s := 4 * p.x * yy % ecP
  let m := (3 * p.x * p.x + ecA * (p.z ^ 4 % ecP)) % ecP
  let x := ecSub (m * m % ecP) (2 * s % ecP)
  ⟨x, ecSub (m * ecSub s x % ecP) (8 * yy * yy % ecP), 2 * p.y * p.z % ecP⟩

/-- The sum with an affine point. -/
def ecMixed (p : EcJac) (x2 y2 : Nat) : EcJac :=
  if p.z = 0 then ⟨x2, y2, 1⟩
  else
    let h := ecSub (x2 * (p.z ^ 2 % ecP) % ecP) p.x
    let r := ecSub (y2 * (p.z ^ 3 % ecP) % ecP) p.y
    if h = 0 then if r = 0 then ecDouble p else ecInfinity
    else
      let hh := h * h % ecP
      let v := p.x * hh % ecP
      let x := ecSub (r * r % ecP) ((h * hh + 2 * v) % ecP)
      ⟨x, ecSub (r * ecSub v x % ecP) (p.y * h % ecP * hh % ecP), h * p.z % ecP⟩

/-- A multiple of a point, over the bits of the scalar from the highest. -/
def ecMul (k : Nat) (q : EcPoint) : EcPoint :=
  q.bind fun q =>
    let p := (List.range 384).foldl (fun acc i =>
      let d := ecDouble acc
      if bit k (383 - i) then ecMixed d q.1 q.2 else d) ecInfinity
    if p.z = 0 then none
    else
      let w := invMod ecP p.z
      some (p.x * (w ^ 2 % ecP) % ecP, p.y * (w ^ 3 % ecP) % ecP)

def ecG : EcPoint := some (ecGx, ecGy)

/-- A point other than infinity that satisfies the curve's equation. -/
def onCurve (x y : Nat) : Bool :=
  decide (x < ecP) && decide (y < ecP) && decide (y * y % ecP = (x * x % ecP * x + ecA * x + ecB) % ecP)

/-- Does the signature r, s verify over a hash under a public key? -/
def ecdsaVerify (x y hash r s : Nat) : Bool :=
  onCurve x y && decide (0 < r) && decide (r < ecN) && decide (0 < s) && decide (s < ecN) &&
    (let w := invMod ecN s
     match ecAdd (ecMul (hash * w % ecN) ecG) (ecMul (r * w % ecN) (some (x, y))) with
     | some (px, _) => decide (px % ecN = r)
     | none => false)

/-- The signature of a hash by a private key with a number of its own. -/
def ecdsaSign (key nonce hash : Nat) : Nat × Nat :=
  let k := 1 + nonce % (ecN - 1)
  let r := match ecMul k ecG with
    | some (px, _) => px % ecN
    | none => 0
  (r, invMod ecN k * (hash + r * key) % ecN)

/-- The public key of a private key. -/
def ecPublic (key : Nat) : Nat × Nat := (ecMul key ecG).getD (0, 0)

end Sys2Proof.Machine
end

