-- ==== Sys2Proof/Machine/Codes.lean ====
section
/-! DEFINITION. The cyclic codes of the module, bit by bit as the chapters define them (R311, R328, R440). -/

namespace Sys2Proof.Machine

/-- One bit through a left-shifting CRC of n bits with polynomial poly. -/
def crcShift (n poly : Nat) (c : Nat) (inBit : Bool) : Nat :=
  let top := bit c (n - 1) != inBit
  let c' := c * 2 % 2 ^ n
  if top then c' ^^^ poly else c'

/-- One byte, most significant bit first. -/
def crcByte (n poly c : Nat) (b : Byte) : Nat :=
  (List.range 8).foldl (fun acc i => crcShift n poly acc (b.getLsbD (7 - i))) c

/-- CRC-16/CCITT of R440. -/
def crc16 (l : List Byte) : Nat := l.foldl (crcByte 16 0x1021) 0xFFFF

/-- CRC-64/ECMA-182 of R311, continued from a value. -/
def crc64 (c : Nat) (l : List Byte) : Nat := l.foldl (crcByte 64 0x42F0E1EBA9EA3693) c

/-- One byte through the reflected CRC-32 of R328. -/
def crc32Byte (c : Nat) (b : Byte) : Nat :=
  (List.range 8).foldl (fun acc _ => if acc % 2 = 1 then (acc / 2) ^^^ 0xEDB88320 else acc / 2) (c ^^^ b.toNat)

/-- The CRC-32 of a flit (R328). -/
def crc32 (l : List Byte) : Nat := l.foldl crc32Byte 0xFFFFFFFF ^^^ 0xFFFFFFFF

/-- A CRC-64 carried over n zero bytes: the shift by which group digests combine (R311). -/
def crc64Zeros (c n : Nat) : Nat :=
  (List.range n).foldl (fun acc _ => crcByte 64 0x42F0E1EBA9EA3693 acc 0) c

end Sys2Proof.Machine
end

