-- ==== Sys2Proof/Config.lean ====
section
/-! DEFINITION. What one module fixes at manufacture and what the spec leaves open: opaque constants, of which nothing can be proved but what holds of every value. -/

namespace Sys2Proof.Config

/-- A value the spec does not state, numbered by State.freeCtr (log 2). -/
opaque freeValue : Nat → BitVec 64

/-- A byte of a working region after the command that used it, by the number of that use and storage address: the spec states none (log 2). -/
opaque freeByte : Nat → Nat → BitVec 8

/-- Whether a word of such a region is poisoned (log 2). -/
opaque freePoison : Nat → Nat → Bool

/-- The factory image that slots A and B hold at delivery (R518; log 5). -/
opaque factoryImage : List Byte

/-- KEY_HASH0 to KEY_HASH3, burnt at manufacture (R470; log 5). -/
opaque keyHash : Nat → BitVec 384

/-- UNIQUE_SECRET (R470; log 5). -/
opaque uniqueSecret : BitVec 384

/-- The derivation of the identity private key from UNIQUE_SECRET: deterministic, not stated (R474; log 5). -/
opaque identityPrivate : BitVec 384 → Nat

/-- The per-signature number of an ECDSA signature, not stated (R476; log 5). -/
opaque signatureNonce : Nat → Nat

/-- SERIAL (R475; log 5). -/
opaque serial : BitVec 128

/-- The X.509 certificate stored at manufacture (R474; log 5). -/
opaque certificate : List Byte

/-- The content of a PDR record (R459 names the sensors, not the record's bytes; log 12). -/
opaque pdr : Nat → List Byte

/-- The value a sensor reads where no reading has been given (R459; log 4). -/
opaque sensor : Nat → Nat → BitVec 32

/-- The fuse block as the boot ROM reads it, UNIQUE_SECRET read as 0: its layout is not stated (R476; log 6). Key hashes, KEY_REVOKED, rollback count, removed strands. -/
opaque fuseBlock : List (BitVec 384) → BitVec 4 → Nat → List Nat → List Byte

/-- The staged repair map as bytes: its order is not stated (R476; log 6). -/
opaque repairMap : List (Nat × Nat) → List Byte

/-- The result of a function code of R212 at an argument for which the spec states none, by code and FP64: SILU and GELU at −∞, and the fallback of the rounding search (log 2). -/
opaque functionValue : Nat → Bool → BitVec 64

/-- The residue that a check field gives a non-finite element: the spec checks none and states none (R275). -/
opaque nonfiniteResidue : BitVec 32 → Nat

/-- What the slot holds for an element whose two additions differ and are both rejected: it is poisoned, its value is not stated (R277; log 2). -/
opaque rejectedSum : BitVec 32 → BitVec 32 → BitVec 32

/-- What GetMCTPVersionSupport lists: not stated (R456; log 12). -/
opaque mctpVersions : List Byte

/-- What firmware gives context 0 when it creates it (R35, R463; log 17): page-table pool base and size. -/
opaque firmwarePool : Nat × Nat

/-- Pages firmware maps for context 0 (log 17): virtual address, target, 2 MiB page, host page, writable. -/
opaque firmwarePages : List (Nat × Nat × Bool × Bool × Bool)

/-- Queues firmware creates for context 0 (log 17): ring address and slots, reply address and slots, state block address, MSI-X vector. -/
opaque firmwareQueues : List ((Nat × Nat) × (Nat × Nat) × Nat × Option Nat)

end Sys2Proof.Config
end

