-- ==== Sys2Proof/Machine/State.lean ====
section
/-! DEFINITION. The state of the module as plain data: everything the spec names, grouped by the unit that holds it, and the state of a module as delivered (R518), unpowered. -/

namespace Sys2Proof.Machine

/-- Reasons a step can stop. The module answers every misuse with a status (R9), so no meaning raises one: safe, never reached. -/
inductive Fault where
  /-- Raised by no meaning. It keeps the type inhabited: safe. -/
  | none
  deriving DecidableEq, Repr

/-- Commands without a meaning. -/
inductive Refusal where
  /-- Raised by an arm of exec for a command that has no meaning yet, under its mnemonic: safe, the run stops there. -/
  | notModelled (mnemonic : String)
  deriving DecidableEq, Repr

/-! ## Time (R451, R452) -/

structure Clk where
  uptimeMs : Word
  opSeconds : Word
  powerCycles : Word
  /-- Milliseconds of UPTIME_MS not yet counted in OP_SECONDS. -/
  msToSecond : Nat
  /-- Seconds since OP_SECONDS was last persisted. -/
  secToPersist : Nat
  /-- The newest journal entry (R452, R518). -/
  persistedSeconds : Word
  persistedCycles : Word
  /-- The journal, newest entry first: POWER_CYCLES and OP_SECONDS (R452). -/
  journal : List (Word × Word)
  /-- The last power cycle ended with the flush of R445. -/
  flushed : Bool
  deriving DecidableEq, Repr

/-! ## Power, pins and start-up (R462 to R467, R497 to R515) -/

/-- The six states seen from J1 (R499), with the start-up phase in progress. -/
inductive PwrPhase where
  | unpowered
  | heldOff
  | starting (n : Nat)
  | running
  | poweringDown
  | tripped
  deriving DecidableEq, Repr

structure Pwr where
  phase : PwrPhase
  /-- The 48 V input has stood in its window. -/
  inputOk : Bool
  pwrEn : Bool
  /-- PERST_N and SYS_RESET_N are asserted (low). -/
  perstLow : Bool
  sysResetLow : Bool
  refclk : Bool
  /-- Outputs driven low (R499). -/
  pwrgdLow : Bool
  faultNLow : Bool
  okNLow : Bool
  thermtripLow : Bool
  /-- Pulses of 1 us driven on SB_TRIG this power cycle (R434). -/
  trigPulses : Nat
  /-- MODULE_ID as sampled in phase 1 (R502). -/
  moduleId : BitVec 3
  /-- MODULE_ID history of the configuration area, the oldest sample first (R15). -/
  idHistory : List (BitVec 3)
  /-- Phase 2 ended with SYS_RESET_N low: start-up waits for its release (R503). -/
  held : Bool
  tripLatch : Bool
  /-- Markers in the configuration area (R512, R513): source and stack, POWER_CYCLES; millivolts, POWER_CYCLES. -/
  tripMarker : Option (BitVec 8 × Word)
  inputMarker : Option (Nat × Word)
  /-- The watchdog has expired or the management core has stopped (R403). -/
  watchdog : Bool
  /-- Strands that self-test fenced, for STARTUP_DONE (R478). -/
  selfTestFenced : Nat
  /-- Power domains switched off since start-up (R20), by number 0 to 147. -/
  domainsOff : List Nat
  deriving DecidableEq, Repr

/-! ## Firmware, fuses and identity (R468 to R477) -/

/-- A staging in progress (R461, R473). -/
inductive Staging where
  | none
  | fwStage (uid : Nat)
  | pldm
  deriving DecidableEq, Repr

structure Fw where
  slotA : List Byte
  slotB : List Byte
  /-- BOOT_PREF names slot B; TRIES; CONFIRMED (R472). -/
  prefB : Bool
  tries : BitVec 2
  confA : Bool
  confB : Bool
  /-- The running slot is B; no slot verified (R472 step 4). -/
  runB : Bool
  bootFailed : Bool
  /-- The slots that hold an image verified in this power cycle (R473). -/
  verA : Bool
  verB : Bool
  /-- Cause of the boot (0 none, 1 VERIFY, 2 TRIES) and FALLBACK (R478). -/
  bootCause : BitVec 2
  fallback : Bool
  keyRevoked : BitVec 4
  rollback : Nat
  keyHash : List (BitVec 384)
  uniqueSecret : BitVec 384
  serial : BitVec 128
  cert : List Byte
  /-- Strands whose removal fuse is burnt (R405). -/
  fuseRemoved : List Nat
  /-- The staged repair map: strand ID with a block number or 0xFFFF_FFFF (R405). -/
  stagedMap : List (Nat × Nat)
  staging : Staging
  /-- Measurements of the power cycle (R476). -/
  mImage : BitVec 384
  mFuses : BitVec 384
  mRepair : BitVec 384
  deriving DecidableEq, Repr

/-! ## Logline (R438 to R454) -/

/-- A token bucket (R447). -/
structure Bucket where
  burst : Nat
  refill : Nat
  tokens : Nat
  suppressed : Nat
  lastStrand : Nat
  /-- UPTIME_MS at which the refill period began (R447, R449). -/
  since : Word
  deriving DecidableEq, Repr

structure Log where
  /-- Record slots that are not empty, 32 bytes each, by slot number. -/
  area : KV (List Byte)
  writer : Nat
  /-- Records taken and not yet programmed, oldest first. -/
  buffer : List (List Byte)
  dropped : Nat
  /-- Buckets that differ from their state at power-up, by code. -/
  buckets : KV Bucket
  /-- STOPPER_SET records of kind FAULT in the area by strand (R406). -/
  fenceCounts : KV Nat
  /-- Strands fenced with kind FAULT in the previous power cycle (R404). -/
  prevFaults : List Nat
  /-- BOOT has been written this power cycle: scans write records only after it (R446). -/
  booted : Bool
  deriving DecidableEq, Repr

/-! ## Strands, errors and service levels (02, 14) -/

inductive StopKind where
  | operator
  | derived
  | fault
  | removed
  deriving DecidableEq, Repr

/-- A stopper: its kind, and whether an injected event set it (R397, R408). -/
structure Stopper where
  kind : StopKind
  injected : Bool
  deriving DecidableEq, Repr

/-- Sticky bits, event counters and fence events of one strand (R387, R391). -/
structure Sources where
  sticky : BitVec 16
  counts : KV Nat
  fenceEvents : Nat
  deriving DecidableEq, Repr

/-- A newly set sticky bit that the next root scan records (R390). -/
structure NewEvent where
  strand : Nat
  src : Nat
  cls : Nat
  injected : Bool
  rail : Bool
  /-- Its sticky bit was newly set: ERR_NEW is due. -/
  fresh : Bool
  /-- Its reaction was that of a DEVICE event. -/
  device : Bool
  /-- Strands its reaction set a stopper on, with kind. -/
  stops : List (Nat × StopKind)
  deriving DecidableEq, Repr

structure Str where
  /-- Stoppers by strand ID (R25). -/
  stoppers : KV Stopper
  /-- Start-up phases completed: strands are admitted, and levels first held, by phase (R463, R465). -/
  phasesDone : Nat
  sources : KV Sources
  /-- Working units that are STANDBY, among control cores, transfer engines, vector lane groups and update lanes (R520). -/
  standby : List Nat
  /-- Strand generations (R414). -/
  gens : KV Byte
  newEvents : List NewEvent
  /-- SERVICE_LEVEL.HELD as last recorded, and as last evaluated. -/
  levelsLogged : BitVec 5
  held : BitVec 5
  lost : BitVec 5
  faultLevels : BitVec 5
  deviceErr : Bool
  scanNo : BitVec 16
  /-- DATA injections that wait for their operation: strand, source (R407, R524). -/
  armed : List (Nat × Nat)
  errSel : DWord
  /-- CORRECTED and CONTAINED bits recorded: strand, source, UPTIME_MS of the record (R391). -/
  recorded : List (Nat × Nat × Word)
  deriving DecidableEq, Repr

/-! ## Contexts, queues and hitches (02, 03) -/

inductive CtxState where
  | free
  | live
  | aborted
  | draining
  deriving DecidableEq, Repr

structure Ctx where
  state : CtxState
  gen : BitVec 16
  /-- The generation has been incremented in this life (R36). -/
  bumped : Bool
  pasid : Option (BitVec 20)
  poolBase : Nat
  poolSize : Nat
  firstBank : Nat
  nBanks : Nat
  trkQuota : Nat
  /-- TRK_LATE_DROPS charged to the context (R363). -/
  lateDrops : Nat
  deriving DecidableEq, Repr

structure Queue where
  ctx : Nat
  qindex : Nat
  ringVa : Nat
  ringSlots : Nat
  replyVa : Nat
  replySlots : Nat
  stateVa : Nat
  msix : Option Nat
  hitch : Option Nat
  batchWait : Nat
  consumed : Word
  done : Word
  lastTail : Word
  qflags : BitVec 3
  dbErrors : Word
  /-- Q.DESTROY or a ring fault has stopped dispatch (R61, R62). -/
  stopping : Bool
  deriving DecidableEq, Repr

/-- A producer registration (R75). -/
inductive Producer where
  | queue (gqid : Nat)
  | remote (dev : Nat)
  | host
  deriving DecidableEq, Repr

structure Hitch where
  value : DWord
  owner : Option Nat
  regs : List Producer
  deriving DecidableEq, Repr

/-! ## Packets in execution -/

/-- What a reply carries besides the packet's own fields (R53). `detail` is reply bits [63:40]. -/
structure Result where
  status : Byte
  detail : BitVec 24
  cnt0 : Word
  cnt1 : Word
  cnt2 : Word
  cnt3 : Word
  substatus : BitVec 16
  deriving DecidableEq, Repr

/-- One end of a transfer: a virtual range, a grant range, a window of a peer, or the pattern of a fill. -/
inductive XEnd where
  | va (addr : Nat)
  | grant (off : Nat)
  | window (dev : BitVec 14) (win : BitVec 13) (epoch : Byte) (off : Nat)
  | pattern (v : DWord)
  deriving DecidableEq, Repr

/-- An engine at work on a piece (R222): its number, the next byte of the piece in destination order, the piece's end, and the tracker entry of its transfer in flight. -/
structure XferEngine where
  no : Nat
  next : Nat
  last : Nat
  tid : Option Nat
  deriving DecidableEq, Repr

/-- A transfer command under way (R221, R222): rows of bytes between two ends, cut into pieces and transfers. -/
structure Xfer where
  src : XEnd
  dst : XEnd
  rows : Nat
  rowBytes : Nat
  srcStride : Nat
  dstStride : Nat
  prefetch : Bool
  /-- The first byte of the next piece to hand out, in destination order. -/
  nextPiece : Nat
  /-- Parts of pieces that a prefetch has handed back, its engines taken by other commands (R221): first byte, end. -/
  back : List (Nat × Nat)
  engines : List XferEngine
  issued : Nat
  /-- Destination words written poisoned, by address over 8 (R231). -/
  poisonWords : List Nat
  poisonSeen : Bool
  /-- The fault that stopped it, the first in time (R57). -/
  stop : Option Result
  deriving DecidableEq, Repr

/-- What a started packet is doing. -/
inductive Work where
  /-- The result stands; the packet waits for PACKET_COMPLETE. -/
  | finished
  /-- HCH.WAIT (R72): equality or not below. -/
  | wait (hitch : Nat) (eq : Bool) (v : DWord) (timeoutUs : Nat)
  /-- CTL.BARRIER (R68): packets still waited for; with QUEUE scope every earlier one of its queue. -/
  | barrier (queueScope : Bool) (waits : List Nat)
  | xfer (x : Xfer)
  /-- HCH.REMOTE_SIGNAL: its tracker entry, once it has one. -/
  | remoteSignal (tid : Option Nat)
  /-- XFR.WINDOW_REVOKE: the window, and the requests accepted before that have been answered since. -/
  | revoke (win : Nat) (answered : Nat)
  /-- An array command: ready, batched or running (R78 to R81), with the records it read before it started: a state header, or two problem records. -/
  | array (records : List Byte)
  /-- A Tackle command that waits for the chip (R292), or TKL.STEP running. -/
  | tklWait
  | tklStep
  | splOpen
  | splContrib (plan tag : Nat)
  | splClose (plan : Nat) (drop : Bool)
  /-- CTX.MAP of kind SCRATCHPAD waits for the target's started packets (R203). -/
  | grantWait (ctx first count : Nat) (waits : List Nat)
  /-- CTX.UNMAP waits for the accesses that were translated before it: their entries, and its result (R45). -/
  | unmapWait (waits : List (Nat × Byte)) (r : Result)
  | ctxDestroy (ctx : Nat) (startMs : Word)
  | qDestroy (gqid : Nat) (discarded : Nat)
  /-- STR.RESET by generation tag: the strand, entries left, packets cut (R416). -/
  | genReset (strand : Strand) (startMs : Word) (cut : Nat)
  | fnd
  deriving DecidableEq, Repr

structure Job where
  uid : Nat
  pkt : Packet
  ctx : Nat
  gen : BitVec 16
  /-- The context's settings when the packet started: its grant does not change under it (R203). -/
  settings : Ctx
  startMs : Word
  work : Work
  res : Option Result
  /-- Bytes that follow the reply on the management port and the mailbox (R457). -/
  data : List Byte
  deriving DecidableEq, Repr

/-! ## Memory (02, 08, 09) -/

/-- A redirected block (R245): unit, block, reserve unit, reserve block. -/
structure Remap where
  unit : Nat
  block : Nat
  rUnit : Nat
  rBlock : Nat
  deriving DecidableEq, Repr

structure Mem where
  /-- Bytes of tiers H, N and S and of the scratchpad by storage address, in canonical form. -/
  cells : List Host.Cell
  /-- Poisoned storage: disjoint intervals [lo, hi), ascending. -/
  poison : List (Nat × Nat)
  /-- Working regions whose bytes the spec leaves open: storage intervals [lo, hi) with the number of the use (log 2). -/
  loose : List (Nat × Nat × Nat)
  /-- Words that a DATA injection has corrupted and no read has found: storage address, uncorrectable (R407). -/
  damaged : List (Nat × Bool)
  /-- Host memory as the module finds it, by PASID and host address (hostKey). -/
  host : List Host.Cell
  /-- Ranges [lo, hi) of it whose reads the host refuses, and those it leaves without a completion (R46). -/
  hostRefused : List (Nat × Nat)
  hostSilent : List (Nat × Nat)
  /-- Placement groups that are STACKED, ascending (R236). -/
  stacked : List Nat
  /-- Physical bank of each logical bank; none: MISSING (R202, R208). -/
  banks : List (Option Nat)
  /-- Working tier S channels when start-up completed, ascending (R240). -/
  tsChannels : List Nat
  /-- The newest first: the first entry of a block says where it lies now. -/
  remaps : List Remap
  /-- Physical blocks that a fault has struck this power cycle, usable and reserve: unit, block, and whether what it held was remapped (R245, R248, R252). -/
  struck : List (Nat × Nat × Bool)
  /-- Dead blocks: unit, block (R249). -/
  dead : List (Nat × Nat)
  /-- Corrected-error table: unit, block, count, most recent first (R247). -/
  corrected : List (Nat × Nat × Nat)
  /-- Failed units whose blocks have been redirected (R248). -/
  redirected : List Nat
  /-- Blocks whose remap, and units whose redirection, is under way (R246, R248). -/
  busyBlocks : List (Nat × Nat)
  busyUnits : List Nat
  /-- MEM_STATUS and the reserve registers are set (phase 7). -/
  ready : Bool
  deriving DecidableEq, Repr

/-! ## Array (05, 06) -/

/-- A batch (R80): key packet, member uids with their rows, opening queue's deadline in us, passed or not. -/
structure Batch where
  id : Nat
  ctx : Nat
  members : List Nat
  rows : Nat
  ready : Bool
  deriving DecidableEq, Repr

/-- What one problem of the running operation has met so far. -/
structure ArrTally where
  invalidCols : Nat
  nonfinite : Nat
  saturated : Nat
  poisonSeen : Bool
  checkSeen : Bool
  metaInvalid : Bool
  flagged : Bool
  shortRows : Nat
  /-- The fault that stopped the problem, if any, with the tile and the k-step it was taken at. -/
  stop : Option Result
  stopTile : Nat
  stopK : Nat
  deriving DecidableEq, Repr

/-- An output element kept by the drain: problem, row, column, its value before write conversion (after it, on its way to the ranker) as binary64 bits, poison, and whether sat64 held it. -/
structure HeldEl where
  prob : Nat
  row : Nat
  col : Nat
  bits : BitVec 64
  poison : Bool
  sat : Bool
  deriving DecidableEq, Repr

/-- The check register file's part of one checked line (R143): what its checksum and magnitude lanes have spilled, and the k-steps the line has computed. -/
structure LaneSum where
  sum : BitVec 64
  mag : BitVec 64
  k : Nat
  deriving DecidableEq, Repr

/-- One cell of a register set, with the spill entry that goes with it (R115, R154, R168): the run register in E8M16, the total register in binary32, or an int32 on the INT8 path, the poison bit; the entry in binary64 or int64, none while EMPTY, and whether sat64 has held it. -/
structure CellReg where
  run : BitVec 25
  total : Word
  poison : Bool
  entry : Option (BitVec 64)
  sat : Bool
  deriving DecidableEq, Repr

/-- An array operation that the array has taken (R77). -/
structure ArrRun where
  /-- Its packets: one, or the members of a batch in row order. -/
  uids : List Nat
  batched : Bool
  /-- The tile in the array, and the k-steps of it already carried into the spill store. -/
  tile : Nat
  kPos : Nat
  /-- The active register set with its spill entries, row by row over the tile's used cells, as they stood at the last boundary (R115, R122). -/
  active : List CellReg
  /-- The shadow set: the starting values of the tile that comes next, by logical row (R123). -/
  shadow : KV (List CellReg)
  /-- What the tile's entries and totals started from, row by row; none where every cell started from nothing. -/
  starts : List (BitVec 64)
  /-- What the column lanes and the row lanes have spilled for the tile's lines (R143). -/
  colSums : List LaneSum
  rowSums : List LaneSum
  /-- Logical columns of the tile whose INVALID bit is set (R165). -/
  badCols : List Nat
  /-- One tally per packet, or per problem of a packed pair. -/
  tally : List ArrTally
  /-- Elements of blocks that the tile's successors complete (R101), or on their way to the ranker (R187). -/
  held : List HeldEl
  /-- Scale words read for blocks not complete: problem, entry, word, poison (R101). -/
  heldWords : List (Nat × Nat × Nat × Bool)
  /-- The operation ends at the next drain with this status. -/
  stop : Option Byte
  /-- It holds a working area of the spill store (R169). -/
  area : Bool
  /-- It reads or writes its context's grant (R208). -/
  grant : Bool
  /-- Logical shape, whipping coverage and repair latency when it started. -/
  size : Nat
  coverage : BitVec 2
  latency : Bool
  /-- It is a self-test: the failing cells and the faulty feeders or drain that it has found so far (R153). -/
  test : Bool
  cells : List (Nat × Nat)
  units : List Strand
  deriving DecidableEq, Repr

structure Arr where
  /-- Physical row of each logical row, physical column of each logical column, and the whipping lanes (R138, R142). -/
  rowMap : List Nat
  colMap : List Nat
  rowLanes : List Nat
  colLanes : List Nat
  /-- ARR_SHAPE (R152). -/
  shapeReg : Word
  /-- The map is to be rebuilt between operations (R140). -/
  rebuild : Bool
  /-- Operations ready for the array, in order of arrival. -/
  ready : List Nat
  batches : List Batch
  lastCtx : Nat
  lastQueue : KV Nat
  run : Option ArrRun
  /-- The operation chosen while the last tile of the running one is in the array (R124). -/
  next : Option ArrRun
  /-- Operations taken up while a new split was pending, to be judged by the split in force when they start (R171). -/
  unjudged : List Nat
  /-- SPILL_SPLIT: requested and applied array share in MiB (R170). -/
  splitReq : BitVec 5
  splitApplied : BitVec 5
  deriving DecidableEq, Repr

/-! ## Tracker (08) -/

/-- What an outstanding tracked request waits for. -/
inductive Req where
  /-- A read of device memory, then its write; a write of device memory. -/
  | memRead
  | memWrite
  | hostRead
  /-- A host request held back in D3hot (R494): a read or a write. -/
  | hostHeld (write : Bool)
  /-- A message sent to a peer. -/
  | peer (dev : BitVec 14)
  deriving DecidableEq, Repr

structure Entry where
  epoch : Byte
  ctx : Nat
  gen : BitVec 16
  strand : Strand
  sgen : Byte
  issueMs : Word
  uid : Nat
  req : Req
  /-- The transfer: row, first byte in the row, bytes (0 rows for a hitch signal). -/
  row : Nat
  off : Nat
  len : Nat
  /-- Device physical address of the request, or its host address with the PASID (hostKey). -/
  pa : Nat
  data : List Byte
  poison : List Bool
  deriving DecidableEq, Repr

structure Trk where
  entries : KV Entry
  /-- Epoch last given to each transfer ID. -/
  epochs : KV Byte
  /-- Entries retired for the power cycle (R396). -/
  retired : List Nat
  lateDrops : Word
  /-- PCIe tags of host reads freed by force that are still in use: transfer ID, epoch (R423). -/
  tagsHeld : List (Nat × Byte)
  deriving DecidableEq, Repr

/-! ## Windows, links and routing (12) -/

structure Window where
  valid : Bool
  epoch : Byte
  dev : Nat
  ctx : Nat
  gen : BitVec 16
  hitchKind : Bool
  read : Bool
  write : Bool
  base : Nat
  length : Nat
  owner : Nat
  ownerGen : BitVec 16
  deriving DecidableEq, Repr

inductive LinkState where
  | down
  | training
  | up
  | fenced
  deriving DecidableEq, Repr

/-- A message waiting to cross a link, with its flit header fields (R328). -/
structure Outbound where
  dest : Nat
  hops : Nat
  localOnly : Bool
  bytes : List Byte
  /-- The link it arrived on, when it is being forwarded: its units there are freed as it is sent (R333). -/
  origin : Option Nat
  deriving DecidableEq, Repr

/-- A message delivered to this module and not yet acted on: its link (32: sent by this module to itself) and virtual channel. -/
structure Arrival where
  link : Nat
  vc : Nat
  localOnly : Bool
  bytes : List Byte
  deriving DecidableEq, Repr

/-- One virtual channel of one link (R332, R333). -/
structure Vc where
  txAvail : Nat
  rxHeld : Nat
  /-- CR_TOTAL sent to the peer, and the peer's value last seen, modulo 4,096. -/
  crTotal : Nat
  crSeen : Nat
  txq : List Outbound
  /-- The message under way to the peer, and the bytes of it already sent (R329). -/
  tx : Option (Outbound × Nat)
  /-- The message under reassembly: its header fields and the bytes still to come. -/
  rx : Option (Outbound × Nat)
  deriving DecidableEq, Repr

structure Link where
  state : LinkState
  rtt : BitVec 10
  retrains : Byte
  peerValid : Bool
  peerDev : Option (BitVec 14)
  peerLink : BitVec 5
  /-- Next SEQ to send, next SEQ expected, the SEQ of the NAK run and its length. -/
  txSeq : Nat
  rxSeq : Nat
  nakSeq : Nat
  nakRun : Nat
  /-- A NAK has been sent; DATA flits are dropped until rxSeq arrives (R330). -/
  dropping : Bool
  replay : List (Nat × List Byte)
  attempts : Nat
  /-- The audit has been sent, and the peer's has been checked (R335). -/
  auditSent : Bool
  audited : Bool
  /-- The CR_TOTAL values of its last audit, which its flits repeat until the peer's audit comes (R335). -/
  auditCr : List Nat
  /-- The virtual channel that the round-robin offers the next flit (R329). -/
  turn : Nat
  /-- DATA flits dropped because their SEQ was already acknowledged (R330). -/
  duplicates : Nat
  /-- It has completed an audit this power cycle. -/
  trained : Bool
  vcs : List Vc
  deriving DecidableEq, Repr

structure Lnk where
  links : List Link
  routing : KV (BitVec 16)
  deviceId : BitVec 14
  deviceIdValid : Bool
  fmgr : List Word
  drops : List Word
  inbox : List Arrival
  /-- Requests accepted and not carried out yet, in arrival order: the window that accepted each, the link it came on, the message (R246, R344). -/
  held : List (Nat × Nat × Msg)
  /-- Flits sent, oldest first: link, flit (log 11). -/
  out : List (Nat × List Byte)
  /-- VC of the rotation of CR_VC and of the last flit sent, per link. -/
  rot : List Nat
  deriving DecidableEq, Repr

/-! ## Splice (10) -/

structure Route where
  contrib : Bool
  tail : Bool
  down : Nat
  parent : Nat
  ups : List Nat
  children : List Nat
  c : Nat
  contribSum : Word
  waitMs : Nat
  finalMs : Nat
  deriving DecidableEq, Repr

/-- A merge slot in use (R266, R270): the inputs taken and the running chunk. -/
structure Slot where
  chunk : Nat
  /-- Positions in UP_DEV taken; 255 stands for the local input. -/
  taken : List Nat
  elems : List Word
  checks : List (BitVec 5)
  poison : List Bool
  count : Nat
  devSum : Word
  checkFail : Bool
  partialSum : Bool
  missing : Option Nat
  /-- Sent downstream, or finished at the tail; the slot waits for its release (R268). -/
  sent : Bool
  deriving DecidableEq, Repr

inductive BktState where
  | idle
  | armed
  | active
  | done
  | abandoned
  deriving DecidableEq, Repr

structure Bkt where
  -- the entry (R262)
  tag : Nat
  lowrank : Bool
  demoted : Bool
  receive : Bool
  startContrib : Bool
  proceed : Bool
  doneSignal : Bool
  route : Nat
  rank : Nat
  windowLog2 : Nat
  rows : Nat
  cols : Nat
  gVa : Nat
  outVa : Nat
  eVa : Nat
  qVa : Nat
  workVa : Nat
  doneHitch : Nat
  -- its progress in the step
  state : BktState
  activeMs : Word
  sentLastMs : Option Word
  /-- First slot of its window in the splice partition, while active. -/
  firstSlot : Nat
  slots : List Slot
  /-- Chunks released; GRANT_LIMIT received from DOWN_DEV; GRANT_LIMIT sent to UP_DEV. -/
  released : List Nat
  grantIn : Nat
  grantOut : Nat
  /-- Local chunks read; the uid of the SPL.CONTRIB that gave the contribution. -/
  localRead : List Nat
  contribGiven : Option Nat
  /-- Upstream chunks taken: position, chunk; upstreams given up under PROCEED. -/
  upTaken : List (Nat × Nat)
  upGone : List Nat
  /-- Finished chunks written or forwarded. -/
  finals : List Nat
  -- its outcome (R289)
  statuses : List Byte
  partialSeen : Bool
  checkSeen : Bool
  missing : Option Nat
  cause : Nat
  nonfinite : Nat
  poisoned : Nat
  contribCount : Nat
  deficient : Nat
  mFormed : Bool
  /-- SPL.LOWRANK REFORMED has been given (R285). -/
  reformed : Bool
  /-- Low-rank step reached: 0 not begun, 1 to 8 done. -/
  lrStep : Nat
  deriving DecidableEq, Repr

structure Plan where
  owner : Nat
  jobKey : Word
  lrMin : Nat
  statusVa : Nat
  spWork : Nat
  routes : List Route
  buckets : List Bkt
  /-- The armed step, and the step of the previous arming. -/
  armed : Option (BitVec 16)
  prevStep : Option (BitVec 16)
  hitch : Nat
  v : DWord
  /-- The hitch condition of R258 has held. -/
  begun : Bool
  stray : Word
  stale : Word
  deriving DecidableEq, Repr

structure Spl where
  plans : KV Plan
  /-- Armed plans in the order of their arming (R265). -/
  order : List Nat
  deriving DecidableEq, Repr

/-! ## Tackle (11) -/

/-- A group entry (R298). -/
structure TklGroup where
  base : Nat
  nParams : Nat
  gVa : Nat
  wVa : Nat
  scaleVa : Nat
  hitch : Nat
  wFmt : Byte
  wBlocking : Byte
  wCols : Nat
  gflags : BitVec 16
  /-- Reserved bytes of a record stored with ENABLED clear: bytes 50 to 63 and 100 to 103. -/
  rsvd : List Byte
  b1 : Word
  c1 : Word
  b2 : Word
  c2 : Word
  am : Word
  ag : Word
  ap : Word
  eps : Word
  t : Word
  p1 : DWord
  p2 : DWord
  eta : Word
  mu : Word
  stepArmed : Bool
  deriving DecidableEq, Repr

/-- TKL.STEP under way (R305 to R313). -/
structure TklRun where
  uid : Nat
  first : Nat
  last : Nat
  group : Nat
  block : Nat
  frozenSkips : Nat
  skipNonfinite : Nat
  skipOverflow : Nat
  skipPoison : Nat
  wSaturated : Nat
  groupsDone : Nat
  paramsDone : Nat
  anyUnfrozen : Bool
  digestPoisoned : Bool
  /-- CRC of the current group so far; finished groups: BASE, bytes, CRC. -/
  crc : DWord
  crcs : List (Nat × Nat × DWord)
  /-- Skip bits of the current group. -/
  skips : List Bool
  /-- Master weights not yet converted to block-scaled working weights, and whether each is poisoned (R308). -/
  band : List (Word × Bool)
  deriving DecidableEq, Repr

structure Tkl where
  groups : KV TklGroup
  owner : Option Nat
  incomplete : Bool
  incGroup : Nat
  run : Option TklRun
  /-- Packets for the Tackle chip that wait while it runs another, in the order in which they became ready (R292). -/
  waiting : List Nat
  deriving DecidableEq, Repr

/-! ## Telltales (R232, R233) -/

structure Telltale where
  owner : Option Nat
  written : Nat
  zeros : Nat
  saturated : Nat
  nonfinite : Nat
  maxExp : Int
  deriving DecidableEq, Repr

/-! ## Resets, captures and the hang detector (15) -/

/-- A fence-and-drain request (R419): target strand, cause of RESET_BEGIN, the packet that asked. -/
structure FndReq where
  target : Strand
  cause : Nat
  escalated : Bool
  uid : Option Nat
  /-- A snarl's capture serves it (R428). -/
  captured : Bool := false
  deriving DecidableEq, Repr

/-- The fence-and-drain reset that runs. -/
structure FndRun where
  target : Strand
  cause : Nat
  beginMs : Word
  /-- When its present phase began. -/
  phaseMs : Word
  /-- The host link started it, or fell during it (R417, R495). -/
  hostLink : Bool
  uids : List Nat
  forced : Nat
  aborted : Nat
  captureNo : Nat
  /-- It restarts the management firmware in RESTORE (R413). -/
  restart : Bool
  /-- After a widening: the strand that was under reset before it, and the phase that strand has reached (R419). -/
  past : Option (Strand × Nat)
  deriving DecidableEq, Repr

structure Rst where
  phase : Nat
  target : Nat
  escalated : Bool
  done : Bool
  resets : Nat
  run : Option FndRun
  waiting : List FndReq
  deriving DecidableEq, Repr

/-- A capture under way (R430). -/
structure Capture where
  cause : Nat
  named : Nat
  spans : Bool
  oldest : Nat
  target : Nat
  trigMs : Word
  inSnarl : List Nat
  deriving DecidableEq, Repr

structure Capt where
  /-- CAPT_CTL [3:0]: HOLD_AFTER, MARK_EN, TRIG_OUT_EN, TRIG_IN_EN. -/
  ctl : BitVec 4
  cur : Option Capture
  held : Bool
  inSram : Bool
  missed : Nat
  no : Word
  sram : List Host.Cell
  deriving DecidableEq, Repr

/-- A context all of whose queues with work are blocked: since when, the hitches waited on with their values, its open packets, and whether it has been recorded (R429). -/
structure Stall where
  since : Word
  values : List (Nat × DWord)
  uids : List Nat
  recorded : Bool
  deriving DecidableEq, Repr

/-- What the Snarl detector keeps between evaluations (R426, R429). -/
structure Snarl where
  /-- The candidate sets of the last evaluation: queues, with the hitches waited on and their values. -/
  last : List (List Nat × List (Nat × DWord))
  /-- The set declared, whose context waits for the capture: named context, set (R428). -/
  declared : Option (Nat × List Nat)
  stalls : KV Stall
  deriving DecidableEq, Repr

/-! ## PCI Express (18) -/

/-- What the endpoint has sent, oldest first (log 11). -/
inductive PciOut where
  | msix (vector : Nat) (addr : DWord) (data : Word)
  /-- A completion of a BAR read: data, EP. -/
  | completion (data : List Byte) (ep : Bool)
  /-- Unsupported Request to an access in D3hot (R494). -/
  | unsupported
  /-- A memory read request of a transfer: PASID, host address, bytes (R223). -/
  | hostRead (pasid : Option (BitVec 20)) (addr len : Nat)
  /-- One TLP of a host write: PASID, host address, data, EP, Relaxed Ordering (R46, R55, R223, R231). -/
  | hostWrite (pasid : Option (BitVec 20)) (addr : Nat) (data : List Byte) (ep relaxed : Bool)
  /-- An error reported through AER (R496). -/
  | aer (what : String)
  deriving DecidableEq, Repr

structure MsixEntry where
  addr : DWord
  data : Word
  masked : Bool
  deriving DecidableEq, Repr

structure Pci where
  badAccess : Bool
  apertureDrop : Bool
  apertureDrops : Nat
  irqStatus : BitVec 9
  irqEnable : BitVec 9
  irqVector : BitVec 11
  /-- DB_ERR bits set, as context numbers (R487). -/
  dbErr : List Nat
  /-- APERTURE.BASE, 18 bits (R490), and log2 of the BAR4 size in GiB (R480). -/
  base : Nat
  bar4Log : Nat
  msix : KV MsixEntry
  pending : List Nat
  mboxBusy : Bool
  mboxDone : Bool
  /-- The packet that runs, and mailbox memory from offset 0x100 (R492). -/
  mboxUid : Option Nat
  mbox : List Host.Cell
  d3hot : Bool
  /-- Configuration Request Retry Status, and the endpoint held in reset (R464, R495). -/
  crs : Bool
  inReset : Bool
  /-- The PCIe completion timeout in force, in milliseconds: 50 by default, and no command of the table sets it (R480). -/
  cplTimeoutMs : Nat
  /-- The Max Payload Size in force, in bytes: 128 by default, and no command of the table sets it (R223, R480). -/
  maxPayload : Nat
  out : List PciOut
  deriving DecidableEq, Repr

/-! ## Management port (16) -/

inductive MgtOut where
  | i3cAck (addr : BitVec 7)
  | mctp (command : String) (data : List Byte)
  | packetRsp (tag : Byte) (reply : List Byte) (data : List Byte)
  | captRsp (tag : Byte) (status : Byte) (data : List Byte)
  | pldm (command : String) (code : Nat) (data : List Byte)
  /-- A PlatformEventMessage of class 0xF0. -/
  | event (record : List Byte)
  /-- What a private instruction of the IEEE 1149.1 port shifts out. -/
  | jtag (value : Nat)
  deriving DecidableEq, Repr

/-- Steps of a PLDM firmware update (R461). -/
inductive Pldm where
  | idle
  | learn
  | ready
  /-- Bytes of the image, and bytes received. -/
  | download (size : Nat) (got : Nat)
  | verify (size : Nat)
  | apply
  | activate
  deriving DecidableEq, Repr

structure Mgt where
  i3cAddr : Option (BitVec 7)
  eid : Option Byte
  /-- A packet from the port runs (R458). -/
  busyUid : Option Nat
  receiver : Option (Byte × Bool)
  events : List (List Byte)
  pldm : Pldm
  image : List Host.Cell
  /-- Control cores halted over the IEEE 1149.1 port (R477). -/
  halted : List Nat
  out : List MgtOut
  deriving DecidableEq, Repr

end Sys2Proof.Machine

namespace Sys2Proof.Machine

/-- The state of the module. -/
structure State where
  pending : List Instr
  /-- Free values drawn so far: the model's own field (log 2). -/
  freeCtr : Nat
  /-- The number the next packet gets when it is fetched: the model's own field (log 3). -/
  nextUid : Nat
  clk : Clk
  pwr : Pwr
  fw : Fw
  log : Log
  str : Str
  ctxs : KV Ctx
  queues : KV Queue
  hitches : KV Hitch
  /-- Packets read and not started, in the order they were read, with their numbers. -/
  fetched : KV Packet
  jobs : List Job
  mem : Mem
  arr : Arr
  trk : Trk
  wins : KV Window
  lnk : Lnk
  spl : Spl
  tkl : Tkl
  ttls : KV Telltale
  rst : Rst
  capt : Capt
  snarl : Snarl
  pci : Pci
  mgt : Mgt
  deriving DecidableEq, Repr

/-- A virtual channel before the first training (R353, Reset column). -/
def Vc.initial : Vc := { txAvail := 0, rxHeld := 0, crTotal := 0, crSeen := 0, txq := [], tx := none, rx := none }

/-- A link before the first training (R353, Reset column). -/
def Link.initial : Link :=
  { state := .down, rtt := 0, retrains := 0, peerValid := false, peerDev := none, peerLink := 0
    txSeq := 0, rxSeq := 0, nakSeq := 0, nakRun := 0, dropping := false, replay := [], attempts := 0
    auditSent := false, audited := false, auditCr := [], turn := 0, duplicates := 0, trained := false, vcs := [Vc.initial, Vc.initial, Vc.initial, Vc.initial] }

/-- The module as delivered (R518), without power: registers at the Reset column of their tables; other values as the log names them. -/
def State.reset : State :=
  { pending := []
    freeCtr := 0
    nextUid := 0
    clk := { uptimeMs := 0, opSeconds := 0, powerCycles := 0, msToSecond := 0, secToPersist := 0
             persistedSeconds := 0, persistedCycles := 0, journal := [], flushed := true }
    pwr := { phase := .unpowered, inputOk := false, pwrEn := false, perstLow := true, sysResetLow := true, refclk := true
             pwrgdLow := false, faultNLow := false, okNLow := false, thermtripLow := false, trigPulses := 0
             moduleId := 0, idHistory := [], held := false, tripLatch := false, tripMarker := none, inputMarker := none
             watchdog := false, selfTestFenced := 0, domainsOff := [] }
    fw := { slotA := Config.factoryImage, slotB := Config.factoryImage, prefB := false, tries := 0, confA := true, confB := true
            runB := false, bootFailed := false, verA := false, verB := false, bootCause := 0, fallback := false
            keyRevoked := 0, rollback := 0
            keyHash := [Config.keyHash 0, Config.keyHash 1, Config.keyHash 2, Config.keyHash 3]
            uniqueSecret := Config.uniqueSecret, serial := Config.serial, cert := Config.certificate
            fuseRemoved := [], stagedMap := [], staging := .none, mImage := 0, mFuses := 0, mRepair := 0 }
    log := { area := [], writer := 0, buffer := [], dropped := 0, buckets := [], fenceCounts := [], prevFaults := [], booted := false }
    str := { stoppers := [], phasesDone := 0, standby := [], sources := [], gens := [], newEvents := [], levelsLogged := 0, held := 0, lost := 0
             faultLevels := 0b11011, deviceErr := false, scanNo := 0, armed := [], errSel := 0, recorded := [] }
    ctxs := []
    queues := []
    hitches := []
    fetched := []
    jobs := []
    mem := { cells := [], poison := [], loose := [], damaged := [], host := [], hostRefused := [], hostSilent := [], stacked := [], banks := [], tsChannels := [], remaps := [], struck := [], dead := []
             corrected := [], redirected := [], busyBlocks := [], busyUnits := [], ready := false }
    arr := { rowMap := [], colMap := [], rowLanes := [], colLanes := [], shapeReg := 0x1B, rebuild := false
             ready := [], batches := [], lastCtx := 0, lastQueue := [], run := none, next := none, unjudged := [], splitReq := 4, splitApplied := 4 }
    trk := { entries := [], epochs := [], retired := [], lateDrops := 0, tagsHeld := [] }
    wins := []
    lnk := { links := List.replicate 32 Link.initial, routing := [], deviceId := 0, deviceIdValid := false
             fmgr := [0, 0, 0, 0], drops := [0, 0, 0, 0], inbox := [], held := [], out := [], rot := List.replicate 32 0 }
    spl := { plans := [], order := [] }
    tkl := { groups := [], owner := none, incomplete := false, incGroup := 0, run := none, waiting := [] }
    ttls := []
    rst := { phase := 0, target := 7, escalated := false, done := false, resets := 0, run := none, waiting := [] }
    capt := { ctl := 0, cur := none, held := false, inSram := false, missed := 0, no := 0, sram := [] }
    snarl := { last := [], declared := none, stalls := [] }
    pci := { badAccess := false, apertureDrop := false, apertureDrops := 0, irqStatus := 0, irqEnable := 0x1FF, irqVector := 0
             dbErr := [], base := 0, bar4Log := 6, msix := [], pending := [], mboxBusy := false, mboxDone := false
             mboxUid := none, mbox := [], d3hot := false, crs := true, inReset := true, cplTimeoutMs := 50, maxPayload := 128, out := [] }
    mgt := { i3cAddr := none, eid := none, busyUid := none, receiver := none, events := [], pldm := .idle, image := [], halted := [], out := [] } }

end Sys2Proof.Machine
end

