-- ==== Sys2Proof/Machine/Strands.lean ====
section
/-! DEFINITION. The strand tree, strand IDs, and which strands are fenced, on standby or admitted (R22 to R32, R397, R465, R520). -/

namespace Sys2Proof.Machine

/-! ## Names -/

def sIZ : Strand := [0]
def sARR : Strand := [0, 0]
def sROW (n : Nat) : Strand := [0, 0, 0, n]
def sCOL (n : Nat) : Strand := [0, 0, 1, n]
def sFDA : Strand := [0, 0, 2]
def sFDB : Strand := [0, 0, 3]
def sDRN : Strand := [0, 0, 4]
def sSPILL : Strand := [0, 1]
def sVEC (c : Nat) : Strand := [0, 2, c]
def sGROUP (c g : Nat) : Strand := [0, 2, c, 0, g]
def sSP (b : Nat) : Strand := [0, 3, b]
def sXE (n : Nat) : Strand := [0, 4, n]
def sTRK : Strand := [0, 5]
def sDSP : Strand := [0, 6]
def sCC (n : Nat) : Strand := [0, 7, n]
def sMG : Strand := [0, 8]
def sSPL : Strand := [0, 9]
def sADD (n : Nat) : Strand := [0, 9, n, 0]
def sCHK (n : Nat) : Strand := [0, 9, n, 1]
def sLANEPAIR (n : Nat) : Strand := [0, 9, n]
def sGEN : Strand := [0, 9, 0x40]
def sTN (n : Nat) : Strand := [0, 0xA, n]
def sPCI : Strand := [0, 0xB]
def sTL : Strand := [0, 0xC]
def sGSX : Strand := [0, 0xD]
def sBOOT : Strand := [0, 0xE]
def sMB (n : Nat) : Strand := [1 + n]
def sH (n : Nat) : Strand := [1 + n / 4, n % 4]
def sPC (n p : Nat) : Strand := [1 + n / 4, n % 4, p]
def sL (n : Nat) : Strand := [1 + n / 8, 0x10 + n % 8]
def sLANE (n k : Nat) : Strand := [1 + n / 8, 0x10 + n % 8, 0, k]
def sDJ (n : Nat) : Strand := [1 + n, 0x20]
def sDJM (n k : Nat) : Strand := [1 + n, 0x20, k]
def sRT (n : Nat) : Strand := [1 + n, 0x21]
def sCTL (n : Nat) : Strand := [1 + n, 0x22]
def sTK : Strand := [5]
def sTKL (n : Nat) : Strand := [5, 0, n]
def sTS (n : Nat) : Strand := [5, 1, n]
def sTX : Strand := [5, 2]
def sTCTL : Strand := [5, 3]
def sPWR : Strand := [6]
def sSEQ : Strand := [6, 0]
def sPH (n : Nat) : Strand := [6, 1, n]

/-- The child indices of a strand (R24). -/
def kids : Strand → List Nat
  | [] => List.range 7
  | [0] => List.range 15
  | [0, 0] => List.range 5
  | [0, 0, 0] => List.range 200
  | [0, 0, 1] => List.range 200
  | [0, 2] => List.range 4
  | [0, 2, _] => [0]
  | [0, 2, _, 0] => List.range 132
  | [0, 3] => List.range 50
  | [0, 4] => List.range 34
  | [0, 7] => List.range 5
  | [0, 9] => List.range 65
  | [0, 9, n] => if n < 64 then [0, 1] else []
  | [0, 0xA] => List.range 16
  | [5] => List.range 4
  | [5, 0] => List.range 68
  | [5, 1] => List.range 12
  | [6] => List.range 2
  | [6, 1] => List.range 26
  | [m] => if 1 ≤ m ∧ m ≤ 4 then List.range 4 ++ (List.range 8).map (· + 0x10) ++ [0x20, 0x21, 0x22] else []
  | [m, x] =>
    if 1 ≤ m ∧ m ≤ 4 then
      if x < 4 then List.range 32
      else if 0x10 ≤ x ∧ x < 0x18 then [0]
      else if x = 0x20 then List.range 24 else []
    else []
  | [m, x, 0] => if 1 ≤ m ∧ m ≤ 4 ∧ 0x10 ≤ x ∧ x < 0x18 then List.range 5 else []
  | _ => []

/-- Does every step of the path lead to a child, starting from a strand that exists? -/
def strandFrom (base : Strand) : List Nat → Bool
  | [] => true
  | i :: t => (kids base).contains i && strandFrom (base ++ [i]) t

/-- Does the path name a strand of this module (R24, R26)? -/
def strandOk (p : Strand) : Bool := strandFrom [] p

/-- The strand ID of a path (R25). -/
def strandId (p : Strand) : Nat :=
  2 ^ 60 * p.length + ((List.range p.length).map fun i => 2 ^ (52 - 8 * i) * p.getD i 0).sum

/-- The strand that an ID names; none when it is malformed or names none (R26). -/
def strandOf (id : Nat) : Option Strand :=
  let d := fld id 63 60
  let p := (List.range d).map fun i => fld id (59 - 8 * i) (52 - 8 * i)
  if d ≤ 7 ∧ id < 2 ^ 64 ∧ strandOk p ∧ strandId p = id then some p else none

/-- The strand of a valid ID; the root for an ID that no table of the state holds. -/
def strandAt (id : Nat) : Strand := (strandOf id).getD []

/-- The strand's proper ancestors, the root first. -/
def ancestors (p : Strand) : List Strand := (List.range p.length).map fun n => p.take n

/-- Is q the strand p or below it? -/
def below (p q : Strand) : Bool := q.take p.length = p

/-- The strands below p, without p, to depth n. -/
def descend : Nat → Strand → List Strand
  | 0, _ => []
  | n + 1, p => (kids p).flatMap fun i => (p ++ [i]) :: descend n (p ++ [i])

def descendants (p : Strand) : List Strand := descend 7 p

/-! ## Stoppers -/

def stopperOf (s : State) (p : Strand) : Option Stopper := kvGet (strandId p) s.str.stoppers

/-- A stopper that fences what is below it: any kind but DERIVED (R28). -/
def fences (st : Option Stopper) : Bool :=
  match st with
  | some x => x.kind != .derived
  | none => false

/-- Does an ancestor carry a stopper of kind OPERATOR, FAULT or REMOVED? -/
def ancestorFenced (s : State) (p : Strand) : Bool := (ancestors p).any fun q => fences (stopperOf s q)

/-- FENCED (R27, R28): a stopper on the strand, or a fencing one on an ancestor. -/
def fenced (s : State) (p : Strand) : Bool := (stopperOf s p).isSome || ancestorFenced s p

/-- The stopper on the strand or an ancestor that is of one kind. -/
def stoppedBy (s : State) (k : StopKind) (p : Strand) : Bool :=
  (p :: ancestors p).any fun q => (stopperOf s q).any fun x => x.kind == k

/-- The STOPPER field of ERR_STRAND: the highest kind that applies (R397). -/
def stopperCode (s : State) (p : Strand) : Nat :=
  let own := match stopperOf s p with
    | some ⟨.operator, _⟩ => 1
    | some ⟨.derived, _⟩ => 2
    | some ⟨.fault, _⟩ => 4
    | some ⟨.removed, _⟩ => 5
    | none => 0
  max own (if ancestorFenced s p then 3 else 0)

/-! ## Fence-and-drain (R417) -/

/-- The strand whose RST_STATUS.TARGET code is n. -/
def fndStrand : Nat → Strand
  | 0 => []
  | n + 1 => [if n = 0 then 0 else n]

/-- The RST_STATUS.TARGET code of a strand (R421): root 0, IZ 1, MB0 to MB3 2 to 5, TK 6. -/
def fndCode : Strand → Nat
  | [] => 0
  | i :: _ => i + 1

/-- Is the strand under a fence-and-drain reset, from FENCE to RESTORE? A root reset takes IZ, MB0 to MB3 and TK (R413). -/
def underReset (s : State) (p : Strand) : Bool :=
  match s.rst.run with
  | none => false
  | some r =>
    if r.target = [] then (match p with | [] => true | i :: _ => decide (i ≤ 5))
    else below r.target p

/-- The phase that a strand under reset has reached: after a widening, the further one of its own and the whole reset's (R419). -/
def phaseAt (s : State) (p : Strand) : Nat :=
  if !underReset s p then 0
  else match s.rst.run.bind FndRun.past with
    | some (t, n) => if below t p then max n s.rst.phase else s.rst.phase
    | none => s.rst.phase

/-- The strand is out of use for a command: fenced, or under fence-and-drain (R417). -/
def outOfUse (s : State) (p : Strand) : Bool := fenced s p || underReset s p

/-! ## Start-up and standby -/

/-- Start-up phases that must have completed before the strand is admitted (R463, R465): management in 2, host in 3, the rest in 6. -/
def admitPhase : Strand → Nat
  | [] => 3
  | [0] => 3
  | [0, 8] => 3
  | [0, 0xE] => 3
  | 6 :: _ => 1
  | [0, 0xB] => 4
  | 0 :: 7 :: _ => 4
  | [0, 5] => 4
  | [0, 6] => 4
  | _ => 7

def admitted (s : State) (p : Strand) : Bool := decide (admitPhase p ≤ s.str.phasesDone)

/-- Working: admitted and not fenced. -/
def working (s : State) (p : Strand) : Bool := admitted s p && !fenced s p

/-- Splice adder lane n works while its adder and its checker work (R276). -/
def splLaneWorks (s : State) (n : Nat) : Bool := working s (sADD n) && working s (sCHK n)

def splLanes (s : State) : List Nat := (List.range 64).filter (splLaneWorks s)

/-- Working lanes of a link, ascending; the first four carry it (R324). -/
def linkLanes (s : State) (l : Nat) : List Nat := (List.range 5).filter fun k => !fenced s (sLANE l k)

/-- STANDBY (R27, R520): a healthy spare that carries no service. -/
def standby (s : State) (p : Strand) : Bool :=
  !fenced s p && (!admitted s p || (match p with
    | [0, 0, 0, n] => !(s.arr.rowMap ++ s.arr.rowLanes).contains n
    | [0, 0, 1, n] => !(s.arr.colMap ++ s.arr.colLanes).contains n
    | [0, 3, n] => !s.mem.banks.contains (some n)
    | [0, 9, n] => decide (n < 64) && decide ((splLanes s).length % 2 = 1) && ((splLanes s).getLast? == some n)
    | [m, x, 0, k] =>
      decide (1 ≤ m) && decide (m ≤ 4) && !((linkLanes s ((m - 1) * 8 + (x - 0x10))).take 4).contains k
    | _ => s.str.standby.contains (strandId p)))

/-- STATE of STR.QUERY (R27). -/
def strandState (s : State) (p : Strand) : Nat :=
  if fenced s p then 2
  else if standby s p then 3
  else if (descendants p).any (fenced s) then 1 else 0

/-! ## Sources and summaries -/

def noSources : Sources := { sticky := 0, counts := [], fenceEvents := 0 }

def sourcesOf (s : State) (p : Strand) : Sources := kvGetD (strandId p) noSources s.str.sources

/-- Strands whose island clock is source 15 (R519). -/
def hasClock : Strand → Bool
  | [0, 0] => true
  | [0, 0, 0, _] => true
  | [0, 0, x] => decide (2 ≤ x)
  | [0, 2, _] => true
  | [0, 3, _] => true
  | [0, 4, _] => true
  | [0, 7, _] => true
  | [0, 0xA, _] => true
  | [0, x] => [1, 5, 6, 8, 9, 0xB, 0xC, 0xD, 0xE].contains x
  | [5, 0, _] => true
  | [5, 1, _] => true
  | [5, x] => decide (2 ≤ x)
  | [m, x] => decide (1 ≤ m) && decide (m ≤ 4) && (decide (x < 0x18) || decide (0x20 ≤ x))
  | _ => false

/-- The 236 clock islands in the order of the table of R16, each with the strands of R519 that it holds; the numbers are the model's (log 118). A cell island is 20 by 20 physical cells, and its strands are its 20 rows. -/
def islandStrands (n : Nat) : List Strand :=
  if n < 100 then (List.range 20).map fun k => sROW (n / 10 * 20 + k)
  else if n = 100 then [sFDA]
  else if n = 101 then [sFDB]
  else if n = 102 then [sDRN, sSPILL]
  else if n < 128 then [sSP (2 * (n - 103)), sSP (2 * (n - 103) + 1)]
  else if n < 132 then [sVEC (n - 128)]
  else if n = 132 then [sGSX]
  else if n < 135 then (List.range 17).map fun k => sXE ((n - 133) * 17 + k)
  else if n = 135 then [sTRK]
  else if n = 136 then [sDSP]
  else if n < 142 then [sCC (n - 137)]
  else if n = 142 then [sMG]
  else if n = 143 then [sBOOT]
  else if n < 146 then [sSPL]
  else if n < 154 then [sTN (2 * (n - 146)), sTN (2 * (n - 146) + 1)]
  else if n = 154 then [sPCI]
  else if n = 155 then [sTL]
  else if n < 160 then [sDJ (n - 156)]
  else if n < 224 then
    let die := (n - 160) / 16
    let k := (n - 160) % 16
    if k < 4 then [sH (4 * die + k)]
    else if k < 12 then [sL (8 * die + (k - 4))]
    else if k = 12 then [sRT die]
    else if k = 13 then [sDJ die]
    else [sCTL die]
  else if n < 228 then (List.range 17).map fun k => sTKL ((n - 224) * 17 + k)
  else if n < 234 then [sTS (2 * (n - 228)), sTS (2 * (n - 228) + 1)]
  else if n = 234 then [sTX]
  else if n = 235 then [sTCTL]
  else []

/-- The strands on which a clock fault raises source 15 (R17, R519). -/
def clockStrands : ClockFault → List Strand
  | .arrayLoop => [sARR, sSPILL]
  | .island n => islandStrands n

/-- Strands that can be the destination of a tracked request: source 14 (R519). -/
def hasTimeout : Strand → Bool
  | [0, 0xB] => true
  | [0, 0xA, _] => true
  | [5, 1, _] => true
  | [m, x] => decide (1 ≤ m) && decide (m ≤ 4) && decide (0x10 ≤ x) && decide (x < 0x18)
  | [m, x, _] => decide (1 ≤ m) && decide (m ≤ 4) && decide (x < 4)
  | _ => false

/-- The classes of a strand's sources, from source 0 on: 0 CORRECTED, 1 CONTAINED, 2 UNIT, 3 DEVICE (R396). -/
def ownClasses : Strand → List Nat
  | [] => [3]
  | [0, 0, 0, _] => [2]
  | [0, 0, 1, _] => [2]
  | [0, 0, x] => if 2 ≤ x ∧ x ≤ 4 then [2] else []
  | [0, 2, _, 0, _] => [2]
  | [0, 3, _] => [0, 2]
  | [0, 4, _] => [2]
  | [0, 7, _] => [0, 2]
  | [0, 9, n] => if n = 0x40 then [2] else []
  | [0, 9, _, _] => [2]
  | [0, 0xA, _] => [0, 2, 2]
  | [0, x] => ([(1, [0, 2]), (5, [0, 1, 3]), (6, [0, 2, 1, 1, 1]), (8, [3]), (0xB, [0, 3]), (0xC, [0, 2])].lookup x).getD []
  | [5, 0, _] => [2]
  | [5, 1, _] => [0, 2, 2]
  | [5, x] => if x = 2 then [0, 2] else if x = 3 then [2] else []
  | [6, x] => if x = 0 then [3] else []
  | [6, 1, _] => [2]
  | [m, x] =>
    if m < 1 ∨ 4 < m then [] else if x < 4 then [2] else if x < 0x18 then [0, 2, 2] else if x = 0x21 then [0] else if x = 0x22 then [2] else []
  | [m, x, _] => if m < 1 ∨ 4 < m then [] else if x < 4 then [0, 2, 2] else if x = 0x20 then [2] else []
  | [m, x, 0, _] => if 1 ≤ m ∧ m ≤ 4 ∧ 0x10 ≤ x ∧ x < 0x18 then [0, 2] else []
  | _ => []

/-- The class of a source of a strand (R396, R519); none where the strand lacks it. -/
def sourceClass (p : Strand) (src : Nat) : Option Nat :=
  if src = 15 then (if hasClock p then some 2 else none)
  else if src = 14 then (if hasTimeout p then some 0 else none)
  else (ownClasses p)[src]?

/-- Has the source a DATA mode (the injection column of R396)? -/
def hasDataMode (p : Strand) (src : Nat) : Bool :=
  match p, src with
  | [0, 6], 2 => false
  | [0, 6], 4 => false
  | [0, 8], _ => false
  | [0, 0xA, _], 2 => false
  | [5, 1, _], 2 => false
  | [0, 0xB], 1 => false
  | [0, 0xC], 1 => false
  | [5, 2], 1 => false
  | [5, 3], _ => false
  | 6 :: _, _ => false
  | [], _ => false
  | [m, x], n =>
    if 1 ≤ m ∧ m ≤ 4 then
      (if x < 4 then false else if x < 0x18 then decide (n < 3) else decide (x = 0x21) && decide (n = 0))
    else decide (n < 14)
  | [m, x, _], n => if 1 ≤ m ∧ m ≤ 4 then decide (x < 4) && decide (n < 2) else decide (n < 14)
  | [m, _, 0, _], n => if 1 ≤ m ∧ m ≤ 4 then decide (n = 0) else decide (n < 14)
  | _, n => decide (n < 14)

/-- Error summary of one strand by class, from its own sticky bits: CORRECTED 1, CONTAINED 2, UNIT 4, DEVICE 8. -/
def ownSummary (p : Strand) (x : Sources) : Nat :=
  (List.range 4).foldl (fun acc c =>
    acc + (if (List.range 16).any (fun n => x.sticky.getLsbD n && (sourceClass p n == some c)) then 2 ^ c else 0)) 0

/-- The summary of a strand and its subtree (R31): the classes set on any strand at or below it. -/
def summary (s : State) (p : Strand) : Nat :=
  s.str.sources.foldl (fun acc kv =>
    if below p (strandAt kv.1) then acc ||| ownSummary (strandAt kv.1) kv.2 else acc) 0

/-- Fence events of the subtree (R27). -/
def fenceEvents (s : State) (p : Strand) : Nat :=
  s.str.sources.foldl (fun acc kv => if below p (strandAt kv.1) then acc + kv.2.fenceEvents else acc) 0

def strandGen (s : State) (p : Strand) : Byte := kvGetD (strandId p) 0 s.str.gens

end Sys2Proof.Machine
end

