-- ==== Sys2Proof/Machine/Flags.lean ====
section
/-! DEFINITION. Status flags and interrupts: MSI-X messages, IRQ_STATUS, HOST_ERR and DB_ERR (R485 to R489), and the class and flag codes of a reply (R54, R82). -/

namespace Sys2Proof.Machine

/-! ## Status codes (R82) -/

def stOK : Byte := 0x00
def stFLAGGED : Byte := 0x01
def stREJ_OPCODE : Byte := 0x10
def stREJ_PARAM : Byte := 0x11
def stREJ_RESOURCE : Byte := 0x12
def stREJ_CONFLICT : Byte := 0x13
def stREJ_PERMISSION : Byte := 0x14
def stREJ_DEGRADED : Byte := 0x15
def stFLT_ACCESS : Byte := 0x20
def stFLT_POISON : Byte := 0x21
def stFLT_FENCED : Byte := 0x22
def stFLT_CHECK : Byte := 0x23
def stFLT_TIMEOUT : Byte := 0x24
def stABT_GENERATION : Byte := 0x30
def stABT_RESET : Byte := 0x31
def stABT_SNARL : Byte := 0x32

/-- Precedence of R57 among outcomes of one command: the higher wins; equal ranks keep the earlier. -/
def stRank (c : Byte) : Nat :=
  if c.toNat ≥ 0x30 then 5
  else if c = stFLT_ACCESS ∨ c = stFLT_FENCED ∨ c = stFLT_TIMEOUT then 4
  else if c = stFLT_CHECK then 3
  else if c = stFLT_POISON then 2
  else if c = stFLAGGED then 1 else 0

/-- The status chosen over two outcomes, the first earlier in time (R57). -/
def stJoin (a b : Byte) : Byte := if stRank a < stRank b then b else a

/-! ## DETAIL flags, as bits of reply [63:40] (R54): flag [n] is bit n − 40 -/

def dfBATCHED : BitVec 24 := 0x800000
def dfPOISON : BitVec 24 := 0x400000
def dfCHECK : BitVec 24 := 0x200000
def dfNUMERIC : BitVec 24 := 0x100000
def dfSHAPE : BitVec 24 := 0x080000

/-- Opcode-specific flag [n], n from 40 to 55. -/
def dfOp (n : Nat) : BitVec 24 := BitVec.ofNat 24 (2 ^ (n - 40))

def dIf (b : Bool) (f : BitVec 24) : BitVec 24 := if b then f else 0

/-! ## Results -/

def okRes : Result := { status := stOK, detail := 0, cnt0 := 0, cnt1 := 0, cnt2 := 0, cnt3 := 0, substatus := 0 }

/-- Completion `OK` with counters. -/
def okCnt (c0 c1 c2 c3 : Word) : Result := { okRes with cnt0 := c0, cnt1 := c1, cnt2 := c2, cnt3 := c3 }

/-- A rejection: CNT0 is the first offending word (R53, R360), 0 where the rejection names none. -/
def rej (st : Byte) (word : Nat) : Result := { okRes with status := st, cnt0 := BitVec.ofNat 32 word }

/-- A status without counters. -/
def resOf (st : Byte) : Result := { okRes with status := st }

/-- An access fault at a virtual address (R47): cause, address. -/
def accessRes (st : Byte) (cause va : Nat) : Result :=
  { okRes with status := st, cnt0 := BitVec.ofNat 32 va
               cnt1 := BitVec.ofNat 32 (fld va 49 32 + 2 ^ 24 * cause) }

/-- An access fault in a window (R349): the offset has 48 bits. -/
def windowRes (st : Byte) (cause off : Nat) : Result :=
  { okRes with status := st, cnt0 := BitVec.ofNat 32 off
               cnt1 := BitVec.ofNat 32 (fld off 47 32 + 2 ^ 24 * cause) }

/-! ## MSI-X and IRQ_STATUS -/

def msixDefault : MsixEntry := { addr := 0, data := 0, masked := true }

/-- The endpoint can send: out of reset and not in D3hot (R464, R489, R494). -/
def hostUp (s : State) : Bool := !s.pci.inReset && !s.pci.d3hot

def pciOut (o : PciOut) (s : State) : State := { s with pci := { s.pci with out := s.pci.out ++ [o] } }

/-- Raise a vector: a message, or the pending bit where the vector is masked or the function is in D3hot (R489). -/
def raiseMsix (v : Nat) (s : State) : State :=
  let e := kvGetD v msixDefault s.pci.msix
  if e.masked || !hostUp s then { s with pci := { s.pci with pending := insNat v s.pci.pending } }
  else pciOut (.msix v e.addr e.data) s

/-- Clear a vector's mask: a pending message is sent once (R489). -/
def unmaskMsix (v : Nat) (s : State) : State :=
  let e := kvGetD v msixDefault s.pci.msix
  let s := { s with pci := { s.pci with msix := kvSet v { e with masked := false } s.pci.msix } }
  if s.pci.pending.contains v && hostUp s then
    raiseMsix v { s with pci := { s.pci with pending := s.pci.pending.filter (· != v) } }
  else s

def irqSERVICE : Nat := 0
def irqERR_UNIT : Nat := 1
def irqSNARL : Nat := 2
def irqSTALL : Nat := 3
def irqRESET_DONE : Nat := 4
def irqCAPTURE_DONE : Nat := 5
def irqLOG_LOST : Nat := 6
def irqMBOX_DONE : Nat := 7
def irqTK_INCOMPLETE : Nat := 8

/-- Set a bit of IRQ_STATUS: a message when it goes from 0 to 1 while enabled (R488). -/
def setIrq (n : Nat) (s : State) : State :=
  if s.pci.irqStatus.getLsbD n then s
  else
    let s := { s with pci := { s.pci with irqStatus := s.pci.irqStatus ||| BitVec.ofNat 9 (2 ^ n) } }
    if s.pci.irqEnable.getLsbD n then raiseMsix s.pci.irqVector.toNat s else s

/-- HOST_ERR.BAD_ACCESS (R482, R485). -/
def badAccess (s : State) : State := { s with pci := { s.pci with badAccess := true } }

/-- A BAR4 write discarded (R485, R490). -/
def apertureDrop (s : State) : State :=
  { s with pci := { s.pci with apertureDrop := true, apertureDrops := satAdd 65535 s.pci.apertureDrops 1 } }

end Sys2Proof.Machine
end

