-- ==== Sys2Proof/Machine/Logline.lean ====
section
/-! DEFINITION. Logline: records, rate limits, the write buffer and the record area (R438 to R452), and the events sent on the management port (R412, R460). -/

namespace Sys2Proof.Machine

/-- A record before it is stamped (R438, R439). `more` holds parameters 3 to 8. -/
structure LogRec where
  code : Nat
  sev : Nat
  summary : Bool
  mark : Bool
  strand : Nat
  p1 : Word
  p2 : Nat
  more : List Word
  deriving DecidableEq, Repr

def mkRec (code sev strand : Nat) (p1 : Word) (p2 : Nat) : LogRec :=
  { code := code, sev := sev, summary := false, mark := false, strand := strand, p1 := p1, p2 := p2, more := [] }

/-- Append the CRC over bytes 0 to 29 (R440). -/
def sealRec (b : List Byte) : List Byte := b ++ leBytes 2 (crc16 b)

/-- The 32 bytes of a record, and its continuation where it carries three parameters or more (R438, R441). -/
def encodeRec (c : Clk) (r : LogRec) : List (List Byte) :=
  let flags := leBytes 1 (bnat r.mark * 8 + bnat r.summary * 4 + r.sev)
  let n := leBytes 1 (2 + r.more.length)
  let head := sealRec (leBytes 2 r.code ++ flags ++ n ++ leBytes 4 c.powerCycles.toNat ++ leBytes 4 c.opSeconds.toNat
    ++ leBytes 4 c.uptimeMs.toNat ++ leBytes 8 r.strand ++ leBytes 4 r.p1.toNat ++ leBytes 2 r.p2)
  if r.more.isEmpty then [head]
  else
    let ps := (r.more ++ List.replicate 6 0).take 6
    [head, sealRec (leBytes 2 1 ++ flags ++ n ++ (ps.flatMap fun w => leBytes 4 w.toNat) ++ zeros 2)]

/-- Codes that never pass through a bucket (R449). -/
def exemptCodes : List Nat :=
  [0x0001, 0x0002, 0x0003, 0x0005, 0x0101, 0x0102, 0x0103, 0x0104, 0x0105, 0x0200, 0x0203, 0x0204, 0x0600, 0x0604, 0x0700, 0x0701]

/-- Codes that a chapter defines (R442). -/
def definedCodes : List Nat :=
  [0x0001, 0x0002, 0x0003, 0x0004, 0x0005, 0x0300, 0x0400, 0x0500, 0x0100, 0x0101, 0x0102, 0x0103, 0x0104, 0x0105,
   0x0200, 0x0201, 0x0202, 0x0203, 0x0204, 0x0600, 0x0601, 0x0602, 0x0603, 0x0604, 0x0700, 0x0701]

/-- A code's bucket at power-up (R447). -/
def bucketDefault (code : Nat) : Bucket :=
  if code = 0x0004 then { burst := 64, refill := 1, tokens := 64, suppressed := 0, lastStrand := 0, since := 0 }
  else { burst := 8, refill := 60, tokens := 8, suppressed := 0, lastStrand := 0, since := 0 }

def bucketOf (s : State) (code : Nat) : Bucket := kvGetD code (bucketDefault code) s.log.buckets

/-- Management firmware runs and may write records (R403, R446). -/
def logAlive (s : State) : Bool := s.log.booted && !s.pwr.watchdog && s.pwr.refclk

/-- Count a STOPPER_SET record of kind FAULT taken; the count saturates where it is shown (R406). -/
def countFence (strand : Nat) (s : State) : State :=
  { s with log := { s.log with fenceCounts := kvSet strand (kvGetD strand 0 s.log.fenceCounts + 1) s.log.fenceCounts } }

/-- Put encoded records into the write buffer; eight of its 1,024 slots are kept for LOG_LOST, CONT and SUPPRESSED (R444). -/
def bufferRec (r : LogRec) (s : State) : State :=
  let rs := encodeRec s.clk r
  let room := if r.code = 0x0005 ∨ r.code = 0x0002 then 1024 else 1016
  if s.log.buffer.length + 1 ≤ room then { s with log := { s.log with buffer := s.log.buffer ++ rs } }
  else { s with log := { s.log with dropped := s.log.dropped + 1 } }

/-- Codes whose record is sent as a PLDM event (R412, R436): ERR_NEW of class UNIT or DEVICE, SERVICE, STOPPER_SET, SNARL, RESET_BEGIN, RESET_END. -/
def isEvent (r : LogRec) : Bool :=
  (r.code == 0x0100 && decide (2 ≤ fld r.p1.toNat 5 4)) || [0x0101, 0x0103, 0x0200, 0x0203, 0x0204].contains r.code

/-- Send a record as PlatformEventMessage, or queue it; the queue of 256 loses its oldest (R460). -/
def sendEvent (r : LogRec) (s : State) : State :=
  match s.mgt.receiver with
  | none => s
  | some (_, polling) =>
    let data := (encodeRec s.clk r).flatten
    if polling then { s with mgt := { s.mgt with events := (s.mgt.events ++ [data]).drop (s.mgt.events.length + 1 - 256) } }
    else { s with mgt := { s.mgt with out := s.mgt.out ++ [.event data] } }

/-- Take a record: through its code's bucket (R447, R448), into the buffer, and out as an event. -/
def logRec (r : LogRec) (s : State) : State :=
  if !logAlive s then s
  else if exemptCodes.contains r.code then
    let s := bufferRec r s
    if isEvent r then sendEvent r s else s
  else
    let b := bucketOf s r.code
    if b.tokens = 0 then
      { s with log := { s.log with buckets := kvSet r.code { b with suppressed := b.suppressed + 1, lastStrand := r.strand } s.log.buckets } }
    else
      let s := { s with log := { s.log with buckets := kvSet r.code { b with tokens := b.tokens - 1 } s.log.buckets } }
      let s := bufferRec r s
      if isEvent r then sendEvent r s else s

/-- The refill period of a bucket in milliseconds. -/
def refillMs (b : Bucket) : Nat := 1000 * b.refill

/-- Milliseconds since the bucket's period began. -/
def refillAge (s : State) (b : Bucket) : Nat := (s.clk.uptimeMs - b.since).toNat

/-- One token gained by a code's bucket, after the summary of what it suppressed; the next period runs from the end of the last whole one (R447, R448). -/
def refillBucket (code : Nat) (s : State) : State :=
  let b := bucketOf s code
  let s :=
    if b.suppressed = 0 then s
    else logRec { mkRec 0x0002 0 b.lastStrand (sat32 b.suppressed) code with summary := true } s
  let next := b.since + BitVec.ofNat 32 (refillAge s b / refillMs b * refillMs b)
  let b' := { b with tokens := min b.burst (b.tokens + 1), suppressed := 0, since := next }
  { s with log := { s.log with buckets := kvSet code b' s.log.buckets } }

/-! ## The record area (R443) -/

def areaSlots : Nat := 524288

/-- The strand of a whole STOPPER_SET record of kind FAULT (R393, R406). -/
def faultStrand (rec : List Byte) : Option Nat :=
  if leAt 0 2 rec = 0x0101 ∧ leAt 24 4 rec % 8 = 4 ∧ crc16 (rec.take 30) = leAt 30 2 rec then some (leAt 16 8 rec) else none

/-- Write one record slot, erasing the following sector before the first slot of a sector is written; the records erased no longer count (R406, R443). -/
def areaPut (rec : List Byte) (l : Log) : Log :=
  let l := if l.writer % 128 = 0 then
      let next := (l.writer + 128) % areaSlots
      let erased := fun (n : Nat) => decide (next ≤ n) && decide (n < next + 128)
      let gone := l.area.filterMap fun kv => if erased kv.1 then faultStrand kv.2 else none
      { l with area := l.area.filter fun kv => !erased kv.1
               fenceCounts := gone.foldl (fun c p => kvSet p (kvGetD p 0 c - 1) c) l.fenceCounts }
    else l
  { l with area := kvSet l.writer rec l.area, writer := (l.writer + 1) % areaSlots }

/-- Slots the oldest buffered record takes: two with its continuation (R441). -/
def headSlots : List (List Byte) → Nat
  | _ :: c :: _ => if leAt 0 2 c = 1 then 2 else 1
  | l => l.length

/-- Once the buffer has room, a count of dropped records is written as LOG_LOST (R444). -/
def noteLost (s : State) : State :=
  if s.log.dropped = 0 then s
  else setIrq irqLOG_LOST (logRec (mkRec 0x0005 1 0 (sat32 s.log.dropped) 0) { s with log := { s.log with dropped := 0 } })

/-- Program the oldest n slots of the buffer. -/
def programSlots (n : Nat) (s : State) : State :=
  let l := (s.log.buffer.take n).foldl (fun l r => areaPut r l) s.log
  noteLost { s with log := { l with buffer := s.log.buffer.drop n } }

/-- Program the oldest buffered record with its continuation (R444). -/
def programOne (s : State) : State := programSlots (headSlots s.log.buffer) s

/-- The journal of 131,072 entries takes one more; where it wraps into a sector, the 512 oldest are erased (R452). -/
def journalPut (e : Word × Word) (j : List (Word × Word)) : List (Word × Word) := e :: (if j.length < 131072 then j else j.take (131072 - 512))

/-- Persist OP_SECONDS and POWER_CYCLES (R452). -/
def persistTime (s : State) : State :=
  { s with clk := { s.clk with persistedSeconds := s.clk.opSeconds, persistedCycles := s.clk.powerCycles, secToPersist := 0
                               journal := journalPut (s.clk.powerCycles, s.clk.opSeconds) s.clk.journal } }

/-- The flush of R445: the whole buffer, then the time. -/
def flushLog (s : State) : State :=
  let s := programSlots s.log.buffer.length s
  let s := programSlots s.log.buffer.length s
  { persistTime s with clk := { (persistTime s).clk with flushed := true } }

/-- Records present, oldest first: the flash from the oldest slot on, then the buffer (R446, R450). -/
def recordsPresent (s : State) : List (List Byte) :=
  let before := s.log.area.filter fun kv => decide (kv.1 < s.log.writer)
  let after := s.log.area.filter fun kv => decide (s.log.writer ≤ kv.1)
  (after ++ before).map Prod.snd ++ s.log.buffer

/-- STOPPER_SET records of kind FAULT per strand among the records (R406). -/
def buildFenceCounts (recs : List (List Byte)) : KV Nat :=
  recs.foldl (fun acc r => match faultStrand r with
    | some p => kvSet p (kvGetD p 0 acc + 1) acc
    | none => acc) []

/-- Empty slots from a slot on, cyclically. -/
def emptyRun (area : KV (List Byte)) (start : Nat) : Nat :=
  area.foldl (fun m kv => min m ((kv.1 + areaSlots - start) % areaSlots)) areaSlots

/-- The slot where writing resumes at power-up: the first of the longest run of empty slots that begins on a sector boundary, the lowest on a tie (R446). -/
def resumeSlot (area : KV (List Byte)) : Nat :=
  (List.range 4096).foldl (fun best sec => if emptyRun area best < emptyRun area (sec * 128) then sec * 128 else best) 0

end Sys2Proof.Machine
end

