-- ==== Sys2Proof/Machine/Memory.lean ====
section
/-! DEFINITION. Where each physical address lands, which addresses are backed, and reading and writing bytes with their poison (R39, R202 to R208, R235 to R249, R521). -/

namespace Sys2Proof.Machine

/-! ## Ranges of the map (R39) -/

def paN : Nat := 0x0200_0000_0000
def paSnap : Nat := 0x027F_F000_0000
def paNEnd : Nat := 0x0280_0000_0000
def paS : Nat := 0x0400_0000_0000
def paSEnd : Nat := 0x0580_0000_0000
def paScratch : Nat := 0x0800_0000_0000
def paScratchEnd : Nat := 0x0800_0C00_0000
def paSpill : Nat := 0x0800_1000_0000
def paSpillEnd : Nat := 0x0800_1100_0000
def paControl : Nat := 0x0F00_0000_0000
def paControlEnd : Nat := 0x0F00_0400_0000

inductive Region where
  | tierH
  | tierN
  | snapshot
  | tierS
  | scratch
  | spill
  | control
  | hole
  deriving DecidableEq, Repr

def region (pa : Nat) : Region :=
  if pa < paN then .tierH
  else if pa < paSnap then .tierN
  else if pa < paNEnd then .snapshot
  else if pa < paS then .hole
  else if pa < paSEnd then .tierS
  else if pa < paScratch then .hole
  else if pa < paScratchEnd then .scratch
  else if pa < paSpill then .hole
  else if pa < paSpillEnd then .spill
  else if pa < paControl then .hole
  else if pa < paControlEnd then .control
  else .hole

/-! ## Tier H (R236, R237) -/

/-- Stack and stack-local byte of a tier H address. -/
def tierHLocal (stacked : List Nat) (pa : Nat) : Nat × Nat :=
  let g := pa / 2 ^ 30
  if stacked.contains g then (pa / 2 ^ 26 % 16, 2 ^ 26 * g + pa % 2 ^ 26)
  else (pa / 2 ^ 12 % 16, 2 ^ 26 * g + pa / 2 ^ 16 % 2 ^ 14 * 2 ^ 12 + pa % 2 ^ 12)

/-- Pseudo-channel of a stack-local byte, and the byte within the pseudo-channel. -/
def pcOf (loc : Nat) : Nat × Nat := (loc / 256 % 32, loc / 2 ^ 13 * 256 + loc % 256)

/-- tier_h_locate of R237: stack, pseudo-channel, block, byte in the block. -/
def tierHLocate (stacked : List Nat) (pa : Nat) : Nat × Nat × Nat × Nat :=
  let sl := tierHLocal stacked pa
  let po := pcOf sl.2
  (sl.1, po.1, po.2 / 2 ^ 16, po.2 % 2 ^ 16)

/-! ## Storage: the place a byte occupies, which a change of placement mode does not move -/

/-- Storage address, remap unit and block of a physical address of tiers H, N and S; none outside them or past the interleaved channels (R237, R239, R240). -/
def storeOf (s : State) (pa : Nat) : Option (Nat × Strand × Nat) :=
  match region pa with
  | .tierH =>
    let sl := tierHLocal s.mem.stacked pa
    let po := pcOf sl.2
    some (2 ^ 37 * sl.1 + sl.2, sPC sl.1 po.1, po.2 / 2 ^ 16)
  | .tierN => let o := pa - paN
    some (pa, sTN (o / 2 ^ 12 % 16), (o / 2 ^ 16 * 2 ^ 12 + o % 2 ^ 12) / 2 ^ 16)
  | .snapshot => let o := pa - paN
    some (pa, sTN (o / 2 ^ 12 % 16), (o / 2 ^ 16 * 2 ^ 12 + o % 2 ^ 12) / 2 ^ 16)
  | .tierS =>
    let o := pa - paS
    let n := s.mem.tsChannels.length
    let loc := o / 2 ^ 12 / max n 1 * 2 ^ 12 + o % 2 ^ 12
    match s.mem.tsChannels[o / 2 ^ 12 % max n 1]? with
    | some ch => if o < 2 ^ 37 * n then some (paS + 2 ^ 37 * ch + loc, sTS ch, loc / 2 ^ 16) else none
    | none => none
  | _ => none

/-- The storage address of a byte that has one. Scratchpad and spill store bytes are stored under their own addresses. -/
def keyOf (s : State) (pa : Nat) : Nat :=
  match storeOf s pa with
  | some (k, _, _) => k
  | none => pa

/-- Bytes per poison granule: a line in tier S, a word elsewhere (R207, R242). -/
def granule (pa : Nat) : Nat := if region pa = .tierS then 64 else 8

/-- Does a remap unit hold its storage: admitted, no fencing stopper above it, and on itself none but a fault whose blocks were redirected (R248, R249, R521)? -/
def unitSound (s : State) (u : Strand) : Bool :=
  admitted s u && !ancestorFenced s u &&
    (match stopperOf s u with
     | none => true
     | some st => (st.kind == .fault || st.kind == .removed) && s.mem.redirected.contains (strandId u))

/-- Tier S is joined to the Izette die through the Tackle link alone (R11, R253). -/
def linkedToIz (s : State) (u : Strand) : Bool := !below sTK u || (working s sTL && working s sTX)

/-- Can requests reach a remap unit's storage, resets apart? -/
def unitReached (s : State) (u : Strand) : Bool := unitSound s u && linkedToIz s u

/-- Can new commands and requests reach a remap unit's storage: outside every reset too (R417)? -/
def unitBacked (s : State) (u : Strand) : Bool := unitReached s u && !underReset s u

/-- Is the scratchpad byte backed: its logical bank has a physical bank, and that bank works (R208, R521)? -/
def bankBacked (s : State) (bank : Nat) : Bool :=
  match (s.mem.banks[bank]?).join with
  | some b => working s (sSP b) && !underReset s (sSP b)
  | none => false

/-- Is the physical address backed and not dead (R249)? Control space always is. -/
def backed (s : State) (pa : Nat) : Bool :=
  match region pa with
  | .scratch => bankBacked s ((pa - paScratch) / 2 ^ 22)
  | .spill => working s sSPILL
  | .control => true
  | .hole => false
  | _ =>
    match storeOf s pa with
    | some (_, u, b) => unitBacked s u && !s.mem.dead.contains (strandId u, b)
    | none => false

/-- The pieces of a range that share their backing: 256 B each. -/
def backPieces (pa n : Nat) : List (Nat × Nat) :=
  (List.range (ceilDiv (n + pa % 256) 256)).map fun i =>
    let lo := max pa ((pa / 256 + i) * 256)
    (lo, min (pa + n) ((pa / 256 + i + 1) * 256) - lo)

/-- Can a request that a memory controller of tiers H, N or S has accepted complete: as `backed`, in a reset too (R417 DRAIN)? -/
def served (s : State) (pa : Nat) : Bool :=
  match storeOf s pa with
  | some (_, u, b) => unitReached s u && !s.mem.dead.contains (strandId u, b)
  | none => backed s pa

/-- As `backedRange`, for a request already accepted (R417). -/
def servedRange (s : State) (pa n : Nat) : Bool :=
  n == 0 || (served s pa && (List.range (ceilDiv (n + pa % 256) 256)).all fun i => i == 0 || served s ((pa / 256 + i) * 256))

/-- Is every one of n bytes backed? Backing changes only at 256 B pieces, so one byte of each is asked. -/
def backedRange (s : State) (pa n : Nat) : Bool :=
  n == 0 || (backed s pa && (List.range (ceilDiv (n + pa % 256) 256)).all fun i => i == 0 || backed s ((pa / 256 + i) * 256))

/-- The first byte of n that is not backed. -/
def firstUnbacked (s : State) (pa n : Nat) : Option Nat :=
  (List.range n).find? fun i => !backed s (pa + i)

/-! ## Bytes with poison -/

/-- A byte as a reader gets it: its value, and whether its word is poisoned. -/
abbrev PByte := Byte × Bool

/-- The use whose working region left a storage byte open. -/
def looseAt (k : Nat) (l : List (Nat × Nat × Nat)) : Option Nat := (l.find? fun t => decide (t.1 ≤ k) && decide (k < t.2.1)).map fun t => t.2.2

/-- Take [lo, hi) out of the open regions. -/
def looseClear (lo hi : Nat) (l : List (Nat × Nat × Nat)) : List (Nat × Nat × Nat) :=
  l.flatMap fun t => (ivClear lo hi [(t.1, t.2.1)]).map fun i => (i.1, i.2, t.2.2)

/-- A granule of an open region is about to be written: its open bytes and its poison become entries of the memory. -/
def settleGranule (k sz : Nat) (s : State) : State :=
  match looseAt k s.mem.loose with
  | none => s
  | some n =>
    { s with mem := { s.mem with
      cells := (List.range sz).foldl (fun m j => cellSet (k + j) (Config.freeByte n (k + j)) m) s.mem.cells
      poison := if Config.freePoison n k then ivAdd k (k + sz) s.mem.poison else s.mem.poison
      loose := looseClear k (k + sz) s.mem.loose } }

def memByte (s : State) (pa : Nat) : PByte :=
  let k := keyOf s pa
  let g := k / granule pa * granule pa
  let bad := ivHas g s.mem.poison || s.mem.damaged.contains (g, true)
  match looseAt k s.mem.loose with
  | some n => (Config.freeByte n k, bad || Config.freePoison n g)
  | none => (cellGet k s.mem.cells, bad)

/-- The unit and block that hold a block of a unit now: after its last remap, or itself (R245, R248). -/
def placeOf (s : State) (u : Strand) (b : Nat) : Strand × Nat :=
  match s.mem.remaps.find? fun r => r.unit == strandId u && r.block == b with
  | some r => (strandAt r.rUnit, r.rBlock)
  | none => (u, b)

/-- The strand whose detector watches a stored byte: the remap unit that holds it now, or its physical scratchpad bank (R207, R243). -/
def watchOf (s : State) (pa : Nat) : Option Strand :=
  if region pa = .scratch then ((s.mem.banks[(pa - paScratch) / 2 ^ 22]?).join).map sSP
  else (storeOf s pa).map fun x => (placeOf s x.2.1 x.2.2).1

/-- A DATA injection armed on the unit corrupts the word written: one bit flipped for source 0, two for source 1 (R396, R407). -/
def damageWord (pa : Nat) (s : State) : State :=
  match watchOf s pa with
  | none => s
  | some u =>
    let g := keyOf s pa / granule pa * granule pa
    let hit := fun (n : Nat) (s : State) =>
      if s.str.armed.contains (strandId u, n) then
        { s with str := { s.str with armed := s.str.armed.filter (· != (strandId u, n)) }
                 mem := { s.mem with damaged := (g, n == 1) :: s.mem.damaged } }
      else s
    hit 0 (hit 1 s)

/-- Read n bytes at a physical address. -/
def physRead (s : State) (pa n : Nat) : List PByte := (List.range n).map fun i => memByte s (pa + i)

/-- The poison of one granule after a write of [pa, pa + n): set when a poisoned byte falls in it, cleared when it is covered whole, else what the word read for the merge had (R207, R231, R241, R242). -/
def granuleAfter (pa n : Nat) (bs : List PByte) (g : Nat) (was : Bool) : Bool :=
  let sz := granule pa
  if (List.range sz).any fun j => decide (pa ≤ g + j) && decide (g + j < pa + n) && (bs.getD (g + j - pa) (0, false)).2 then true
  else if pa ≤ g ∧ g + sz ≤ pa + n then false else was

/-- The granules that n bytes touch. -/
def granulesOf (pa n : Nat) : List Nat :=
  (List.range (ceilDiv (n + pa % granule pa) (granule pa))).map fun i => (pa / granule pa + i) * granule pa

/-- Open regions under a write become entries first. -/
def settleAll (pa n : Nat) (s : State) : State :=
  if s.mem.loose.isEmpty then s
  else (granulesOf pa n).foldl (fun s g => settleGranule (keyOf s g / granule pa * granule pa) (granule pa) s) s

/-- The bytes themselves, the poison of their granules, and the end of damage that is written over whole. -/
def storeBytes (pa : Nat) (bs : List PByte) (s : State) : State :=
  let sz := granule pa
  { s with mem := { s.mem with
    cells := (bs.foldl (fun (st : Nat × List Host.Cell) b => (st.1 + 1, cellSet (keyOf s st.1) b.1 st.2)) (pa, s.mem.cells)).2
    poison := (granulesOf pa bs.length).foldl (fun ps g =>
      let k := keyOf s g / sz * sz
      if granuleAfter pa bs.length bs g (ivHas k s.mem.poison || s.mem.damaged.contains (k, true)) then ivAdd k (k + sz) ps else ivClear k (k + sz) ps) s.mem.poison
    damaged := s.mem.damaged.filter fun d =>
      !((granulesOf pa bs.length).any fun g => decide (pa ≤ g) && decide (g + sz ≤ pa + bs.length) && keyOf s g / sz * sz == d.1) } }

/-- Injections armed on what is written fire on it. -/
def damageAll (pa n : Nat) (s : State) : State :=
  if s.str.armed.isEmpty then s else (granulesOf pa n).foldl (fun s g => damageWord g s) s

/-- Write bytes with their poison at a physical address. -/
def physWrite (pa : Nat) (bs : List PByte) (s : State) : State :=
  if bs.isEmpty then s else damageAll pa bs.length (storeBytes pa bs (settleAll pa bs.length s))

/-- A piece of a working region is left open by a command: its whole granules as an interval, bytes of a granule it covers in part one by one. The piece is contiguous in storage. -/
def loosen (n pa len : Nat) (s : State) : State :=
  let sz := granule pa
  let lo := ceilDiv pa sz * sz
  let hi := (pa + len) / sz * sz
  if hi ≤ lo then physWrite pa ((List.range len).map fun i => (Config.freeByte n (keyOf s (pa + i)), false)) s
  else
    let k := keyOf s lo
    let k' := k + (hi - lo)
    let s := { s with mem := { s.mem with
      cells := s.mem.cells.filter fun c => !(decide (k ≤ c.1) && decide (c.1 < k'))
      poison := ivClear k k' s.mem.poison
      loose := (k, k', n) :: looseClear k k' s.mem.loose } }
    let s := physWrite pa ((List.range (lo - pa)).map fun i => (Config.freeByte n (keyOf s (pa + i)), false)) s
    physWrite hi ((List.range (pa + len - hi)).map fun i => (Config.freeByte n (keyOf s (hi + i)), false)) s

/-- Write clean bytes. -/
def physPut (pa : Nat) (bs : List Byte) (s : State) : State := physWrite pa (bs.map fun b => (b, false)) s

/-- Write n bytes from a function of their position. -/
def physFill (pa n : Nat) (f : Nat → PByte) (s : State) : State := physWrite pa ((List.range n).map f) s

def anyPoison (bs : List PByte) : Bool := bs.any Prod.snd

/-- The 8-byte destination words of a write at an address that it writes poisoned, by address over 8 (R231, R366). -/
def poisonedWords (addr : Nat) (bs : List PByte) : List Nat :=
  ((List.range (ceilDiv (bs.length + addr % 8) 8)).map (· + addr / 8)).filter fun w =>
    (List.range 8).any fun j => decide (addr ≤ w * 8 + j) && (bs.getD (w * 8 + j - addr) (0, false)).2

/-! ## Blocks (R245): the bytes a block of a remap unit holds -/

/-- Storage intervals of block b of a unit: 256 pieces of 256 B in a stack; 4 KiB granules of a channel. -/
def blockKeys (u : Strand) (b : Nat) : List (Nat × Nat) :=
  match u with
  | [0, 0xA, c] => (List.range 16).map fun i => let o := 2 ^ 16 * (b * 16 + i) + c * 2 ^ 12
      (paN + o, paN + o + 4096)
  | [5, 1, c] => [(paS + 2 ^ 37 * c + 2 ^ 16 * b, paS + 2 ^ 37 * c + 2 ^ 16 * (b + 1))]
  | [m, x, p] => (List.range 256).map fun i =>
      let k := 2 ^ 37 * ((m - 1) * 4 + x) + (b * 256 + i) * 2 ^ 13 + p * 256
      (k, k + 256)
  | _ => []

/-- Write every word of storage intervals poisoned: what an injection had corrupted there is gone. -/
def poisonKeys (ks : List (Nat × Nat)) (s : State) : State :=
  { s with mem := { s.mem with
    poison := ks.foldl (fun ps k => ivAdd k.1 k.2 ps) s.mem.poison
    damaged := s.mem.damaged.filter fun d => !(ks.any fun k => decide (k.1 ≤ d.1) && decide (d.1 < k.2)) } }

/-- Usable and reserve blocks of a unit (R237, R239, R240). -/
def usableBlocks : Strand → Nat
  | [0, 0xA, _] => 524288
  | [5, 1, _] => 2097152
  | _ => 65536

def reserveBlocks : Strand → Nat
  | [0, 0xA, _] => 65536
  | [5, 1, _] => 262144
  | _ => 8192

/-! ## The scratchpad grant (R204) -/

/-- Scratchpad address of a grant offset. -/
def grantPa (c : Ctx) (o : Nat) : Nat :=
  paScratch + 2 ^ 22 * (c.firstBank + o / 128 % max c.nBanks 1) + o / (128 * max c.nBanks 1) * 128 + o % 128

/-- Does [o, o + n) lie wholly in the grant? -/
def inGrant (c : Ctx) (o n : Nat) : Bool := decide (o + n ≤ 2 ^ 22 * c.nBanks)

/-! ## Memory status (R251, R256) -/

def thStacks (s : State) : Nat := ((List.range 16).filter fun n => !fenced s (sH n)).length

/-- A tier N channel's addresses are backed: in service, or failed and redirected (R255). A reset of IZ takes them from commands only, so the capture before it uses the snapshot area (R257, R417, R431). -/
def tnBacked (s : State) (n : Nat) : Bool := unitSound s (sTN n)

def tsWorking (s : State) : Nat := (s.mem.tsChannels.filter fun c => !fenced s (sTS c)).length

/-- Every granule of the snapshot area is backed (R256): all sixteen channels, and no dead block among its own. -/
def snapOk (s : State) : Bool :=
  (List.range 16).all (tnBacked s) &&
    !(s.mem.dead.any fun d => (match strandOf d.1 with
        | some [0, 0xA, _] => decide ((paSnap - paN) / 2 ^ 20 ≤ d.2) && decide (d.2 < 524288)
        | _ => false))

/-- Tier S is available: TK in service (R253). -/
def tierSUp (s : State) : Bool := !outOfUse s sTK

def memStatus (s : State) : Nat :=
  if !s.mem.ready then 0
  else 2 ^ 21 * bnat (snapOk s)
    + 2 ^ 17 * (if tierSUp s then s.mem.tsChannels.length else 0)
    + (if tierSUp s then tsWorking s else 0) * 2 ^ 13
    + ((List.range 16).filter (tnBacked s)).length * 2 ^ 8 + thStacks s

/-- Reserve blocks of a unit that a remap has taken, or that a fault struck while they were free (R245, R251). -/
def takenReserve (s : State) (u : Strand) : List Nat :=
  let id := strandId u
  let taken := s.mem.remaps.filterMap fun (r : Remap) => if r.rUnit = id then some r.rBlock else none
  taken ++ s.mem.struck.filterMap fun x => if x.1 = id ∧ usableBlocks u ≤ x.2.1 ∧ !taken.contains x.2.1 then some x.2.1 else none

/-- Reserve blocks of a unit that are not free. -/
def usedReserve (s : State) (u : Strand) : Nat := (takenReserve s u).length

/-- Free reserve blocks of a unit that works. -/
def freeReserve (s : State) (u : Strand) : Nat := reserveBlocks u - usedReserve s u

/-- The reserve register of a set of units: a stack's pseudo-channels, or one channel (R251). -/
def reserveReg (s : State) (whole : Strand) (units : List Strand) : Nat :=
  if !s.mem.ready then 0
  else
    let failed := units.filter fun u => (stopperOf s u).any fun x => x.kind != .operator && x.kind != .derived
    let isStack := decide (1 < units.length)
    let redirected := failed.filter fun u => s.mem.redirected.contains (strandId u)
    -- a stack's balance leaves out the reserve of its failed and redirected units; a failed channel has none
    let live := units.filter fun u => !(if isStack then redirected else failed).contains u
    let state :=
      if stoppedBy s .operator whole || ancestorFenced s whole || underReset s whole then 2
      else if isStack then (if fenced s whole then 2 else 0)
      else if !redirected.isEmpty then 1
      else if fenced s whole then 2 else 0
    let used := (live.map (usedReserve s)).sum
    let free := (live.map (freeReserve s)).sum
    let dead := (s.mem.dead.filter fun d => units.any fun u => strandId u == d.1).length
    2 ^ 62 * state + 2 ^ 58 * (if isStack then min 3 redirected.length else 0) + 2 ^ 40 * min 262143 dead + 2 ^ 20 * used + free

def thRsv (s : State) (n : Nat) : Nat := reserveReg s (sH n) ((List.range 32).map (sPC n))
def tnRsv (s : State) (n : Nat) : Nat := reserveReg s (sTN n) [sTN n]
def tsRsv (s : State) (n : Nat) : Nat := reserveReg s (sTS n) [sTS n]

end Sys2Proof.Machine
end

