-- ==== Sys2Proof/Machine/Translate.lean ====
section
/-! DEFINITION. Page tables, translation and access faults (R41 to R47, R204, R522, R523), and reads and writes of virtual, grant and host ranges. -/

namespace Sys2Proof.Machine

def noCtx : Ctx :=
  { state := .free, gen := 0, bumped := false, pasid := none, poolBase := 0, poolSize := 0, firstBank := 0, nBanks := 0
    trkQuota := 65536, lateDrops := 0 }

def ctxOf (s : State) (c : Nat) : Ctx := kvGetD c noCtx s.ctxs

def setCtx (c : Nat) (x : Ctx) (s : State) : State := { s with ctxs := kvSet c x s.ctxs }

/-- An access that cannot be carried out (R47, R249): status, cause (0: none named), virtual address; the table entry whose poison is reported. -/
structure AFault where
  status : Byte
  cause : Nat
  va : Nat
  table : Option Nat
  deriving DecidableEq, Repr

/-- The counters of the reply: an address and a cause where R47 names one. -/
def AFault.res (f : AFault) : Result := if f.cause = 0 then resOf f.status else accessRes f.status f.cause f.va

def causeNOT_MAPPED : Nat := 1
def causeWRITE_PROTECT : Nat := 2
def causeHOLE : Nat := 3
def causeMALFORMED : Nat := 4
def causeHOST_ERROR : Nat := 5
def causeTABLE_POISON : Nat := 6
def causeTABLE_UNBACKED : Nat := 0xC

/-- The first address past the end of the virtual space (R523). -/
def vaEnd : Nat := 2 ^ 49

/-! ## Page table entries (R43) -/

def pteV (e : Nat) : Bool := bit e 0
def pteLeaf (e : Nat) : Bool := bit e 1
def pteWr (e : Nat) : Bool := bit e 2
def pteHost (e : Nat) : Bool := bit e 4
def pteAddr (e : Nat) : Nat := e / 2 ^ 12 * 2 ^ 12
/-- Base of the L4 table named by an L3 entry. -/
def pteL4 (e : Nat) : Nat := e / 2 ^ 8 * 2 ^ 8

/-- Reserved bits of an entry of level n (R43). -/
def pteBad (level e : Nat) : Bool :=
  let leaf := pteLeaf e
  bit e 3 || decide (fld e 7 5 ≠ 0)
    || (if level = 4 then !leaf else if level = 3 then false else leaf)
    || (if leaf then decide (fld e 11 8 ≠ 0) else (pteWr e || pteHost e || (decide (level ≠ 3) && decide (fld e 11 8 ≠ 0))))
    || (!(leaf && pteHost e) && decide (fld e 63 48 ≠ 0))
    || (leaf && decide (pteAddr e % (if level = 3 then 2 ^ 21 else 2 ^ 16) ≠ 0))

/-- A translated page: host or device base of the byte, and the PASID that a host access carries (R46). -/
structure Leaf where
  host : Bool
  pasid : Option (BitVec 20)
  wr : Bool
  addr : Nat
  deriving DecidableEq, Repr

/-- Read one entry: unbacked, poisoned or its value. Before self-test only context 0 exists, and firmware keeps its tables readable (R465, log 17). -/
def pteRead (s : State) (va pa : Nat) : Except AFault Nat :=
  if decide (7 ≤ s.str.phasesDone) && !backedRange s pa 8 then .error { status := stFLT_FENCED, cause := causeTABLE_UNBACKED, va := va, table := none }
  else
    let bs := physRead s pa 8
    if anyPoison bs then .error { status := stFLT_POISON, cause := causeTABLE_POISON, va := va, table := some pa }
    else .ok (leNat (bs.map Prod.fst))

/-- The walk from an entry of a level down (R42). -/
def walkFrom (s : State) (va : Nat) : Nat → Nat → Nat → Except AFault Leaf
  | 0, _, _ => .error { status := stFLT_ACCESS, cause := causeMALFORMED, va := va, table := none }
  | fuel + 1, level, tbl =>
    let idx := if level = 1 then fld va 48 39 else if level = 2 then fld va 38 30 else if level = 3 then fld va 29 21 else fld va 20 16
    match pteRead s va (tbl + 8 * idx) with
    | .error f => .error f
    | .ok e =>
      if !pteV e then .error { status := stFLT_ACCESS, cause := causeNOT_MAPPED, va := va, table := none }
      else if pteBad level e then .error { status := stFLT_ACCESS, cause := causeMALFORMED, va := va, table := none }
      else if pteLeaf e then
        .ok { host := pteHost e, pasid := none, wr := pteWr e, addr := pteAddr e + va % (if level = 3 then 2 ^ 21 else 2 ^ 16) }
      else walkFrom s va fuel (level + 1) (if level = 3 then pteL4 e else pteAddr e)

/-- Translate one virtual address of a context for a read or a write (R41 to R47, R523). -/
def translate (s : State) (c va : Nat) (write : Bool) : Except AFault Leaf :=
  if vaEnd ≤ va then .error { status := stFLT_ACCESS, cause := causeNOT_MAPPED, va := vaEnd, table := none }
  else if (ctxOf s c).poolSize = 0 then .error { status := stFLT_ACCESS, cause := causeNOT_MAPPED, va := va, table := none }
  else
    match walkFrom s va 4 1 (ctxOf s c).poolBase with
    | .error f => .error f
    | .ok l =>
      if write && !l.wr then .error { status := stFLT_ACCESS, cause := causeWRITE_PROTECT, va := va, table := none }
      else if !l.host && region l.addr == .hole then .error { status := stFLT_ACCESS, cause := causeHOLE, va := va, table := none }
      else .ok (if l.host then { l with pasid := (ctxOf s c).pasid } else l)

/-! ## Targets -/

/-- Where an engine may go: host memory, tier S, control space (the transfer engines), or tiers H and N alone (R210, R253, R315); and whether its host writes carry Relaxed Ordering (R55, R223). -/
structure Reach where
  host : Bool
  tierS : Bool
  control : Bool
  relaxed : Bool
  deriving DecidableEq, Repr

/-- The vector load path, the feeders and the gather/scatter engine: tiers H and N (R210). -/
def reachHN : Reach := { host := false, tierS := false, control := false, relaxed := true }

/-- The dispatcher and the control cores: host memory, tiers H and N; requests for tier S come only from the transfer engines (R253). -/
def reachQueue : Reach := { host := true, tierS := false, control := false, relaxed := true }

/-- The completion writes: replies and state blocks, which reach the host after the data (R55). -/
def reachReply : Reach := { reachQueue with relaxed := false }

/-- The transfer engines (R221, R223). -/
def reachXfer : Reach := { host := true, tierS := true, control := true, relaxed := true }

def reaches (r : Reach) (l : Leaf) : Bool :=
  if l.host then r.host
  else match region l.addr with
    | .tierH => true
    | .tierN => true
    | .snapshot => true
    | .tierS => r.tierS
    | .control => r.control
    | _ => false

/-- Translate, treating a target out of reach as a hole (R210). -/
def translateFor (s : State) (r : Reach) (c va : Nat) (write : Bool) : Except AFault Leaf :=
  match translate s c va write with
  | .error f => .error f
  | .ok l => if reaches r l then .ok l else .error { status := stFLT_ACCESS, cause := causeHOLE, va := va, table := none }

/-- An access that finds its target unbacked or dead (R249). -/
def unbackedFault (va : Nat) : AFault := { status := stFLT_FENCED, cause := 0, va := va, table := none }

/-- The pieces of [a, a + n) between multiples of a size: address and length. -/
def cutAt (size a n : Nat) : List (Nat × Nat) :=
  (List.range (ceilDiv (n + a % size) size)).map fun i =>
    let lo := max a ((a / size + i) * size)
    (lo, min (a + n) ((a / size + i + 1) * size) - lo)

/-- The pieces of [va, va + n) that lie in one 4 KiB page each. -/
def pieces (va n : Nat) : List (Nat × Nat) := cutAt 4096 va n

/-! ## Host memory (R46, R223) -/

/-- Where host memory holds a byte: its address in the address space of a PASID, 0 standing for none. -/
def hostKey (pasid : Option (BitVec 20)) (addr : Nat) : Nat :=
  2 ^ 64 * (match pasid with
    | none => 0
    | some p => p.toNat + 1) + addr

/-- The PASID and the address of a key. -/
def keyHost (k : Nat) : Option (BitVec 20) × Nat := (if k < 2 ^ 64 then none else some (BitVec.ofNat 20 (k / 2 ^ 64 - 1)), k % 2 ^ 64)

/-- What the host has done in its own memory, and how it answers from now on. -/
def takeNews (h : HostNews) (s : State) : State :=
  { s with mem := { s.mem with host := cellMerge h.cells s.mem.host, hostRefused := h.refused, hostSilent := h.silent } }

/-- Does [a, a + n) touch one of the ranges? -/
def inRanges (ranges : List (Nat × Nat)) (a n : Nat) : Bool := ranges.any fun r => overlap a n r.1 (r.2 - r.1)

/-- Read one piece through its translation. A host read may be refused, or never be answered (R46). -/
def leafRead (s : State) (l : Leaf) (va n : Nat) : Except AFault (List PByte) :=
  if l.host then
    let k := hostKey l.pasid l.addr
    if inRanges s.mem.hostRefused k n then .error { status := stFLT_ACCESS, cause := causeHOST_ERROR, va := va, table := none }
    else if inRanges s.mem.hostSilent k n then .error { status := stFLT_TIMEOUT, cause := 0, va := va, table := none }
    else .ok ((cellRead k n s.mem.host).map fun b => (b, false))
  else if backedRange s l.addr n then .ok (physRead s l.addr n)
  else .error (unbackedFault va)

/-- Read a virtual range: its bytes, or the first fault (R47). -/
def vaRead (s : State) (r : Reach) (c va n : Nat) : Except AFault (List PByte) :=
  (pieces va n).foldl (fun acc p =>
    match acc with
    | .error f => .error f
    | .ok bs =>
      match translateFor s r c p.1 false with
      | .error f => .error f
      | .ok l =>
        match leafRead s l p.1 p.2 with
        | .error f => .error f
        | .ok more => .ok (bs ++ more)) (.ok [])

/-- The TLPs of a host write: none larger than the Max Payload Size, EP on those that hold a poisoned word (R223, R231, log 123). -/
def hostTlps (s : State) (l : Leaf) (relaxed : Bool) (bs : List PByte) : List PciOut :=
  (cutAt s.pci.maxPayload l.addr bs.length).map fun p =>
    let part := (bs.drop (p.1 - l.addr)).take p.2
    .hostWrite l.pasid p.1 (part.map Prod.fst) (anyPoison part) relaxed

/-- Write one piece. -/
def leafWrite (relaxed : Bool) (l : Leaf) (bs : List PByte) (s : State) : State :=
  if l.host then
    (hostTlps s l relaxed bs).foldl (fun s o => pciOut o s)
      { s with mem := { s.mem with host := cellWrite (hostKey l.pasid l.addr) (bs.map Prod.fst) s.mem.host } }
  else physWrite l.addr bs s

/-- Write a virtual range piece by piece: what lies before the first fault is written (R47). -/
def vaWrite (r : Reach) (c va : Nat) (bs : List PByte) (s : State) : State × Option AFault :=
  (pieces va bs.length).foldl (fun (acc : State × Option AFault) p =>
    match acc.2 with
    | some _ => acc
    | none =>
      match translateFor acc.1 r c p.1 true with
      | .error f => (acc.1, some f)
      | .ok l =>
        if l.host || backedRange acc.1 l.addr p.2 then
          (leafWrite r.relaxed l ((bs.drop (p.1 - va)).take p.2) acc.1, none)
        else (acc.1, some (unbackedFault p.1))) (s, none)

/-- The first fault a whole range would meet, without accessing it. -/
def vaCheck (s : State) (r : Reach) (c va n : Nat) (write : Bool) : Option AFault :=
  (pieces va n).findSome? fun p =>
    match translateFor s r c p.1 write with
    | .error f => some f
    | .ok l => if l.host || backedRange s l.addr p.2 then none else some (unbackedFault p.1)

/-- The first fault in the order of R343: of the translation of the whole range, then of what lies behind it. -/
def rangeFault (s : State) (r : Reach) (c va n : Nat) (write : Bool) : Option AFault :=
  match (pieces va n).findSome? fun p => match translateFor s r c p.1 write with
    | .error f => some f
    | .ok _ => none with
  | some f => some f
  | none => vaCheck s r c va n write

/-- Does the whole range translate, whatever lies behind it (R58)? -/
def vaTranslates (s : State) (r : Reach) (c va n : Nat) (write : Bool) : Bool :=
  (pieces va n).all fun p => match translateFor s r c p.1 write with
    | .ok _ => true
    | .error _ => false

/-- Is the whole range mapped, writable if asked, and backed (R58, R381)? -/
def vaMapped (s : State) (r : Reach) (c va n : Nat) (write : Bool) : Bool := (vaCheck s r c va n write).isNone

/-! ## Grant ranges -/

/-- The lines of a grant range: each stays in one bank. -/
def grantPieces (c : Ctx) (o n : Nat) : List (Nat × Nat) :=
  (List.range (ceilDiv (n + o % 128) 128)).map fun i =>
    let lo := max o ((o / 128 + i) * 128)
    (grantPa c lo, min (o + n) ((o / 128 + i + 1) * 128) - lo)

/-- A byte outside the grant in force (R522). -/
def grantFault (o : Nat) : AFault := { status := stFLT_ACCESS, cause := causeHOLE, va := o % 2 ^ 32, table := none }

/-- First byte of [o, o + n) outside the grant. -/
def firstOutside (c : Ctx) (o : Nat) : Nat := max o (2 ^ 22 * c.nBanks)

/-- Read a range of a grant: the one in force for the reader (R203, R522). -/
def grantRead (s : State) (x : Ctx) (o n : Nat) : Except AFault (List PByte) :=
  if !inGrant x o n then .error (grantFault (firstOutside x o))
  else if (grantPieces x o n).all fun p => backed s p.1 then
    .ok ((grantPieces x o n).flatMap fun p => physRead s p.1 p.2)
  else .error (unbackedFault 0)

/-- Write a grant range, as far as its banks are backed. -/
def grantWrite (x : Ctx) (o : Nat) (bs : List PByte) (s : State) : State × Option AFault :=
  if !inGrant x o bs.length then (s, some (grantFault (firstOutside x o)))
  else
    let r := (grantPieces x o bs.length).foldl (fun (acc : State × Nat × Option AFault) p =>
      match acc.2.2 with
      | some _ => acc
      | none =>
        if backed acc.1 p.1 then (physWrite p.1 ((bs.drop acc.2.1).take p.2) acc.1, acc.2.1 + p.2, none)
        else (acc.1, acc.2.1, some (unbackedFault 0))) (s, 0, none)
    (r.1, r.2.2)

/-- A working region in the grant is left open; adjacent lines of one bank join (log 2). -/
def loosenGrant (x : Ctx) (o n : Nat) (s : State) : State :=
  if n = 0 ∨ x.nBanks = 0 then s
  else
    -- whole rotations over the banks are one run of lines in each bank
    let turn := 128 * x.nBanks
    let lo := ceilDiv o turn * turn
    let hi := (o + n) / turn * turn
    let parts := fun (a b : Nat) (s : State) => (grantPieces x a (b - a)).foldl (fun s p => loosen s.freeCtr p.1 p.2 s) s
    let s := if hi ≤ lo then parts o (o + n) s
             else (List.range x.nBanks).foldl (fun s b => loosen s.freeCtr (grantPa x (lo + 128 * b)) ((hi - lo) / x.nBanks) s)
               (parts hi (o + n) (parts o lo s))
    { s with freeCtr := s.freeCtr + 1 }

/-- A working region in virtual memory is left open, as far as it translates (log 2). -/
def loosenVa (r : Reach) (c va n : Nat) (s : State) : State :=
  let s := (pieces va n).foldl (fun s p => match translateFor s r c p.1 true with
    | .ok l => if l.host || !backedRange s l.addr p.2 then s else loosen s.freeCtr l.addr p.2 s
    | .error _ => s) s
  { s with freeCtr := s.freeCtr + 1 }

/-! ## What a context has mapped, read from its tables -/

/-- A mapped page. -/
structure Page where
  va : Nat
  big : Bool
  host : Bool
  wr : Bool
  addr : Nat
  /-- Address of its entry. -/
  pte : Nat
  deriving DecidableEq, Repr

/-- The entry at an address as stored, without checks. -/
def pteRaw (s : State) (pa : Nat) : Nat := leNat ((physRead s pa 8).map Prod.fst)

/-- Valid entries of a table: index and entry. -/
def validEntries (s : State) (tbl n : Nat) : List (Nat × Nat) :=
  (List.range n).filterMap fun i => let e := pteRaw s (tbl + 8 * i); if pteV e then some (i, e) else none

/-- The pages of one context in ascending virtual address. -/
def pagesOf (s : State) (c : Nat) : List Page :=
  let x := ctxOf s c
  if x.poolSize = 0 then []
  else
    (validEntries s x.poolBase 1024).flatMap fun e1 =>
      (validEntries s (pteAddr e1.2) 512).flatMap fun e2 =>
        (validEntries s (pteAddr e2.2) 512).flatMap fun e3 =>
          let va := 2 ^ 39 * e1.1 + 2 ^ 30 * e2.1 + 2 ^ 21 * e3.1
          if pteLeaf e3.2 then
            [{ va := va, big := true, host := pteHost e3.2, wr := pteWr e3.2, addr := pteAddr e3.2, pte := pteAddr e2.2 + 8 * e3.1 }]
          else
            (validEntries s (pteL4 e3.2) 32).map fun e4 =>
              { va := va + 2 ^ 16 * e4.1, big := false, host := pteHost e4.2, wr := pteWr e4.2, addr := pteAddr e4.2
                pte := pteL4 e3.2 + 8 * e4.1 }

def Page.size (p : Page) : Nat := if p.big then 2 ^ 21 else 2 ^ 16

/-- The tables below L1: level, base. -/
def tablesOf (s : State) (c : Nat) : List (Nat × Nat) :=
  let x := ctxOf s c
  if x.poolSize = 0 then []
  else
    (validEntries s x.poolBase 1024).flatMap fun e1 => (2, pteAddr e1.2) ::
      (validEntries s (pteAddr e1.2) 512).flatMap fun e2 => (3, pteAddr e2.2) ::
        (validEntries s (pteAddr e2.2) 512).filterMap fun e3 => if pteLeaf e3.2 then none else some (4, pteL4 e3.2)

/-- Pool bytes in use (R45). -/
def poolBytes (s : State) (c : Nat) : Nat :=
  8192 + ((tablesOf s c).map fun t => if t.1 = 4 then 256 else 4096).sum

/-- The lowest 4 KiB unit of the pool that no table uses. -/
def freeUnit (s : State) (c : Nat) : Option Nat :=
  let x := ctxOf s c
  let used := (tablesOf s c).map fun t => t.2 / 4096 * 4096
  ((List.range (x.poolSize / 4096)).map fun i => x.poolBase + i * 4096).find? fun a =>
    decide (x.poolBase + 8192 ≤ a) && !used.contains a

/-- A place for an L4 table: a free 256 B slot of a 4 KiB unit that already holds L4 tables, else a free unit (R42, log 13). -/
def freeL4 (s : State) (c : Nat) : Option Nat :=
  let l4 := (tablesOf s c).filterMap fun t => if t.1 = 4 then some t.2 else none
  let slots := (sortBy id (l4.map fun a => a / 4096 * 4096)).flatMap fun u => (List.range 16).map fun i => u + i * 256
  match slots.find? fun a => !l4.contains a with
  | some a => some a
  | none => freeUnit s c

/-- Write one entry. -/
def pteSet (pa e : Nat) (s : State) : State := physPut pa (leBytes 8 e) s

/-- Clear a table's bytes. -/
def tableClear (pa n : Nat) (s : State) : State := physPut pa (zeros n) s

/-- The table an entry of a level points to, made if it is missing; none when the pool is exhausted. -/
def nextTable (c level pte : Nat) (s : State) : Option (State × Nat) :=
  let e := pteRaw s pte
  if pteV e then some (s, if level = 3 then pteL4 e else pteAddr e)
  else
    match (if level = 3 then freeL4 s c else freeUnit s c) with
    | none => none
    | some a => some (pteSet pte (a + 1) (tableClear a (if level = 3 then 256 else 4096) s), a)

/-- Map one page; none when the pool is exhausted (R44). -/
def mapPage (c va target : Nat) (big host wr : Bool) (s : State) : Option State :=
  match nextTable c 1 ((ctxOf s c).poolBase + 8 * fld va 48 39) s with
  | none => none
  | some (s, t2) =>
    match nextTable c 2 (t2 + 8 * fld va 38 30) s with
    | none => none
    | some (s, t3) =>
      let leaf := target + bnat host * 16 + bnat wr * 4 + 3
      if big then some (pteSet (t3 + 8 * fld va 29 21) leaf s)
      else
        match nextTable c 3 (t3 + 8 * fld va 29 21) s with
        | none => none
        | some (s, t4) => some (pteSet (t4 + 8 * fld va 20 16) leaf s)

/-- Return tables with no valid entry to the pool, clearing the entries that pointed to them, upward (R45). -/
def pruneTables (c : Nat) (s : State) : State :=
  let x := ctxOf s c
  let s := (validEntries s x.poolBase 1024).foldl (fun s e1 =>
    (validEntries s (pteAddr e1.2) 512).foldl (fun s e2 =>
      (validEntries s (pteAddr e2.2) 512).foldl (fun s e3 =>
        if !pteLeaf e3.2 && (validEntries s (pteL4 e3.2) 32).isEmpty then pteSet (pteAddr e2.2 + 8 * e3.1) 0 s else s) s) s) s
  let s := (validEntries s x.poolBase 1024).foldl (fun s e1 =>
    (validEntries s (pteAddr e1.2) 512).foldl (fun s e2 =>
      if (validEntries s (pteAddr e2.2) 512).isEmpty then pteSet (pteAddr e1.2 + 8 * e2.1) 0 s else s) s) s
  (validEntries s x.poolBase 1024).foldl (fun s e1 =>
    if (validEntries s (pteAddr e1.2) 512).isEmpty then pteSet (x.poolBase + 8 * e1.1) 0 s else s) s

end Sys2Proof.Machine
end

