-- ==== Sys2Proof/Machine/Jobs.lean ====
section
/-! DEFINITION. Packets under way: the jobs, their results, and the atomic update of a hitch with the waits it releases (R55, R70 to R75). -/

namespace Sys2Proof.Machine

/-! ## Jobs -/

def jobOf (s : State) (uid : Nat) : Option Job := s.jobs.find? fun j => j.uid == uid

def updJob (uid : Nat) (f : Job → Job) (s : State) : State :=
  { s with jobs := s.jobs.map fun j => if j.uid = uid then f j else j }

def setWork (uid : Nat) (w : Work) (s : State) : State := updJob uid (fun j => { j with work := w }) s

/-- A packet's work is done: its result stands until PACKET_COMPLETE (R55). A result once given is kept. -/
def finish (uid : Nat) (r : Result) (s : State) : State :=
  updJob uid (fun j => if j.res.isSome then j else { j with work := .finished, res := some r }) s

/-- The context a packet runs for: its queue's, or context 0 for the port, the mailbox and a fabric manager (R358). -/
def issuerCtx (s : State) (i : Issuer) : Nat :=
  match i with
  | .queue g => ((kvGet g s.queues).map Queue.ctx).getD 0
  | _ => 0

def fromQueue (i : Issuer) : Option Nat :=
  match i with
  | .queue g => some g
  | _ => none

/-- A started packet whose result is not there yet. -/
def newJob (s : State) (uid : Nat) (p : Packet) (w : Work) : Job :=
  { uid := uid, pkt := p, ctx := issuerCtx s p.issuer, gen := (ctxOf s (issuerCtx s p.issuer)).gen, settings := ctxOf s (issuerCtx s p.issuer)
    startMs := s.clk.uptimeMs, work := w, res := none, data := [] }

/-! ## Transfer commands under way (R57, R221, R366) -/

def xferOf (j : Job) : Option Xfer :=
  if j.res.isSome then none
  else match j.work with
    | .xfer x => some x
    | _ => none

def setXfer (uid : Nat) (f : Xfer → Xfer) (s : State) : State :=
  updJob uid (fun j => match j.work with
    | .xfer x => { j with work := .xfer (f x) }
    | _ => j) s

/-- A stop joins what stopped the command before: an abort status overrides, else the first in time stands (R57). -/
def Xfer.stopped (r : Result) (x : Xfer) : Xfer :=
  { x with stop := match x.stop with
    | none => some r
    | some o => if stRank o.status < stRank r.status then some r else some o }

def stopXfer (uid : Nat) (r : Result) (s : State) : State := setXfer uid (Xfer.stopped r) s

def dropEngine (uid n : Nat) (s : State) : State :=
  setXfer uid (fun x => { x with engines := x.engines.filter fun e => e.no != n }) s

/-- The reply of a transfer command (R57, R366). -/
def xferResult (x : Xfer) : Result :=
  let base := okCnt (sat32 x.poisonWords.length) (sat32 x.issued) 0 0
  let poisoned := x.poisonSeen || !x.poisonWords.isEmpty
  let r := match x.stop with
    | none => base
    | some r => if r.cnt1 = 0 then { base with status := r.status } else r
  { r with status := if poisoned then stJoin r.status stFLT_POISON else r.status, detail := dIf poisoned dfPOISON }

/-- A transfer command's result stands; what it has moved is kept until PACKET_COMPLETE. -/
def finishXfer (uid : Nat) (s : State) : State :=
  updJob uid (fun j => match xferOf j with
    | some x => { j with res := some (xferResult x) }
    | none => j) s

/-- A stopped command none of whose transfers is still in flight has its result (R224, R226). -/
def settleXfer (uid : Nat) (s : State) : State :=
  match (jobOf s uid).bind xferOf with
  | some x => if x.stop.isSome && x.engines.all (fun e => e.tid.isNone) then finishXfer uid s else s
  | none => s

/-- The result of a packet that an abort or a lost unit cuts: the new status, the flags of what the packet had met already, and the counters that no address fills (R57, R366). -/
def cutResult (j : Job) (r : Result) : Result :=
  match j.work, j.res with
  | .xfer x, _ => xferResult (x.stopped r)
  | .revoke _ n, none => { r with cnt0 := sat32 n }
  | _, none => r
  | _, some o =>
    if stREJ_OPCODE.toNat ≤ o.status.toNat ∧ o.status.toNat ≤ stREJ_DEGRADED.toNat then r
    else if o.status = stFLT_ACCESS then { o with status := r.status, cnt0 := r.cnt0, cnt1 := r.cnt1 }
    else { o with status := r.status, detail := if o.status = stFLAGGED then o.detail ||| dfNUMERIC else o.detail }

/-- A packet that has no result is cut (R57). -/
def finishCut (uid : Nat) (r : Result) (s : State) : State :=
  updJob uid (fun j => if j.res.isSome then j
    else { j with work := (match j.work with
                    | .xfer x => .xfer x
                    | _ => .finished)
                  res := some (cutResult j r) }) s

def addJob (j : Job) (s : State) : State := { s with jobs := s.jobs ++ [j] }

/-- A packet that completes without running: its result at once. -/
def answerAtOnce (uid : Nat) (p : Packet) (r : Result) (s : State) : State :=
  -- an array packet stays marked as one that issued no k-step (R369)
  addJob { newJob s uid p (if p.opcode.toNat / 256 = 4 then .array [] else .finished) with res := some r } s

def dropJob (uid : Nat) (s : State) : State := { s with jobs := s.jobs.filter fun j => j.uid != uid }

/-- Draw a free value (log 2). -/
def drawFree (s : State) : State × BitVec 64 := ({ s with freeCtr := s.freeCtr + 1 }, Config.freeValue s.freeCtr)

/-! ## Hitches (R70 to R72) -/

def noHitch : Hitch := { value := 0, owner := none, regs := [] }

def hitchOf (s : State) (h : Nat) : Hitch := kvGetD h noHitch s.hitches

/-- Does the value release the wait (R72)? -/
def condHolds (eq : Bool) (v value : DWord) : Bool := if eq then value == v else decide (v.toNat ≤ value.toNat)

/-- One update of a hitch: every waiter is tested against the new value, and a plan that waits for it begins (R72, R258). -/
def hitchPut (h : Nat) (v : DWord) (s : State) : State :=
  let s := { s with hitches := kvSet h { hitchOf s h with value := v } s.hitches }
  let s := { s with jobs := s.jobs.map fun (j : Job) =>
    match j.work with
    | .wait h' eq w _ =>
      if h' = h ∧ condHolds eq w v ∧ j.res = none then
        { j with work := .finished, res := some (okCnt (v.setWidth 32) ((v >>> 32).setWidth 32) 0 0) }
      else j
    | _ => j }
  { s with spl := { s.spl with plans := kvMap (fun _ p =>
      if p.armed.isSome && p.hitch == h && decide (p.v.toNat ≤ v.toNat) then { p with begun := true } else p) s.spl.plans } }

/-- ADD modulo 2^64. -/
def hitchAdd (h : Nat) (v : DWord) (s : State) : State := hitchPut h ((hitchOf s h).value + v) s

/-- May the context operate on the hitch (R70)? -/
def ownsHitch (s : State) (c h : Nat) : Bool := c == 0 || (hitchOf s h).owner == some c

/-- The low and high words of a 64-bit value. -/
def lo32 (v : DWord) : Word := v.setWidth 32
def hi32 (v : DWord) : Word := (v >>> 32).setWidth 32

/-! ## Waits that a completion releases (R62, R68, R203) -/

/-- Packets of a queue that came before a packet and have not completed. -/
def earlierOpen (s : State) (g uid : Nat) : Bool :=
  (s.fetched.any fun kv => decide (kv.1 < uid) && kv.2.issuer == .queue g)
    || s.jobs.any fun j => decide (j.uid < uid) && j.pkt.issuer == .queue g

/-- Is any of the packets still open? -/
def anyOpen (s : State) (uids : List Nat) : Bool :=
  uids.any fun u => s.jobs.any fun j => j.uid == u

end Sys2Proof.Machine
end

