-- ==== Sys2Proof/Machine/Send.lean ====
section
/-! DEFINITION. Messages as bytes, routing, and the queues of the links (R273, R328, R332 to R339, R345, R350). -/

namespace Sys2Proof.Machine

/-! ## Message bytes -/

def packBits (l : List Bool) : Nat := l.foldr (fun b acc => bnat b + 2 * acc) 0

/-- The bytes of a remote message (R345). -/
def msgBytes (m : Msg) : List Byte :=
  [m.kind, m.code] ++ leBytes 2 m.srcDev.toNat ++ leBytes 2 m.srcCtx.toNat ++ leBytes 2 m.srcGen.toNat
    ++ leBytes 4 m.xferTag.toNat ++ leBytes 2 m.winId.toNat ++ [m.winEpoch, m.cause] ++ leBytes 8 m.offset.toNat
    ++ leBytes 8 m.lenVal.toNat
    ++ (if m.kind = 0x01 ∨ m.kind = 0x81 then leBytes 64 (packBits m.poison) ++ m.data
        else if m.kind = 0x05 ∨ m.kind = 0x85 then m.data else [])

/-- The message that bytes spell. -/
def msgOf (b : List Byte) : Msg :=
  let kind := b.getD 0 0
  let hasData := kind = 0x01 ∨ kind = 0x81
  let data := if hasData then b.drop 96 else if kind = 0x05 ∨ kind = 0x85 then b.drop 32 else []
  { kind := kind, code := b.getD 1 0, srcDev := BitVec.ofNat 16 (leAt 2 2 b), srcCtx := BitVec.ofNat 16 (leAt 4 2 b)
    srcGen := BitVec.ofNat 16 (leAt 6 2 b), xferTag := BitVec.ofNat 32 (leAt 8 4 b), winId := BitVec.ofNat 16 (leAt 12 2 b)
    winEpoch := b.getD 14 0, cause := b.getD 15 0, offset := BitVec.ofNat 64 (leAt 16 8 b), lenVal := BitVec.ofNat 64 (leAt 24 8 b)
    poison := if hasData then (List.range (ceilDiv data.length 8)).map fun w => bit (leAt 32 64 b) w else []
    data := data }

/-- The bytes of a splice message (R273): a header, and for RUN and FINAL the elements and their check fields. -/
def splBytes (m : SplMsg) : List Byte :=
  let header := [m.kind, m.pflags] ++ leBytes 2 m.tag.toNat ++ leBytes 2 m.step.toNat ++ leBytes 2 m.srcDev.toNat
    ++ leBytes 4 m.jobKey.toNat ++ leBytes 4 m.chunk.toNat ++ leBytes 2 m.valid ++ leBytes 2 m.count
    ++ leBytes 4 m.devSum.toNat ++ leBytes 2 m.firstMissing.toNat ++ [m.cause] ++ zeros 5 ++ leBytes 32 (packBits m.poison)
  if m.kind.toNat < 2 then
    header ++ ((m.elems ++ List.replicate 256 0).take 256).flatMap (fun (w : Word) => leBytes 4 w.toNat)
      ++ leBytes 160 (((m.checks ++ List.replicate 256 0).take 256).foldr (fun (c : BitVec 5) acc => c.toNat + 32 * acc) 0) ++ zeros 32
  else header

/-- The splice message that bytes spell. -/
def splOf (b : List Byte) : SplMsg :=
  let valid := leAt 16 2 b
  { kind := b.getD 0 0, pflags := b.getD 1 0, tag := BitVec.ofNat 16 (leAt 2 2 b), step := BitVec.ofNat 16 (leAt 4 2 b)
    srcDev := BitVec.ofNat 16 (leAt 6 2 b), jobKey := BitVec.ofNat 32 (leAt 8 4 b), chunk := BitVec.ofNat 32 (leAt 12 4 b)
    valid := valid, count := leAt 18 2 b, devSum := BitVec.ofNat 32 (leAt 20 4 b), firstMissing := BitVec.ofNat 16 (leAt 24 2 b)
    cause := b.getD 26 0, poison := (List.range valid).map fun e => bit (leAt 32 32 b) e
    elems := if (b.getD 0 0).toNat < 2 then (List.range valid).map fun e => BitVec.ofNat 32 (leAt (64 + 4 * e) 4 b) else []
    checks := if (b.getD 0 0).toNat < 2 then (List.range valid).map fun e => BitVec.ofNat 5 (leAt 1088 160 b / 2 ^ (5 * e)) else [] }

/-- A message with every optional field 0. -/
def blankMsg : Msg :=
  { kind := 0, code := 0, srcDev := 0, srcCtx := 0, srcGen := 0, xferTag := 0, winId := 0, winEpoch := 0, cause := 0
    offset := 0, lenVal := 0, poison := [], data := [] }

def blankSpl : SplMsg :=
  { kind := 0, pflags := 0, tag := 0, step := 0, srcDev := 0, jobKey := 0, chunk := 0, valid := 0, count := 0, devSum := 0
    firstMissing := 0, cause := 0, poison := [], elems := [], checks := [] }

/-! ## Links -/

def linkOf (s : State) (l : Nat) : Link := s.lnk.links.getD l Link.initial

def updLink (l : Nat) (f : Link → Link) (s : State) : State := { s with lnk := { s.lnk with links := setAt l f s.lnk.links } }

def updVc (l v : Nat) (f : Vc → Vc) (s : State) : State := updLink l (fun k => { k with vcs := setAt v f k.vcs }) s

/-- A link is shut: fenced, or under a reset that has reached RESET (R353, R417). -/
def linkShut (s : State) (l : Nat) : Bool := fenced s (sL l) || decide (5 ≤ phaseAt s (sL l))

/-- A link that messages may be routed to (R337). -/
def linkUsable (s : State) (l : Nat) : Bool :=
  !linkShut s l && ((linkOf s l).state == .up || (linkOf s l).state == .training)

/-- Where a message goes (R337). -/
inductive Hop where
  | here
  | link (n : Nat)
  | nowhere
  deriving DecidableEq, Repr

/-- The port that a valid routing field names. -/
def portHop (s : State) (valid : Bool) (code : Nat) : Option Hop :=
  if !valid then none
  else if code = 0x20 then some .here
  else if code < 32 ∧ linkUsable s code then some (.link code) else none

/-- Routing of R337, for a message not sent LOCAL_ONLY. -/
def route (s : State) (dest : Nat) : Hop :=
  if s.lnk.deviceIdValid ∧ dest = s.lnk.deviceId.toNat then .here
  else
    let e := (kvGetD dest 0 s.lnk.routing).toNat
    match portHop s (bit e 15) (fld e 11 6) with
    | some h => h
    | none =>
      match portHop s (bit e 14) (fld e 5 0) with
      | some h => h
      | none => .nowhere

/-- Count an unroutable message at a bridge die (R338, R353). -/
def countDrop (die : Nat) (s : State) : State :=
  { s with lnk := { s.lnk with drops := setAt die (fun w => satWord w 1) s.lnk.drops } }

/-- Put a message on a link's queue for a virtual channel. -/
def enqueue (l v : Nat) (o : Outbound) (s : State) : State := updVc l v (fun c => { c with txq := c.txq ++ [o] }) s

/-- Credit units of a message (R333). -/
def msgUnits (n : Nat) : Nat := ceilDiv n 256

/-! ## Flits on the wire (R328 to R330) -/

/-- Is a DATA injection armed on the source? -/
def armedOn (s : State) (p : Strand) (src : Nat) : Bool := s.str.armed.contains (strandId p, src)

/-- What a DATA flit carries of a starting message. -/
structure FlitStart where
  dest : Nat
  hops : Nat
  len : Nat
  localOnly : Bool
  deriving DecidableEq, Repr

/-- The CR_TOTAL that flits show: from forming an audit until the peer's comes, the audit's own value (R335). -/
def crShown (k : Link) (v : Nat) : Nat :=
  if k.state == .training && k.auditSent then k.auditCr.getD v 0 else (k.vcs.getD v Vc.initial).crTotal

/-- Form a flit of a link; CR_VC rotates (R328, R329). -/
def makeFlit (s : State) (l ftype seq vc : Nat) (start : Option FlitStart) (payload : List Byte) : List Byte :=
  let k := linkOf s l
  let crVc := s.lnk.rot.getD l 0
  let head := 2 ^ 100 * seq + 2 ^ 88 * k.rxSeq + 2 ^ 85 * ftype + 2 ^ 83 * vc + 2 ^ 75 * payload.length
    + (match start with
       | some m => 2 ^ 74 + 2 ^ 52 * m.dest + 2 ^ 48 * m.hops + 2 ^ 35 * m.len + 2 ^ 34 * bnat m.localOnly
       | none => 0)
    + 2 ^ 32 * crVc + 2 ^ 20 * (crShown k crVc % 4096)
  let b := leBytes 14 head ++ slice 0 238 payload
  b ++ leBytes 4 (crc32 b)

/-- Put a flit on the wire; the rotation goes on. A lane's armed injection corrupts symbols that the peer's decoder corrects (R396). -/
def wire (l : Nat) (f : List Byte) (s : State) : State :=
  let armed := (List.range 5).find? fun k => armedOn s (sLANE l k) 0
  let s := match armed with
    | some k => { s with str := { s.str with armed := s.str.armed.filter (· != (strandId (sLANE l k), 0)) } }
    | none => s
  { s with lnk := { s.lnk with out := s.lnk.out ++ [(l, f)], rot := setAt l (fun v => (v + 1) % 4) s.lnk.rot } }

/-- IDLE flits: they carry ACK, and CR_TOTAL of one virtual channel each, in rotation (R329, R330). -/
def sendIdles (l n : Nat) (s : State) : State :=
  if decide (32 ≤ l) || linkShut s l || ((linkOf s l).state != .up && !((linkOf s l).state == .training && (linkOf s l).auditSent)) then s
  else (List.range n).foldl (fun s _ => wire l (makeFlit s l 1 0 0 none []) s) s

/-- Free a message's units of a receiver; four IDLE flits return the counter (R330, R333; log 138). -/
def freeUnits (l v n : Nat) (s : State) : State :=
  sendIdles l 4 (updVc l v (fun c => { c with rxHeld := c.rxHeld - msgUnits n, crTotal := (c.crTotal + msgUnits n) % 4096 }) s)

/-- Send a message of this module: to a link's queue, to this module's own inbox, or nowhere (R337). -/
def sendBytes (v dest : Nat) (b : List Byte) (s : State) : State × Bool :=
  match route s dest with
  | .here => ({ s with lnk := { s.lnk with inbox := s.lnk.inbox ++ [{ link := 32, vc := v, localOnly := false, bytes := b }] } }, true)
  | .link l => (enqueue l v { dest := dest, hops := 1, localOnly := false, bytes := b, origin := none } s, true)
  | .nowhere => (countDrop 0 s, false)

def sendMsg (v dest : Nat) (m : Msg) (s : State) : State × Bool := sendBytes v dest (msgBytes m) s

def sendSpl (dest : Nat) (m : SplMsg) (s : State) : State := (sendBytes 2 dest (splBytes m) s).1

/-- The module's own ID as it stands in messages. -/
def ownDev (s : State) : BitVec 16 := s.lnk.deviceId.setWidth 16

/-! ## Answers (R344, R345) -/

def ncFENCED : Nat := 1
def ncRESET : Nat := 2
def ncNO_WINDOW : Nat := 3
def ncGENERATION : Nat := 4
def ncPERMISSION : Nat := 5
def ncRANGE : Nat := 6
def ncACCESS : Nat := 7
def ncUNBACKED : Nat := 8
def ncUNREACHABLE : Nat := 9

/-- A response: it echoes the requester's context, generation and tag. -/
def respMsg (s : State) (m : Msg) (kind code cause : Nat) : Msg :=
  { blankMsg with kind := BitVec.ofNat 8 kind, code := BitVec.ofNat 8 code, srcDev := ownDev s, srcCtx := m.srcCtx, srcGen := m.srcGen
                  xferTag := m.xferTag, cause := BitVec.ofNat 8 cause }

def answer (m r : Msg) (s : State) : State := (sendMsg 1 (m.srcDev.toNat % 2 ^ 14) r s).1

def sendNeg (m : Msg) (code cause : Nat) (s : State) : State := answer m (respMsg s m 0x82 code cause) s

/-- An unroutable message: counted, and a REQ is answered ERR_UNREACHABLE (R338). -/
def dropUnroutable (die v : Nat) (b : List Byte) (s : State) : State :=
  let s := countDrop die s
  if v = 0 then sendNeg (msgOf b) ncUNREACHABLE 0 s else s

/-- The units that a forwarded message holds where it arrived are free once it has left (R333). -/
def freeOrigin (v : Nat) (o : Outbound) (s : State) : State :=
  match o.origin with
  | some i => freeUnits i v o.bytes.length s
  | none => s

/-- The stamp of a tracker entry in a message (R345). -/
def tagOf (tid : Nat) (epoch : Byte) : Word := BitVec.ofNat 32 (tid + 2 ^ 18 * epoch.toNat)

/-- Remote commands can be sent: level F is held, for which DEVICE_ID must be valid (R351, R400). -/
def canSend (s : State) : Bool := s.lnk.deviceIdValid

/-- A change of a context's generation: one WINDOW_REVOKE to each device that an entry of the old generation addresses (R350). -/
def revokePeers (c : Nat) (gen : BitVec 16) (s : State) : State :=
  let devs := s.trk.entries.foldl (fun acc (kv : Nat × Entry) =>
    match kv.2.req with
    | .peer d => if kv.2.ctx = c ∧ kv.2.gen = gen then insNat d.toNat acc else acc
    | _ => acc) []
  devs.foldl (fun s d =>
    (sendMsg 0 d { blankMsg with kind := 0x04, srcDev := ownDev s, srcCtx := BitVec.ofNat 16 c, srcGen := gen } s).1) s

/-- Every window of a context becomes invalid (R342). -/
def dropWindows (c : Nat) (s : State) : State :=
  { s with wins := kvMap (fun _ w => if w.owner = c then { w with valid := false } else w) s.wins }

end Sys2Proof.Machine
end

