-- ==== Sys2Proof/Machine/SpliceCore.lean ====
section
/-! DEFINITION. Splice: plans, windows of merge slots, completion and abandonment of buckets (R264 to R268, R286 to R291). -/

namespace Sys2Proof.Machine

def planOf (s : State) (p : Nat) : Option Plan := kvGet p s.spl.plans

def setPlan (p : Nat) (x : Plan) (s : State) : State := { s with spl := { s.spl with plans := kvSet p x s.spl.plans } }

def updPlan (p : Nat) (f : Plan → Plan) (s : State) : State :=
  match planOf s p with
  | some x => setPlan p (f x) s
  | none => s

def updBkt (p e : Nat) (f : Bkt → Bkt) (s : State) : State := updPlan p (fun x => { x with buckets := setAt e f x.buckets }) s

def bktOf (s : State) (p e : Nat) : Option Bkt := (planOf s p).bind fun x => x.buckets[e]?

def noRoute : Route :=
  { contrib := false, tail := false, down := 0, parent := 0, ups := [], children := [], c := 1, contribSum := 0, waitMs := 1, finalMs := 1 }

def routeOf (x : Plan) (b : Bkt) : Route := x.routes.getD b.route noRoute

/-- The chunks of a window (R262). -/
def windowOf (b : Bkt) : Nat := 2 ^ (if b.windowLog2 = 0 then 7 else b.windowLog2)

/-- Elements of the stream a bucket reduces: the tensor, or P and then Q' (R267, Low-rank mode). -/
def streamLen (b : Bkt) : Nat := if b.lowrank then b.rows * b.rank + b.cols * b.rank else b.rows * b.cols

/-- Chunks of a stream; P and Q' of a LOWRANK bucket each start a chunk of their own, as the chunks of P are finished before a single element of Q' exists (DEDUCED from R281 and R283, log 14). -/
def pChunks (b : Bkt) : Nat := ceilDiv (b.rows * b.rank) 256

def chunksOf (b : Bkt) : Nat :=
  if b.lowrank then pChunks b + ceilDiv (b.cols * b.rank) 256 else ceilDiv (b.rows * b.cols) 256

/-- First element of a chunk in its stream part, and how many it has: part 0 is the tensor or P, part 1 is Q'. -/
def chunkSpan (b : Bkt) (c : Nat) : Nat × Nat × Nat :=
  if b.lowrank then
    if c < pChunks b then (0, c * 256, min 256 (b.rows * b.rank - c * 256))
    else (1, (c - pChunks b) * 256, min 256 (b.cols * b.rank - (c - pChunks b) * 256))
  else (0, c * 256, min 256 (b.rows * b.cols - c * 256))

/-- Merge slots of the applied splice partition (R266). -/
def slotsTotal (s : State) : Nat := (16 - s.arr.splitApplied.toNat) * 512

def activeWindows (s : State) : List (Nat × Nat) :=
  s.spl.plans.flatMap fun (kv : Nat × Plan) => kv.2.buckets.filterMap fun (b : Bkt) =>
    if b.state = .active then some (b.firstSlot, windowOf b) else none

/-- SLOTS_HELD: the sum of the active windows (R268). -/
def slotsHeld (s : State) : Nat := ((activeWindows s).map Prod.snd).sum

/-- The lowest place where w consecutive slots are free (log 14). -/
def freeWindow (s : State) (w : Nat) : Option Nat :=
  let ws := activeWindows s
  let starts := sortBy id (0 :: ws.map fun a => a.1 + a.2)
  starts.find? fun f => decide (f + w ≤ slotsTotal s) && ws.all fun a => decide (f + w ≤ a.1) || decide (a.1 + a.2 ≤ f)

/-- Bucket status of an abandon cause (R286). -/
def causeStatus (c : Nat) : Byte :=
  if c = 1 then stFLT_TIMEOUT else if c = 2 then stFLT_CHECK else if c = 3 then stFLT_ACCESS else if c = 4 then stFLT_FENCED else stABT_RESET

/-- The status of a bucket among its outcomes (R57, R289). -/
def bktStatus (b : Bkt) : Byte :=
  b.statuses.foldl stJoin (if b.nonfinite > 0 || b.partialSeen then stFLAGGED else stOK)

/-- FIRST_MISSING as a field: bit 15 valid (R273). -/
def missingField (m : Option Nat) : Nat := match m with
  | some d => 0x8000 + d
  | none => 0

/-- The bucket status record (R289). -/
def statusRecord (s : State) (step : BitVec 16) (b : Bkt) : List Byte :=
  [bktStatus b, BitVec.ofNat 8 (bnat b.partialSeen + bnat (decide (0 < b.nonfinite)) * 2 + bnat b.demoted * 4 + bnat b.checkSeen * 8 + bnat b.mFormed * 16)]
    ++ leBytes 2 step.toNat ++ leBytes 4 (min (2 ^ 32 - 1) b.nonfinite) ++ leBytes 2 b.contribCount
    ++ leBytes 2 (missingField b.missing) ++ leBytes 4 (min (2 ^ 32 - 1) b.poisoned) ++ leBytes 4 b.finals.length
    ++ leBytes 4 b.deficient ++ leBytes 4 s.clk.uptimeMs.toNat ++ leBytes 4 b.cause

def bktDone (b : Bkt) : Bool := b.state == .done || b.state == .abandoned

/-- The result of SPL.CLOSE over a plan's buckets (R290, R377). -/
def closeResult (x : Plan) : Result :=
  let sts := x.buckets.map bktStatus
  let flagged := (sts.filter fun c => c == stFLAGGED).length
  let ok := (sts.filter fun c => c == stOK).length
  let nf := (x.buckets.map Bkt.nonfinite).sum
  let st := sts.foldl stJoin stOK
  { okRes with
    status := st
    detail := dIf (x.buckets.any fun b => decide (0 < b.nonfinite)) (dfOp 40) ||| dIf (x.buckets.any Bkt.partialSeen) (dfOp 41)
      ||| dIf (x.buckets.any Bkt.checkSeen) dfCHECK ||| dIf (x.buckets.any fun b => decide (0 < b.poisoned)) dfPOISON
      ||| dIf (decide (0 < flagged)) dfNUMERIC
    cnt0 := sat32 ok, cnt1 := sat32 flagged, cnt2 := sat32 (sts.length - ok - flagged), cnt3 := sat32 nf }

def disarmed (x : Plan) : Plan :=
  { x with armed := none, begun := false
           buckets := x.buckets.map fun (b : Bkt) => { b with state := .idle, slots := [] } }

/-- The SPL.CLOSE commands that wait on a plan: their numbers, and whether they drop it. -/
def closers (s : State) (p : Nat) : List (Nat × Bool) :=
  s.jobs.filterMap fun (j : Job) => match j.work with
    | .splClose q drop => if q = p then some (j.uid, drop) else none
    | _ => none

/-- SPL.CLOSE completes once every bucket of the armed step has: the plan is disarmed, and unloaded with DROP (R290). -/
def closeCheck (p : Nat) (s : State) : State :=
  match planOf s p with
  | none => s
  | some x =>
    let cs := closers s p
    if cs.isEmpty || !x.buckets.all bktDone then s
    else
      let s := cs.foldl (fun s (c : Nat × Bool) => finish c.1 (closeResult x) s) s
      let s := { s with spl := { s.spl with order := s.spl.order.filter (· != p) } }
      if cs.any Prod.snd then { s with spl := { s.spl with plans := kvErase p s.spl.plans } } else setPlan p (disarmed x) s

/-! ## When a local step of a low-rank bucket may run (R281, R282) -/

/-- Finished chunks of P, and of Q'. -/
def pFinished (b : Bkt) : Bool := decide (pChunks b ≤ (b.finals.filter fun c => decide (c < pChunks b)).length)
def qFinished (b : Bkt) : Bool := decide (b.finals.length = chunksOf b)

/-- An earlier low-rank bucket of the plan has not completed: the buffers are its (R282). -/
def lrBehind (x : Plan) (e : Nat) : Bool := (x.buckets.take e).any fun b => b.lowrank && !bktDone b

/-- Has the turn of the bucket's next step come? -/
def lrDue (x : Plan) (e : Nat) (b : Bkt) : Bool :=
  b.state == .active && b.lowrank && x.begun && (!b.startContrib || b.contribGiven.isSome) && !lrBehind x e
    && !(b.lrStep == 2 && !pFinished b) && !(b.lrStep == 5 && !qFinished b)

/-- Does the next step run on the array: 2, 5 or 7? -/
def lrOnArray (b : Bkt) : Bool := b.lrStep == 1 || b.lrStep == 4 || b.lrStep == 5

/-- Contexts whose low-rank steps are ready operations of the array (R78, R281). -/
def arraySteps (s : State) : List Nat :=
  s.spl.plans.flatMap fun (kv : Nat × Plan) => (List.range kv.2.buckets.length).filterMap fun e =>
    if (kv.2.buckets[e]?).any fun b => lrDue kv.2 e b && lrOnArray b then some kv.2.owner else none

/-! ## The work buffer of a low-rank bucket (R282, log 14): M_b, P, P̂, Q_b, Q', Q'_b -/

def lrM (_ : Bkt) : Nat := 0
def lrP (b : Bkt) : Nat := 2 * b.rows * b.cols
def lrPh (b : Bkt) : Nat := lrP b + 4 * b.rows * b.rank
def lrQb (b : Bkt) : Nat := lrPh b + 2 * b.rows * b.rank
def lrQp (b : Bkt) : Nat := lrQb b + 2 * b.cols * b.rank
def lrQpb (b : Bkt) : Nat := lrQp b + 4 * b.cols * b.rank
/-- Bytes of the work buffer, and of the scratchpad region. -/
def lrWork (b : Bkt) : Nat := 2 * b.rows * b.cols + 6 * b.rows * b.rank + 8 * b.cols * b.rank
def lrPad (b : Bkt) : Nat := 2 ^ 22 + 8 * b.rows * b.rank + 4 * b.cols

/-- What a low-rank bucket leaves in its work buffer and scratchpad region is open (log 2). -/
def lrLoose (x : Plan) (b : Bkt) (s : State) : State :=
  if b.lowrank && decide (0 < b.lrStep) then
    let s := loosenVa reachHN x.owner b.workVa (lrWork b) s
    if inGrant (ctxOf s x.owner) x.spWork (lrPad b) then loosenGrant (ctxOf s x.owner) x.spWork (lrPad b) s else s
  else s

/-- An SPL.CONTRIB that still waits when its bucket ends completes with it (R269). -/
def endContrib (b : Bkt) (s : State) : State :=
  match b.contribGiven with
  | some uid =>
    finish uid { (if b.state = .abandoned then resOf (causeStatus b.cause) else okRes) with cnt0 := sat32 b.localRead.length } s
  | none => s

/-- A bucket completes on this module: its status record, then DONE_HITCH; its slots are free (R268, R289). -/
def completeBkt (p e : Nat) (st : BktState) (s : State) : State :=
  match planOf s p, bktOf s p e with
  | some x, some b =>
    if b.state != .active && b.state != .armed then s
    else
      let b' := { b with state := st, slots := [] }
      let s := endContrib b' (lrLoose x b (updBkt p e (fun _ => b') s))
      let s := (vaWrite reachHN x.owner (x.statusVa + 32 * e) ((statusRecord s (x.armed.getD 0) b').map fun v => (v, false)) s).1
      let s := if b.doneSignal then hitchAdd b.doneHitch 1 s else s
      closeCheck p s
  | _, _ => s

/-- ABANDON to DOWN_DEV, unless this is the tail, and to every child (R286). -/
def sendAbandon (x : Plan) (b : Bkt) (cause : Nat) (missing : Option Nat) (s : State) : State :=
  let r := routeOf x b
  let m := { blankSpl with kind := 3, tag := BitVec.ofNat 16 b.tag, step := x.armed.getD 0, srcDev := ownDev s, jobKey := x.jobKey
                           firstMissing := BitVec.ofNat 16 (missingField missing), cause := BitVec.ofNat 8 cause }
  ((if r.tail then [] else [r.down]) ++ r.children).foldl (fun s d => sendSpl d m s) s

/-- Abandon an unfinished bucket: messages, slots, status (R286). -/
def abandonBkt (p e cause : Nat) (missing : Option Nat) (s : State) : State :=
  match planOf s p, bktOf s p e with
  | some x, some b =>
    if b.state = .active ∨ b.state = .armed then
      let s := if b.state = .active then sendAbandon x b cause missing s else s
      let s := updBkt p e (fun b => { b with cause := cause, missing := if missing.isSome then missing else b.missing
                                             statuses := b.statuses ++ [causeStatus cause] }) s
      completeBkt p e .abandoned s
    else s
  | _, _ => s

/-- Abandon every active bucket of every plan with one cause (R277, R396). -/
def abandonAll (cause : Nat) (s : State) : State :=
  s.spl.plans.foldl (fun s (kv : Nat × Plan) =>
    (List.range kv.2.buckets.length).foldl (fun s e =>
      match bktOf s kv.1 e with
      | some b => if b.state = .active then abandonBkt kv.1 e cause none s else s
      | none => s) s) s

/-- A plan with every unfinished bucket abandoned with cause CONTEXT, as a waiting SPL.CLOSE counts them (R288, R377). -/
def droppedPlan (x : Plan) : Plan :=
  { x with buckets := x.buckets.map fun (b : Bkt) => if bktDone b then b else { b with statuses := b.statuses ++ [causeStatus 5] } }

/-- Drop a plan whose context has ended or whose unit was reset: its active buckets send ABANDON, no record, no signal, and commands that wait on it end with the status (R288). -/
def dropPlan (st : Byte) (p : Nat) (s : State) : State :=
  match planOf s p with
  | none => s
  | some x =>
    let s := x.buckets.foldl (fun s b => if b.state = .active then lrLoose x b (sendAbandon x b 5 none s) else s) s
    let s := s.jobs.foldl (fun (s : State) (j : Job) =>
      match j.work with
      | .splClose q _ => if q = p then finish j.uid { closeResult (droppedPlan x) with status := st } s else s
      | .splOpen => s
      | .splContrib q t => if q = p then finish j.uid { resOf st with cnt0 := sat32 (((x.buckets.find? fun b => b.tag == t).map fun b => b.localRead.length).getD 0) } s else s
      | _ => s) s
    { s with spl := { plans := kvErase p s.spl.plans, order := s.spl.order.filter (· != p) } }

/-- Drop the plans of a context (R288). -/
def dropPlansOf (st : Byte) (c : Nat) (s : State) : State :=
  s.spl.plans.foldl (fun s (kv : Nat × Plan) => if kv.2.owner = c then dropPlan st kv.1 s else s) s

def dropAllPlans (st : Byte) (s : State) : State := s.spl.plans.foldl (fun s (kv : Nat × Plan) => dropPlan st kv.1 s) s

end Sys2Proof.Machine
end

