-- ==== Sys2Proof/Machine/Packets.lean ====
section
/-! DEFINITION. Packets: opcodes and lengths, reading a ring, the queue state block, header checks, the order of rejections, and taking a packet up (R48 to R69, R83, R354 to R360). -/

namespace Sys2Proof.Machine

/-! ## Opcodes (R354): value and LENGTH -/

def opTable : List (Nat × Nat) :=
  [(0x0100, 1), (0x0101, 2), (0x0110, 3), (0x0111, 2), (0x0112, 3), (0x0113, 3), (0x0120, 5), (0x0121, 2),
   (0x0201, 2), (0x0202, 2), (0x0203, 2), (0x0204, 2), (0x0205, 2), (0x0206, 3),
   (0x0301, 3), (0x0302, 4), (0x0303, 3), (0x0304, 3), (0x0310, 4), (0x0311, 4), (0x0320, 3), (0x0321, 2)] ++
  [(0x0401, 9), (0x0402, 3), (0x0403, 10), (0x0404, 1), (0x0410, 9), (0x0411, 9),
   (0x0501, 9), (0x0502, 9), (0x0503, 9), (0x0504, 9), (0x0505, 9), (0x0506, 9), (0x0507, 9), (0x0508, 9),
   (0x0601, 7), (0x0602, 7), (0x0603, 4), (0x0610, 5), (0x0620, 7), (0x0621, 10), (0x0622, 14)] ++
  [(0x0701, 2), (0x0702, 2), (0x0703, 2), (0x0704, 2), (0x0705, 2), (0x0706, 2),
   (0x0801, 2), (0x0802, 3), (0x0803, 3), (0x0804, 2), (0x0805, 3), (0x0806, 4), (0x0807, 4), (0x0808, 2),
   (0x0901, 2), (0x0902, 2), (0x0903, 2)] ++
  [(0x0A01, 2), (0x0A02, 2), (0x0A03, 2), (0x0A04, 2), (0x0A05, 2), (0x0A06, 2), (0x0A07, 1),
   (0x0B01, 2), (0x0B02, 2), (0x0B03, 2), (0x0C01, 2), (0x0C02, 4), (0x0C03, 2), (0x0C04, 2)]

def opLength (op : Nat) : Option Nat := (opTable.find? fun x => x.1 == op).map Prod.snd

/-- The engine whose packets of one queue start in slot order (R66, log 15): array 1, vector 2, gather/scatter and ranker 3, transfer 4, splice 5, Tackle 6, control cores 7; 0 for the dispatcher's own. -/
def engineOf (op : Nat) : Nat :=
  if [0x0100, 0x0101, 0x0201, 0x0202, 0x0203, 0x0204, 0x0206, 0x0902].contains op then 0
  else if op = 0x0320 ∨ op = 0x0321 then 7
  else match op / 256 with
    | 3 => 4
    | 4 => 1
    | 5 => 2
    | 6 => 3
    | 7 => 5
    | 8 => 6
    | _ => 7

/-! ## Parameter words (R356) -/

/-- Word w of the packet, w from 4: 0 past its end. -/
def wd (p : Packet) (w : Nat) : Nat := (p.params.getD (w - 4) 0).toNat

/-- The 64-bit field in words w and w + 1. -/
def dw (p : Packet) (w : Nat) : Nat := wd p w + 2 ^ 32 * wd p (w + 1)

def pf (p : Packet) (w hi lo : Nat) : Nat := fld (wd p w) hi lo

def pb (p : Packet) (w n : Nat) : Bool := bit (wd p w) n

/-- The word, where the condition makes it offend. -/
def badIf (c : Bool) (w : Nat) : List Nat := if c then [w] else []

/-- Reserved bits: word w may hold ones only where the mask does (R8). -/
def resv (p : Packet) (w mask : Nat) : List Nat := badIf (decide (wd p w &&& (2 ^ 32 - 1 - mask) ≠ 0)) w

/-- Words that must be 0. -/
def zeroWords (p : Packet) (ws : List Nat) : List Nat := ws.filter fun w => decide (wd p w ≠ 0)

/-- A device virtual address field in words w, w + 1: bits [63:49] are reserved. -/
def vaField (p : Packet) (w : Nat) : List Nat := resv p (w + 1) 0x1FFFF

/-- A virtual range that runs past the end of the space (R523). -/
def vaRange (p : Packet) (w n : Nat) : List Nat := vaField p w ++ badIf (decide (vaEnd < dw p w % 2 ^ 49 + n)) w

/-- The earliest offending word. -/
def minWord : List Nat → Nat
  | [] => 0
  | w :: t => t.foldl min w

/-! ## Rejections (R83) -/

/-- What may reject a packet, class by class. -/
structure Checks where
  opcode : Bool
  /-- Offending words of each class; `detail` names a flag of a REJ_PARAM. -/
  param : List Nat
  detail : BitVec 24
  permission : List Nat
  degraded : List Nat
  conflict : List Nat
  resource : List Nat
  deriving DecidableEq, Repr

def noChecks : Checks :=
  { opcode := false, param := [], detail := 0, permission := [], degraded := [], conflict := [], resource := [] }

/-- The rejection that applies first (R83), if any; CNT0 is the first word that the class holds against (R53; word 0, the opcode, where none is named; log 16). -/
def verdict (k : Checks) : Option Result :=
  if k.opcode then some (rej stREJ_OPCODE 0)
  else if !k.param.isEmpty then some { rej stREJ_PARAM (minWord k.param) with detail := k.detail }
  else if !k.permission.isEmpty then some (rej stREJ_PERMISSION (minWord k.permission))
  else if !k.degraded.isEmpty then some (rej stREJ_DEGRADED (minWord k.degraded))
  else if !k.conflict.isEmpty then some (rej stREJ_CONFLICT (minWord k.conflict))
  else if !k.resource.isEmpty then some (rej stREJ_RESOURCE (minWord k.resource))
  else none

/-! ## Header (R49 to R51, R356, R358) -/

def flWAIT_PREV : Nat := 0
def flSIGNAL : Nat := 1
def flBATCHABLE : Nat := 2
def flNO_REPLY : Nat := 3
def flLONG : Nat := 4
def flIRQ : Nat := 5

def hasFlag (p : Packet) (n : Nat) : Bool := p.flags.getLsbD n

def queueOf (s : State) (g : Nat) : Option Queue := kvGet g s.queues

/-- Offending header words, apart from the opcode itself. -/
def headerBad (s : State) (p : Packet) : List Nat :=
  let len := p.length.toNat
  badIf (decide (p.flags.toNat / 2 ^ 6 ≠ 0)) 0
    ++ badIf (p.rsvd != 0) 1
    ++ badIf (decide (len = 0) || decide (16 < len)) 1
    ++ badIf (hasFlag p flLONG != decide (4 < len)) 0
    ++ badIf (opLength p.opcode.toNat != some len) 1
    ++ badIf (hasFlag p flBATCHABLE && p.opcode.toNat != 0x0401) 0
    ++ (match p.issuer with
        | .queue g =>
          badIf (hasFlag p flSIGNAL && ((queueOf s g).bind Queue.hitch).isNone) 0
            ++ badIf (hasFlag p flIRQ && ((queueOf s g).bind Queue.msix).isNone) 0
        | _ =>
          badIf (decide (p.flags.toNat % 16 ≠ 0) || hasFlag p flIRQ || p.opcode.toNat == 0x0C03) 0)

/-- An opcode that does not exist, or that the management port does not carry (R355, R358). -/
def opcodeBad (p : Packet) : Bool :=
  (opLength p.opcode.toNat).isNone
    || (match p.issuer with
        | .queue _ => false
        | _ => p.opcode.toNat / 256 < 0x0A)

def headerVerdict (s : State) (p : Packet) : Option Result :=
  verdict { noChecks with opcode := opcodeBad p, param := headerBad s p }

/-! ## Rings (R48, R58, R60) -/

/-- Slots of a packet of a LENGTH (R48, R51). -/
def slotsOf (len : Nat) : Nat := if len = 0 ∨ 16 < len then 1 else ceilDiv len 4

/-- The packet that bytes spell, its parameter words up to its LENGTH. -/
def parsePacket (i : Issuer) (b : List Byte) : Packet :=
  let len := leAt 4 1 b
  { issuer := i, opcode := BitVec.ofNat 16 (leAt 0 2 b), flags := BitVec.ofNat 16 (leAt 2 2 b), length := BitVec.ofNat 8 len
    rsvd := BitVec.ofNat 24 (leAt 5 3 b), seq := BitVec.ofNat 32 (leAt 8 4 b), cookie := BitVec.ofNat 32 (leAt 12 4 b)
    params := if len = 0 ∨ 16 < len then []
      else (List.range (len * 4 - 4)).map fun w => BitVec.ofNat 32 (leAt (16 + 4 * w) 4 b) }

/-- The words of a packet as issued outside a ring. -/
def packetOfWords (i : Issuer) (ws : List Word) : Packet :=
  parsePacket i (ws.flatMap fun (w : Word) => leBytes 4 w.toNat)

/-- What the ring of a queue holds next. -/
inductive RingNext where
  | empty
  /-- The ring cannot be read: by an access fault, or because it reads poisoned. -/
  | fault (f : Option AFault)
  | packet (p : Packet) (slots : Nat)
  deriving DecidableEq, Repr

/-- Read n slots from the ring, wrapping at its end. -/
def ringRead (s : State) (q : Queue) (n : Nat) : Except AFault (List PByte) :=
  (List.range n).foldl (fun acc i =>
    match acc with
    | .error f => .error f
    | .ok bs =>
      match vaRead s reachQueue q.ctx (q.ringVa + 64 * ((q.consumed.toNat + i) % max q.ringSlots 1)) 64 with
      | .error f => .error f
      | .ok more => .ok (bs ++ more)) (.ok [])

/-- The next whole packet of a queue up to LAST_TAIL (R60, R64); an access fault or poison is a ring fault (R61). -/
def ringNext (s : State) (g : Nat) (q : Queue) : RingNext :=
  let avail := (q.lastTail - q.consumed).toNat
  if avail = 0 then .empty
  else
    match ringRead s q 1 with
    | .error f => .fault (some f)
    | .ok b1 =>
      if anyPoison b1 then .fault none
      else
        let n := slotsOf (leAt 4 1 (b1.map Prod.fst))
        if avail < n then .empty
        else
          match ringRead s q n with
          | .error f => .fault (some f)
          | .ok bs => if anyPoison bs then .fault none else .packet (parsePacket (.queue g) (bs.map Prod.fst)) n

/-! ## Queue state block (R59) -/

def updQueue (g : Nat) (f : Queue → Queue) (s : State) : State :=
  match queueOf s g with
  | some q => { s with queues := kvSet g (f q) s.queues }
  | none => s

/-- Bytes 0 to 7: CONSUMED and DONE. -/
def writeCounts (g : Nat) (s : State) : State × Option AFault :=
  match queueOf s g with
  | some q => vaWrite reachReply q.ctx q.stateVa ((leBytes 4 q.consumed.toNat ++ leBytes 4 q.done.toNat).map fun b => (b, false)) s
  | none => (s, none)

/-- Bytes 8 to 19: LAST_TAIL, QFLAGS and DB_ERRORS. -/
def writeFlags (g : Nat) (s : State) : State × Option AFault :=
  match queueOf s g with
  | some q => vaWrite reachReply q.ctx (q.stateVa + 8)
      ((leBytes 4 q.lastTail.toNat ++ leBytes 4 q.qflags.toNat ++ leBytes 4 q.dbErrors.toNat).map fun b => (b, false)) s
  | none => (s, none)

/-- Take the next whole packet out of the ring: CONSUMED passes it, and it gets its number. -/
def takeRing (g : Nat) (slots : Nat) (s : State) : State × Nat :=
  let s := updQueue g (fun q => { q with consumed := q.consumed + BitVec.ofNat 32 slots }) s
  ({ s with nextUid := s.nextUid + 1 }, s.nextUid)

/-! ## Starting (R66 to R68, R73, R290) -/

/-- A packet that blocks every later packet of its queue: a wait, a barrier or SPL.CLOSE still pending. -/
def blocks (j : Job) : Bool :=
  j.res.isNone && (match j.work with
    | .wait _ _ _ _ => true
    | .barrier _ _ => true
    | .splClose _ _ => true
    | _ => false)

/-- HCH.WAIT, CTL.BARRIER and SPL.CLOSE block the later packets of their queue from the moment they are read (R67, R68, R73, R290). -/
def blockOps : List Nat := [0x0203, 0x0101, 0x0705]

/-- Tackle runs one command at a time (R292). -/
def tackleBusy (s : State) : Bool := s.tkl.run.isSome

/-- Is the packet with this number ready, whatever the Tackle chip runs? -/
def isReady (s : State) (uid : Nat) (p : Packet) : Bool :=
  match p.issuer with
  | .queue g =>
    match queueOf s g with
    | none => false
    | some q =>
      !q.stopping && (ctxOf s q.ctx).state == .live && !underReset s sIZ
        && !(s.jobs.any fun j => decide (j.uid < uid) && j.pkt.issuer == .queue g && blocks j)
        && !(s.fetched.any fun kv => decide (kv.1 < uid) && kv.2.issuer == .queue g && blockOps.contains kv.2.opcode.toNat)
        && !(hasFlag p flWAIT_PREV && earlierOpen s g uid)
        && !(engineOf p.opcode.toNat != 0 && s.fetched.any fun kv =>
              decide (kv.1 < uid) && kv.2.issuer == .queue g && engineOf kv.2.opcode.toNat == engineOf p.opcode.toNat)
  | .link _ _ _ _ _ _ => true
  | i =>
    -- the port and the mailbox are served one at a time in arrival order (R458, R492)
    let other := fun (k : Issuer) => k != i && (match k with
      | .port _ => true
      | .mbox => true
      | _ => false)
    !(s.jobs.any fun j => decide (j.uid < uid) && (j.pkt.issuer == i || other j.pkt.issuer))
      && !(s.fetched.any fun kv => decide (kv.1 < uid) && (kv.2.issuer == i || other kv.2.issuer))

/-- Packets ready for the Tackle chip, in the order in which they became so (R292). -/
def tklOrder (s : State) : List Nat :=
  let ready := (s.fetched.filter fun kv => engineOf kv.2.opcode.toNat == 6 && isReady s kv.1 kv.2).map Prod.fst
  s.tkl.waiting.filter ready.contains ++ ready.filter fun u => !s.tkl.waiting.contains u

/-- Record the packets that have become ready for the Tackle chip (R292). -/
def noteReady (s : State) : State := { s with tkl := { s.tkl with waiting := tklOrder s } }

/-- May the packet with this number start? On the Tackle chip after those that became ready before it (R292). -/
def mayStart (s : State) (uid : Nat) (p : Packet) : Bool :=
  isReady s uid p && (engineOf p.opcode.toNat != 6 || (!tackleBusy s && (tklOrder s).headD uid == uid))

/-- The number of a packet that waits to start; a packet that was not read from a ring gets the next number. -/
def fetchedUid (s : State) (p : Packet) : Option Nat := (s.fetched.find? fun kv => kv.2 == p).map Prod.fst

/-- Management firmware runs, so that packets can be taken (R403, R463). -/
def alive (s : State) : Bool := decide (3 ≤ s.str.phasesDone) && !s.pwr.watchdog && s.pwr.refclk && !fenced s sMG

/-- Take up a packet of one opcode, on a module that runs: it stays waiting while the order of its queue holds it back; a bad header answers it at once; else it runs. -/
def takeUp (op : Nat) (run : Nat → Packet → State → State) (p : Packet) (s : State) : State :=
  let p := { p with opcode := BitVec.ofNat 16 op }
  let uid := (fetchedUid s p).getD s.nextUid
  let isNew := (fetchedUid s p).isNone
  if !alive s then s
  else if !mayStart s uid p then
    if isNew then
      let t : State := { s with fetched := s.fetched ++ [(uid, p)], nextUid := s.nextUid + 1 }
      if engineOf op = 6 then noteReady t else t
    else s
  else
    let s := if isNew then { s with nextUid := s.nextUid + 1 }
             else { s with fetched := s.fetched.filter fun kv => kv.1 != uid }
    match headerVerdict s p with
    | some r => answerAtOnce uid p r s
    | none => run uid p s

/-- A packet whose effect is whole in one step: rejected, or its effect applied and its result recorded. -/
def runNow (checks : State → Packet → Checks) (effect : Packet → State → State × Result) (uid : Nat) (p : Packet) (s : State) : State :=
  match verdict (checks s p) with
  | some r => answerAtOnce uid p r s
  | none =>
    let j := newJob s uid p .finished
    let (s', r) := effect p s
    addJob { j with res := some r } s'

/-- As runNow, for a command whose data follow the reply on the management port and the mailbox (R358, R457). -/
def runNowData (checks : State → Packet → Checks) (effect : Packet → State → State × Result × List Byte) (uid : Nat) (p : Packet) (s : State) : State :=
  match verdict (checks s p) with
  | some r => answerAtOnce uid p r s
  | none =>
    let j := newJob s uid p .finished
    let (s', r, data) := effect p s
    addJob { j with res := some r, data := data } s'

/-- Is the packet issued with the permissions of context 0 (R35, R358)? -/
def privileged (s : State) (p : Packet) : Bool := issuerCtx s p.issuer == 0

/-- Word 0, where the issuer is not context 0 (R354). -/
def ctx0Only (s : State) (p : Packet) : List Nat := badIf (!privileged s p) 0

/-- Opcodes of classes 0x0A to 0x0C address data by virtual address only from a queue (R358, R381). -/
def isQueueIssue (p : Packet) : Bool := (fromQueue p.issuer).isSome

end Sys2Proof.Machine
end

