-- ==== Sys2Proof/Machine/Abort.lean ====
section
/-! DEFINITION. Cutting work off: aborts of contexts, the Tackle owner's release and interruption, and ends of tracker entries (R37, R74, R226 to R230, R288, R293, R323). -/

namespace Sys2Proof.Machine

/-! ## Tracker entries -/

/-- An entry is current: its context's generation and its strand's are those it was stamped with (R229). -/
def entryCurrent (s : State) (e : Entry) : Bool :=
  (ctxOf s e.ctx).gen == e.gen && strandGen s e.strand == e.sgen

def freeEntry (tid : Nat) (s : State) : State := { s with trk := { s.trk with entries := kvErase tid s.trk.entries } }

/-- Count a late reply, and charge it to the context of the entry it matched (R229, R363). -/
def lateDrop (c : Option Nat) (s : State) : State :=
  let s := { s with trk := { s.trk with lateDrops := satWord s.trk.lateDrops 1 } }
  match c with
  | some c => setCtx c { ctxOf s c with lateDrops := (ctxOf s c).lateDrops + 1 } s
  | none => s

/-- Entries held under a generation that is no longer current (R230). -/
def staleCount (s : State) : Nat := (s.trk.entries.filter fun kv => !entryCurrent s kv.2).length

/-- Entries a context may still take: its quota, or for context 0 the whole pool, less the reserve of context 0 for others (R227). -/
def entriesLeft (s : State) (c : Nat) : Nat :=
  let free := 262144 - s.trk.retired.length - s.trk.entries.length
  if c = 0 then free
  else
    let mine := (s.trk.entries.filter fun kv => kv.2.ctx == c && entryCurrent s kv.2).length
    min (free - 16384) ((ctxOf s c).trkQuota - mine)

/-- Free entries by force; those that wait on a host read keep their PCIe tag (R416, R422, R423). -/
def forceFree (p : Entry → Bool) (s : State) : State × Nat :=
  let gone := s.trk.entries.filter fun kv => p kv.2
  let tags := gone.filterMap fun (kv : Nat × Entry) => if kv.2.req = .hostRead then some (kv.1, kv.2.epoch) else none
  ({ s with trk := { s.trk with entries := s.trk.entries.filter fun kv => !p kv.2, tagsHeld := s.trk.tagsHeld ++ tags } }, gone.length)

/-- Stop a transfer: its entry is freed, its engine let go, and the command stops with the result. -/
def failTransfer (uid n : Nat) (tid : Option Nat) (r : Result) (s : State) : State :=
  let s := match tid with
    | some t => freeEntry t s
    | none => s
  stopXfer uid r (dropEngine uid n s)

/-- The command an entry serves ends with a result: a transfer stops its command, a signal completes it. -/
def failEntry (tid : Nat) (e : Entry) (r : Result) (s : State) : State :=
  match (jobOf s e.uid).bind fun j => if j.res.isSome then none else some j.work with
  | some (.xfer x) =>
    match x.engines.find? fun g => g.tid == some tid with
    | some g => settleXfer e.uid (failTransfer e.uid g.no (some tid) r s)
    | none => freeEntry tid s
  | some (.remoteSignal _) => finish e.uid r (freeEntry tid s)
  | _ => freeEntry tid s

/-! ## Tackle -/

/-- Group CRCs, each with its BASE and length, combined in ascending BASE (R311). -/
def combineCrcs (l : List (Nat × Nat × DWord)) : DWord :=
  (sortBy (fun (x : Nat × Nat × DWord) => x.1) l).foldl (fun (acc : DWord) x => BitVec.ofNat 64 (crc64Zeros acc.toNat x.2.1) ^^^ x.2.2) 0

/-- Blocks skipped for any cause. -/
def skippedBlocks (r : TklRun) : Nat := r.skipNonfinite + r.skipOverflow + r.skipPoison

/-- The counters and flags of a step as far as it has come (R313, R379). -/
def stepCounts (r : TklRun) : Result :=
  let d := combineCrcs r.crcs
  { okCnt (sat32 (skippedBlocks r)) (sat32 r.frozenSkips) (lo32 d) (hi32 d) with
    detail := dIf (!r.anyUnfrozen && decide (0 < r.groupsDone)) (dfOp 40) ||| dIf (decide (0 < r.skipNonfinite)) (dfOp 41)
      ||| dIf (decide (0 < r.skipOverflow)) (dfOp 42) ||| dIf (decide (0 < r.wSaturated)) (dfOp 43) ||| dIf r.digestPoisoned (dfOp 44)
      ||| dIf (decide (0 < r.skipPoison)) dfPOISON ||| dIf (decide (0 < r.skipNonfinite + r.skipOverflow + r.wSaturated)) dfNUMERIC }

/-- A step that a cause other than a fault of its own stops. -/
def stepCut (st : Byte) (r : TklRun) : Result := { stepCounts r with status := st }

/-- Stop TKL.STEP inside its group: recorded in TK_STATUS, the packet ends with a result (R323). -/
def tklInterrupt (res : TklRun → Result) (s : State) : State :=
  match s.tkl.run with
  | none => s
  | some run =>
    let s := finish run.uid (res run) { s with tkl := { s.tkl with run := none, incomplete := true, incGroup := run.group } }
    setIrq irqTK_INCOMPLETE s

/-- Release the owner: every group entry has ENABLED cleared (R293). -/
def tklRelease (s : State) : State :=
  { s with tkl := { s.tkl with owner := none
                               groups := kvMap (fun _ (g : TklGroup) => { g with gflags := g.gflags &&& 0xFFFE }) s.tkl.groups } }

/-! ## Aborts (R37) -/

/-- Read every whole packet of a queue up to LAST_TAIL, whether or not the dispatcher had (R37, R62). -/
def drainRing (g : Nat) : Nat → State → State
  | 0, s => s
  | fuel + 1, s =>
    match queueOf s g with
    | none => s
    | some q =>
      match ringNext s g q with
      | .packet p n =>
        let (s, uid) := takeRing g n s
        drainRing g fuel { s with fetched := s.fetched ++ [(uid, p)] }
      | _ => s

def queuesOf (s : State) (c : Nat) : List Nat :=
  s.queues.filterMap fun (kv : Nat × Queue) => if kv.2.ctx = c then some kv.1 else none

/-- Work that outlives an abort of its context: the reset it waits for replies after RESTORE (R421). -/
def survivesAbort (j : Job) : Bool :=
  match j.work with
  | .fnd => true
  | _ => false

/-- Packets of the operations that the array has taken: the running one and the one chosen to follow it (R77, R124). -/
def takenUids (s : State) : List Nat := (s.arr.run.map ArrRun.uids).getD [] ++ (s.arr.next.map ArrRun.uids).getD []

/-- Change what the array has taken. -/
def mapTaken (f : ArrRun → ArrRun) (s : State) : State := { s with arr := { s.arr with run := s.arr.run.map f, next := s.arr.next.map f } }

/-- End every packet of the context that has not completed with an abort status, overriding any other outcome (R37, R57). -/
def abortJobs (c : Nat) (st : Byte) (s : State) : State :=
  let run := takenUids s
  { s with jobs := s.jobs.map fun (j : Job) =>
      if j.ctx = c ∧ isQueueIssue j.pkt = true ∧ !survivesAbort j ∧ !run.contains j.uid then
        { j with work := (match j.work with
            | .array recs => .array recs
            | .xfer x => .xfer x
            | _ => .finished), res := some (cutResult j (resOf st)) }
      else j }

/-- Packets of the context not started: they complete with the status, under the generation they would have run under. -/
def abortFetched (c : Nat) (st : Byte) (s : State) : State :=
  let mine := s.fetched.filter fun (kv : Nat × Packet) => isQueueIssue kv.2 && issuerCtx s kv.2.issuer == c
  let s := { s with fetched := s.fetched.filter fun (kv : Nat × Packet) => !(isQueueIssue kv.2 && issuerCtx s kv.2.issuer == c) }
  mine.foldl (fun s (kv : Nat × Packet) => answerAtOnce kv.1 kv.2 (resOf st) s) s

/-- The array's share of an abort: the running operation stops at its next drain; ready and batched ones go (R77). -/
def abortArray (c : Nat) (st : Byte) (s : State) : State :=
  let mine := (s.jobs.filter fun (j : Job) => j.ctx == c && isQueueIssue j.pkt).map Job.uid
  mapTaken (fun r => if r.uids.any mine.contains then { r with stop := some st } else r) { s with arr := { s.arr with
      ready := s.arr.ready.filter fun u => !mine.contains u
      batches := s.arr.batches.filter fun b => b.ctx != c } }

/-- The generation changes: windows of the context fall, and peers are told (R36, R342, R350). -/
def bumpGen (c : Nat) (s : State) : State :=
  let x := ctxOf s c
  if x.bumped then s
  else
    let s := revokePeers c x.gen s
    dropWindows c (setCtx c { x with gen := x.gen + 1, bumped := true } s)

/-- What ends with a life of a context, abort or teardown alike: plans, Tackle ownership, and a running step of its own or on its groups (R288, R293, R323). -/
def releaseUnits (c : Nat) (st : Byte) (s : State) : State :=
  let s := dropPlansOf st c s
  let s : State := match s.tkl.run with
    | some r => if s.tkl.owner == some c || (jobOf s r.uid).any fun (j : Job) => j.ctx == c then tklInterrupt (stepCut st) s else s
    | none => s
  if s.tkl.owner = some c then tklRelease s else s

/-- Abort a LIVE context (R37). -/
def abortCtx (c : Nat) (st : Byte) (s : State) : State :=
  if (ctxOf s c).state != .live then s
  else
    let s := (queuesOf s c).foldl (fun s g => drainRing g 65536 s) s
    let s := abortArray c st s
    let s := releaseUnits c st s
    let s := abortJobs c st s
    let s := abortFetched c st s
    let s := bumpGen c s
    setCtx c { ctxOf s c with state := .aborted } s

end Sys2Proof.Machine
end

