-- ==== Sys2Proof/Machine/Errors.lean ====
section
/-! DEFINITION. Fault collection: stoppers and what follows them, spares, memory reserves, power domains, service levels and pins, error classes and their reactions, and the beginning of captures and fence-and-drain resets (09, 14, 15, R17 to R20, R207 to R209, R224, R321, R326, R331, R339, R430). -/

namespace Sys2Proof.Machine

/-! ## Service levels and pins (R399 to R402) -/

def workingCores (s : State) : List Nat := (List.range 5).filter fun n => working s (sCC n)

/-- Working physical rows and columns, ascending (R138). -/
def workingRows (s : State) : List Nat := (List.range 200).filter fun n => working s (sROW n)
def workingCols (s : State) : List Nat := (List.range 200).filter fun n => working s (sCOL n)

/-- The logical shape: the largest of 192, 160 and 128 that both lists fill; 0 where none is (R138). -/
def shapeSize (rows cols : List Nat) : Nat :=
  let n := min rows.length cols.length
  if 192 ≤ n then 192 else if 160 ≤ n then 160 else if 128 ≤ n then 128 else 0

/-- The size of the map that the working lists give; none while a feeder or the drain does not work (R138, R396). -/
def mapSize (s : State) : Nat :=
  if [sFDA, sFDB, sDRN].all (working s) then shapeSize (workingRows s) (workingCols s) else 0

/-- The array has a logical shape: the working lists give one, and a map holds it or is about to be built (R138, R140, R399). -/
def hasShape (s : State) : Bool := decide (0 < mapSize s) && (s.arr.shapeReg.toNat % 4 != 3 || s.arr.rebuild)

def banksPresent (s : State) : Nat :=
  (s.mem.banks.filter fun (b : Option Nat) => match b with
    | some n => !stoppedBy s .operator (sSP n)
    | none => false).length

def tackleLanes (s : State) : List Nat := (List.range 68).filter fun n => working s (sTKL n)

def linkUp (s : State) (l : Nat) : Bool := !fenced s (sL l) && (linkOf s l).state == .up

/-- The levels held, judged as if no strand were under reset (R399, R417). -/
def levelsNow (s : State) : BitVec 5 :=
  let n := s.str.phasesDone
  let m := decide (3 ≤ n) && !fenced s sSEQ && s.pwr.refclk && !fenced s sBOOT && !fenced s sMG && !s.pwr.watchdog && !s.fw.bootFailed
  let h := m && decide (4 ≤ n) && !fenced s sPCI && !(workingCores s).isEmpty
  let f := h && decide (8 ≤ n) && s.lnk.deviceIdValid &&
    (List.range 4).any fun d => !fenced s (sMB d) && !fenced s (sDJ d) && !fenced s (sRT d) &&
      (List.range 8).any fun k => linkUp s (d * 8 + k)
  let c := h && decide (8 ≤ n) && hasShape s && decide (1 ≤ thStacks s) && !fenced s sDSP && decide (8 ≤ banksPresent s)
  let t := c && !fenced s sTK && !fenced s sTL && !fenced s sTX && !(tackleLanes s).isEmpty
    && decide (6 ≤ s.mem.tsChannels.length) && decide (tsWorking s = s.mem.tsChannels.length)
  BitVec.ofNat 5 (bnat m + bnat h * 2 + bnat f * 4 + bnat c * 8 + bnat t * 16)

def levelH (s : State) : Bool := s.str.held.getLsbD 1
def levelF (s : State) : Bool := s.str.held.getLsbD 2
def levelC (s : State) : Bool := s.str.held.getLsbD 3
def levelT (s : State) : Bool := s.str.held.getLsbD 4

/-- FAULT_N and OK_N from the end of start-up (R402, R403). -/
def drivePins (s : State) : State :=
  if s.pwr.phase != .running || s.pwr.watchdog then s
  else
    let bad := s.str.deviceErr || decide (s.str.faultLevels &&& ~~~ s.str.held ≠ 0)
    { s with pwr := { s.pwr with faultNLow := bad, okNLow := !bad } }

/-- The management core stops or its watchdog expires: FAULT_N low and OK_N released until power is removed (R403). -/
def stopManagement (s : State) : State :=
  { s with pwr := { s.pwr with watchdog := true, faultNLow := true, okNLow := false } }

/-- Re-evaluate the levels: LOST collects what is lost after start-up, and the pins follow (R400 to R402). -/
def evalLevels (s : State) : State :=
  let h := levelsNow s
  let lost := if s.pwr.phase = .running then s.str.lost ||| (s.str.held &&& ~~~ h) else s.str.lost
  drivePins { s with str := { s.str with held := h, lost := lost } }

/-- The SERVICE record for a change of the levels not yet recorded, and the interrupt while H is held (R390, R393, R400). -/
def recordService (s : State) : State :=
  if s.str.held = s.str.levelsLogged then s
  else
    let p1 := s.str.held.toNat + s.str.levelsLogged.toNat * 2 ^ 8 + 2 ^ 16 * bnat s.str.deviceErr
    let sev := if s.str.deviceErr then 3 else if s.str.levelsLogged &&& ~~~ s.str.held ≠ 0 then 2 else 0
    let s := logRec (mkRec 0x0103 sev 0 (BitVec.ofNat 32 p1) 0) s
    let s := { s with str := { s.str with levelsLogged := s.str.held } }
    if levelH s then setIrq irqSERVICE s else s

/-! ## Power domains (R19, R20) -/

/-- Number and strands of each domain (R19). The table does not say which of the two splice-unit domains holds IZ/SPL/GEN: the model puts it with lanes 0 to 31 (log 119). -/
def domains : List (Nat × List Strand) :=
  ((List.range 10).map fun i => (i, (List.range 20).map fun k => sROW (i * 20 + k)))
    ++ [(10, [sFDA, sFDB, sDRN, sSPILL])]
    ++ ((List.range 25).map fun i => (11 + i, [sSP (2 * i), sSP (2 * i + 1)]))
    ++ ((List.range 4).map fun i => (36 + i, [sVEC i]))
    ++ [(40, [sGSX]), (41, (List.range 17).map sXE), (42, (List.range 17).map fun k => sXE (17 + k)), (43, [sTRK, sDSP])]
    ++ ((List.range 5).map fun i => (44 + i, [sCC i]))
    ++ [(49, [sMG, sBOOT]), (50, sGEN :: (List.range 32).map sLANEPAIR), (51, (List.range 32).map fun k => sLANEPAIR (32 + k))]
    ++ ((List.range 8).map fun i => (52 + i, [sTN (2 * i), sTN (2 * i + 1)]))
    ++ [(60, [sPCI]), (61, [sTL])]
    ++ ((List.range 4).map fun i => (62 + i, [sDJ i]))
    ++ ((List.range 16).map fun i => (66 + i, [sH i]))
    ++ ((List.range 32).map fun i => (82 + i, [sL i]))
    ++ ((List.range 4).map fun i => (114 + i, [sRT i, sDJ i, sCTL i]))
    ++ ((List.range 4).map fun i => (118 + i, (List.range 17).map fun k => sTKL (i * 17 + k)))
    ++ ((List.range 6).map fun i => (122 + i, [sTS (2 * i), sTS (2 * i + 1)]))
    ++ [(128, [sTX, sTCTL])]
    ++ ((List.range 16).map fun i => (129 + i, [sH i]))
    ++ [(145, (List.range 16).map sTN), (146, (List.range 12).map sTS)]

/-- A stopper of kind OPERATOR on the strand, above it or inside it (R20). -/
def operatorOn (s : State) (p : Strand) : Bool :=
  stoppedBy s .operator p || s.str.stoppers.any fun kv => kv.2.kind == .operator && below p (strandAt kv.1)

/-- Switch off every domain whose strands are all fenced, none of them by an operator on it, above it or inside it (R20). -/
def switchDomains (s : State) : State :=
  let off := domains.foldl (fun acc (d : Nat × List Strand) =>
    if acc.contains d.1 then acc
    else if d.2.all fun p => fenced s p && !operatorOn s p then insNat d.1 acc else acc) s.pwr.domainsOff
  { s with pwr := { s.pwr with domainsOff := off } }

/-! ## What service level H needs (R29, R394) -/

def neededByH (s : State) (p : Strand) : Bool :=
  [sMG, sPCI, sBOOT, sSEQ].any (below p) || (!(workingCores s).isEmpty && (workingCores s).all fun n => below p (sCC n))

/-! ## Spares (R208, R209, R224, R321, R520) -/

/-- Kind of a unit with STANDBY spares: its siblings and position. -/
def spareKind : Strand → Option (List Strand)
  | [0, 4, _] => some ((List.range 34).map sXE)
  | [0, 7, _] => some ((List.range 5).map sCC)
  | [0, 2, c, 0, _] => some ((List.range 132).map (sGROUP c))
  | [5, 0, _] => some ((List.range 68).map sTKL)
  | _ => none

/-- A unit leaves service: the lowest-numbered STANDBY unit of its kind takes its place; a spare that leaves is simply gone. -/
def spareOut (p : Strand) (s : State) : State :=
  match spareKind p with
  | none => s
  | some sibs =>
    if s.str.standby.contains (strandId p) then
      { s with str := { s.str with standby := s.str.standby.filter (· != strandId p) } }
    else
      match sibs.find? fun q => s.str.standby.contains (strandId q) && !fenced s q with
      | some q => { s with str := { s.str with standby := s.str.standby.filter (· != strandId q) } }
      | none => s

/-- A unit returns to service: no other unit changes its role, so it is STANDBY where its kind is already at its active count. -/
def spareBack (p : Strand) (s : State) : State :=
  match spareKind p with
  | none => s
  | some sibs =>
    let active := (sibs.filter fun q => q != p && !fenced s q && !s.str.standby.contains (strandId q)).length
    let full := match p with
      | [0, 4, _] => 32
      | [0, 7, _] => 4
      | [0, 2, _, 0, _] => 128
      | _ => 64
    if full ≤ active then { s with str := { s.str with standby := insNat (strandId p) s.str.standby } } else s

/-- Scratchpad banks on STANDBY: working and mapped by no logical bank. -/
def spareBanks (s : State) : List Nat :=
  (List.range 50).filter fun b => working s (sSP b) && !s.mem.banks.contains (some b)

/-- Does a grant hold the logical bank? -/
def grantHolds (x : Ctx) (l : Nat) : Bool := decide (x.firstBank ≤ l) && decide (l < x.firstBank + x.nBanks)

/-- Accesses in flight to a failed bank end their commands: the running array operation that streams from a grant with the bank in it, and the transfers on their way to the bank (R208, log 129). -/
def cutBank (l : Nat) (s : State) : State :=
  let onBank := fun (x : Ctx) (o n : Nat) => (grantPieces x o n).any fun p => decide (paScratch + 2 ^ 22 * l ≤ p.1) && decide (p.1 < paScratch + 2 ^ 22 * (l + 1))
  let s := mapTaken (fun r => if r.grant && r.stop.isNone && r.uids.any (fun u => (jobOf s u).any fun j => grantHolds j.settings l)
    then { r with stop := some stFLT_FENCED } else r) s
  s.jobs.foldl (fun s (j : Job) => match xferOf j with
    | some x => match x.dst with
      | .grant o => x.engines.foldl (fun s (e : XferEngine) => match e.tid.bind fun t => (kvGet t s.trk.entries).map fun en => (t, en) with
        | some (t, en) => if onBank j.settings (o + en.row * x.dstStride + en.off) en.len then failEntry t en (resOf stFLT_FENCED) s else s
        | none => s) s
      | _ => s
    | none => s) s

/-- A fault on a physical bank: its logical bank moves to the lowest spare, every word of it poisoned, or becomes MISSING (R208). -/
def remapBank (b : Nat) (s : State) : State :=
  match (List.range s.mem.banks.length).find? fun l => s.mem.banks.getD l none == some b with
  | none => s
  | some l =>
    let s := cutBank l s
    let s' := poisonKeys [(paScratch + 2 ^ 22 * l, paScratch + 2 ^ 22 * (l + 1))] s
    match spareBanks s with
    | n :: _ => { s' with mem := { s'.mem with banks := setAt l (fun _ => some n) s'.mem.banks } }
    | [] => { s with mem := { s.mem with banks := setAt l (fun _ => none) s.mem.banks } }

/-! ## Links out of service (R331, R339) -/

/-- A link begins a retrain: credits freeze and an audit will end it; failed attempts of a training under way still count (R331, R335). -/
def retrain (l : Nat) (s : State) : State :=
  updLink l (fun k =>
    if k.state = .up ∨ k.state = .training then
      { k with state := .training, retrains := if k.retrains = 255 then 255 else k.retrains + 1, auditSent := false, audited := false
               nakRun := 0, attempts := if k.state = .up then 0 else k.attempts }
    else k) s

/-- A fenced link: its replay buffer, the message under way and reassembly are discarded, and its queued messages move to another port or are unroutable (R331, R337 to R339). -/
def closeLink (l : Nat) (s : State) : State :=
  let k := linkOf s l
  let s := updLink l (fun k => { k with state := .fenced, replay := [], audited := false
                                        vcs := k.vcs.map fun (v : Vc) => { v with txq := [], tx := none, rx := none } }) s
  (List.range k.vcs.length).foldl (fun s v =>
    let c := k.vcs.getD v Vc.initial
    let s := match c.tx with
      | some t => freeOrigin v t.1 s
      | none => s
    c.txq.foldl (fun s (o : Outbound) =>
      match if o.localOnly then Hop.nowhere else route s o.dest with
      | .link n => enqueue n v o s
      | .here => { s with lnk := { s.lnk with inbox := s.lnk.inbox ++ [{ link := o.origin.getD 32, vc := v, localOnly := false, bytes := o.bytes }] } }
      | .nowhere => dropUnroutable (l / 8) v o.bytes (freeOrigin v o s)) s) s

/-! ## Stopping what runs on a unit -/

/-- Does an array operation use the strand (R77)? A whipping lane or a STANDBY line does not stop it (R140). -/
def arrayUses (s : State) (p : Strand) (r : ArrRun) : Bool :=
  [sARR, sFDA, sFDB, sDRN].any (fun q => below p q) || (below p sSPILL && r.area) || (match p with
    | [0, 0, 0, n] => s.arr.rowMap.contains n
    | [0, 0, 1, n] => s.arr.colMap.contains n
    | _ => below sARR p)

def stopArray (st : Byte) (s : State) : State := mapTaken (fun r => if r.stop.isSome then r else { r with stop := some st }) s

/-- End the transfer commands that an engine serves; their entries are freed (R224). -/
def stopEngine (n : Nat) (st : Byte) (s : State) : State :=
  s.jobs.foldl (fun s (j : Job) =>
    match j.work with
    | .xfer x =>
      if x.engines.any fun e => e.no == n then
        let tids := x.engines.filterMap fun e => if e.no = n then e.tid else none
        finishCut j.uid (resOf st) (tids.foldl (fun s t => freeEntry t s) s)
      else s
    | _ => s) s

/-! ## Captures (R430) -/

/-- Start a capture, or count the trigger in MISSED while one runs or HELD is set. -/
def startCapture (c : Capture) (s : State) : State :=
  if s.capt.cur.isSome || s.capt.held then
    { s with capt := { s.capt with missed := satAdd 255 s.capt.missed 1 } }
  else
    let s := { s with capt := { s.capt with cur := some { c with trigMs := s.clk.uptimeMs }, no := s.capt.no + 1 } }
    if s.capt.ctl.getLsbD 1 then { s with pwr := { s.pwr with trigPulses := s.pwr.trigPulses + 1 } } else s

def plainCapture (cause target : Nat) : Capture :=
  { cause := cause, named := 0xFFFF, spans := false, oldest := 0xFFFF, target := target, trigMs := 0, inSnarl := [] }

/-! ## Fence-and-drain: requests (R417, R419) -/

/-- Begin a fence-and-drain: FENCE acts at once, RESET_BEGIN is written, and the capture starts, unless that of a snarl serves it (R417, R428). -/
def fndBegin (r : FndReq) (s : State) : State :=
  let sev := if r.cause = 2 then 3 else 0
  let s := logRec (mkRec 0x0203 sev (strandId r.target) (BitVec.ofNat 32 (bnat r.escalated + r.cause * 2)) 0) s
  let s := if r.captured then s else startCapture (plainCapture 2 (strandId r.target)) s
  { s with rst := { s.rst with
      phase := 2, target := fndCode r.target, escalated := r.escalated
      run := some { target := r.target, cause := r.cause, beginMs := s.clk.uptimeMs, phaseMs := s.clk.uptimeMs, hostLink := r.cause == 3
                    uids := r.uid.toList, forced := 0, aborted := 0
                    captureNo := s.capt.no.toNat, restart := r.escalated && r.target == [], past := none } } }

/-- A fence-and-drain is asked for: it begins, joins or widens the one that runs, or waits. A widening begins at FENCE for the strands it adds; the strand already under reset keeps the phase it has reached (R419). -/
def fndRequest (r : FndReq) (s : State) : State :=
  match s.rst.run with
  | none => fndBegin r s
  | some run =>
    if below run.target r.target then
      let host := run.hostLink || r.cause == 3
      let again := run.restart || (r.escalated && r.target == [])
      { s with rst := { s.rst with run := some { run with uids := run.uids ++ r.uid.toList, hostLink := host, restart := again } } }
    else if r.target = [] then
      let again := r.escalated
      let past := some (run.target, s.rst.phase)
      let s := fndBegin { r with escalated := true } s
      { s with rst := { s.rst with run := s.rst.run.map fun x =>
          { x with uids := run.uids ++ x.uids, beginMs := run.beginMs, hostLink := run.hostLink || x.hostLink, forced := run.forced, aborted := run.aborted
                   restart := again, past := past } } }
    else { s with rst := { s.rst with waiting := s.rst.waiting ++ [r] } }

/-! ## Setting and releasing stoppers (R28, R397, R398) -/

/-- Put a stopper's record into the state. On a strand that is already FENCED only a kind that is shown above the present one changes it, and never OPERATOR or DERIVED (R28, R397). Answers whether it was put. -/
def putStopper (p : Strand) (k : StopKind) (inj : Bool) (s : State) : State × Bool :=
  let put := { s with str := { s.str with stoppers := kvSet (strandId p) { kind := k, injected := inj } s.str.stoppers } }
  if !fenced s p then (put, true)
  else
    match k, stopperOf s p with
    | .operator, _ => (s, false)
    | .derived, _ => (s, false)
    | .fault, some ⟨.fault, _⟩ => (s, false)
    | _, some ⟨.removed, _⟩ => (s, false)
    | _, _ => (put, true)

/-- Count a fence event (R391). -/
def countFenceEvent (p : Strand) (s : State) : State :=
  let x := sourcesOf s p
  { s with str := { s.str with sources := kvSet (strandId p) { x with fenceEvents := satAdd 255 x.fenceEvents 1 } s.str.sources } }

/-- What a unit's loss does at once to the work on it. -/
def unitLost (p : Strand) (s : State) : State :=
  let s := mapTaken (fun r => if r.stop.isNone && arrayUses s p r then { r with stop := some stFLT_FENCED } else r) s
  let s := if below sARR p ∨ below p sARR then { s with arr := { s.arr with rebuild := true } } else s
  let s := spareOut p s
  let s := (List.range 34).foldl (fun s n => if below p (sXE n) then stopEngine n stFLT_FENCED s else s) s
  let s := (List.range 32).foldl (fun s l => if below p (sL l) then closeLink l s else s) s
  let s := if below p sSPILL || below p sSPL || below p sGEN || decide ((splLanes s).length < 2) then abandonAll 4 s else s
  if [sTK, sTL, sTX, sTCTL].any (below p) || (match p with
      | [5, 1, _] => true
      | [5, 1] => true
      | _ => false) then tklInterrupt (stepCut stFLT_FENCED) s else s

/-- The wider strand that falls with a unit: a cluster without spares, a link under four lanes, TK without lanes (R209, R321, R324). -/
def fallsWith (s : State) (p : Strand) : Option Strand :=
  match p with
  | [0, 2, c, 0, _] => if ((List.range 132).filter fun g => !fenced s (sGROUP c g)).length < 128 then some (sVEC c) else none
  | [5, 0] => some sTK
  | [5, 0, _] => if (List.range 68).all (fun n => fenced s (sTKL n)) then some sTK else none
  | [m, x, 0, _] =>
    if 1 ≤ m ∧ m ≤ 4 ∧ 0x10 ≤ x then
      (if (linkLanes s ((m - 1) * 8 + (x - 0x10))).length < 4 then some (sL ((m - 1) * 8 + (x - 0x10))) else none)
    else none
  | _ => none

/-- DERIVED stoppers upward: a parent all of whose children are fenced (R28). -/
def deriveUp : Nat → Strand → State → State × List (Nat × StopKind)
  | 0, _, s => (s, [])
  | fuel + 1, p, s =>
    match p with
    | [] => (s, [])
    | _ =>
      let q := p.dropLast
      if (kids q).all (fun i => fenced s (q ++ [i])) && (stopperOf s q).isNone then
        let s := (putStopper q .derived false s).1
        let r := deriveUp fuel q (unitLost q s)
        (r.1, (strandId q, .derived) :: r.2)
      else (s, [])

/-- The bridge die whose joint a strand is, or is a module of. -/
def jointDie : Strand → Option Nat
  | m :: 0x20 :: _ => some m
  | _ => none

/-- Working modules of the joint of the bridge die at depth-1 index m (R14). -/
def jointModules (s : State) (m : Nat) : Nat := ((List.range 24).filter fun n => !fenced s (sDJM (m - 1) n)).length

/-- Set a stopper on a strand with everything that follows at once: the units lost with it, spares, and derived stoppers. A strand already FENCED loses nothing more; its kind, fence events and bank follow R397. With fewer than 12 working joint modules the bridge die falls by fence-and-drain (R14), its stopper of the kind of the one that brought it down (log 120). Answers the stoppers set. -/
def setStopper : Nat → Strand → StopKind → Bool → State → State × List (Nat × StopKind)
  | 0, _, _, _, s => (s, [])
  | fuel + 1, p, k, inj, s =>
    let was := fenced s p
    let (s1, new) := putStopper p k inj s
    if !new then (s, [])
    else
      let s := if k = .fault then countFenceEvent p s1 else s1
      let s := match p, k with
        | [0, 3, b], .fault => remapBank b s
        | _, _ => s
      if was then (s, [(strandId p, k)])
      else
        let s := unitLost p s
        let s := match p with
          | [m, x, 0, _] => if 1 ≤ m ∧ m ≤ 4 then retrain ((m - 1) * 8 + (x - 0x10)) s else s
          | _ => s
        let more := match fallsWith s p with
          | some q => setStopper fuel q k inj s
          | none => (s, [])
        let up := deriveUp 7 p more.1
        let joint := match jointDie p with
          | some m =>
            if jointModules up.1 m < 12 then
              let r := setStopper fuel [m] k inj up.1
              if r.2.isEmpty then r
              else (fndRequest { target := [m], cause := 5, escalated := false, uid := none } r.1, r.2)
            else (up.1, [])
          | none => (up.1, [])
        (joint.1, (strandId p, k) :: more.2 ++ up.2 ++ joint.2)

/-- The depth within which a stopper's consequences end. -/
def stopFuel : Nat := 8

/-- After any change of a stopper: domains and levels (R20, R400). -/
def levelsAfter (s : State) : State := evalLevels (switchDomains s)

/-- STOPPER_SET (R393): kind, injected, source of the cause, fence count. -/
def recordStop (sev inj src : Nat) (st : Nat × StopKind) (s : State) : State :=
  let code := match st.2 with
    | .operator => 1
    | .derived => 2
    | .fault => 4
    | .removed => 5
  let s := if st.2 = .fault then countFence st.1 s else s
  let sev := if st.2 = .derived ∨ st.2 = .removed then 0 else sev
  logRec (mkRec 0x0101 sev st.1 (BitVec.ofNat 32 (code + inj * 8 + src * 16)) (min 65535 (kvGetD st.1 0 s.log.fenceCounts))) s

/-- Release DERIVED stoppers upward once a child is no longer fenced (R28). -/
def releaseUp : Nat → Strand → State → State
  | 0, _, s => s
  | fuel + 1, p, s =>
    match p with
    | [] => s
    | _ =>
      let q := p.dropLast
      match stopperOf s q with
      | some ⟨.derived, _⟩ =>
        if (kids q).all (fun i => fenced s (q ++ [i])) then s
        else
          let s := { s with str := { s.str with stoppers := kvErase (strandId q) s.str.stoppers } }
          releaseUp fuel q (logRec (mkRec 0x0102 0 (strandId q) 0 0) s)
      | _ => s

/-- A unit that works again: its spare role, the array map, and a link that starts over DOWN until it trains. -/
def unitBack (p : Strand) (s : State) : State :=
  let s := spareBack p s
  let s := if below sARR p ∨ below p sARR then { s with arr := { s.arr with rebuild := true } } else s
  (List.range 32).foldl (fun s l =>
    if below p (sL l) && !fenced s (sL l) && (linkOf s l).state == .fenced then
      updLink l (fun k => { k with state := .down, attempts := 0, auditSent := false, audited := false, trained := false }) s
    else s) s

/-! ## Memory blocks and units (R245 to R250) -/

/-- Lowest free reserve block of a unit that works. -/
def freeReserveBlock (s : State) (u : Strand) : Option Nat :=
  if fenced s u then none
  else
    let used := takenReserve s u
    ((List.range (reserveBlocks u)).map (· + usableBlocks u)).find? fun b => !used.contains b

/-- The units that may lend a reserve block to another (R245): those of the stack, every tier N channel, none in tier S. -/
def lenders : Strand → List Strand
  | [0, 0xA, _] => (List.range 16).map sTN
  | [5, 1, _] => []
  | [m, x, _] => (List.range 32).map fun p => [m, x, p]
  | _ => []

/-- The reserve block a failed block takes: of its own unit, else of the lender with most free ones, the lower number on a tie (R245). -/
def pickReserve (s : State) (u : Strand) : Option (Strand × Nat) :=
  match freeReserveBlock s u with
  | some b => some (u, b)
  | none =>
    let ls := (lenders u).filter fun q => !fenced s q
    let best := ls.foldl (fun (acc : Option Strand) q =>
      match acc with
      | none => if 0 < freeReserve s q then some q else none
      | some a => if freeReserve s a < freeReserve s q then some q else acc) none
    match best with
    | some q => (freeReserveBlock s q).map fun b => (q, b)
    | none => none

/-- The last index of a unit's path: its number. -/
def unitNo (u : Strand) : Nat := u.getLastD 0

/-- The block that MEM_REMAP's last word names: of a stack; all ones for a channel (R250). -/
def stackBlock (u : Strand) (b : Nat) : Word :=
  match u with
  | [m, _, _] => if m = 0 ∨ m = 5 then BitVec.allOnes 32 else BitVec.ofNat 32 b
  | _ => BitVec.allOnes 32

/-- MEM_REMAP (R250). -/
def recordRemap (u : Strand) (b : Nat) (r : Strand) (rb : Nat) (s : State) : State :=
  logRec { mkRec 0x0300 1 (strandId u) (BitVec.ofNat 32 b) (unitNo r) with more := [BitVec.ofNat 32 rb, stackBlock u b] } s

/-- Blocks of a unit that have been remapped this power cycle (R248). -/
def remapCount (s : State) (u : Strand) : Nat := (s.mem.struck.filter fun x => x.1 == strandId u && x.2.2).length

/-- Does the remap say where its block lies now? -/
def current (s : State) (r : Remap) : Bool := placeOf s (strandAt r.unit) r.block == (strandAt r.rUnit, r.rBlock)

/-- The blocks that move when a unit fails: its usable ones in ascending order, then what its reserve holds, blocks of other units first, the newest remap first. The spec gives the rotation over the units, not this order (log 122). -/
def movedBlocks (s : State) (u : Strand) : List (Nat × Nat) :=
  let inside := s.mem.remaps.filter fun r => r.rUnit == strandId u && current s r
  let key := fun (r : Remap) => (r.unit, r.block)
  (List.range (usableBlocks u)).map (fun b => (strandId u, b))
    ++ (inside.filter fun r => r.unit != strandId u).map key ++ (inside.filter fun r => r.unit == strandId u).map key

/-- Assign blocks to free reserve blocks of units in rotation; a unit without one is skipped. The newest remap comes first. -/
def rotate (moved : List (Nat × Nat)) (units : List Strand) (s : State) : List Remap :=
  (moved.foldl (fun (acc : List Remap × List Strand) m =>
    let st := { s with mem := { s.mem with remaps := acc.1 } }
    match acc.2.filter fun q => 0 < freeReserve st q with
    | [] => acc
    | q :: rest =>
      match freeReserveBlock st q with
      | some rb => ({ unit := m.1, block := m.2, rUnit := strandId q, rBlock := rb } :: acc.1, rest ++ [q])
      | none => (acc.1, rest ++ [q])) (s.mem.remaps, units)).1

/-- A remap unit fails (R248): its blocks go to the other units' reserves in rotation when there is room, else the stack falls or the channel is unbacked. Answers the stoppers set. -/
def failUnit (u : Strand) (k : StopKind) (inj : Bool) (s : State) : State × List (Nat × StopKind) :=
  let r := setStopper stopFuel u k inj s
  let s := r.1
  if k = .operator || r.2.isEmpty || s.mem.redirected.contains (strandId u) then r
  else
    let others := (lenders u).filter fun q => q != u && !fenced s q
    let free := (others.map (freeReserve s)).sum
    let moved := movedBlocks s u
    let failedPcs := (lenders u).filter fun q => s.mem.redirected.contains (strandId q)
    let isH := u.head? != some 0 && u.head? != some 5
    if u.head? = some 5 then r
    else if moved.length ≤ free ∧ !(isH && decide (3 ≤ failedPcs.length)) then
      let s := poisonKeys (moved.flatMap fun m => blockKeys (strandAt m.1) m.2) s
      let remaps := rotate moved others s
      let placed := (remaps.take (remaps.length - s.mem.remaps.length)).reverse
      let s := { s with mem := { s.mem with remaps := remaps, redirected := insNat (strandId u) s.mem.redirected
                                            busyUnits := insNat (strandId u) s.mem.busyUnits } }
      (placed.foldl (fun s m => recordRemap (strandAt m.unit) m.block (strandAt m.rUnit) m.rBlock s) s, r.2)
    else if isH then
      let r2 := setStopper stopFuel u.dropLast k inj s
      (r2.1, r.2 ++ r2.2)
    else r

/-- Is the strand a remap unit? -/
def isRemapUnit : Strand → Bool
  | [0, 0xA, _] => true
  | [5, 1, _] => true
  | [m, x, _] => decide (1 ≤ m) && decide (m ≤ 4) && decide (x < 4)
  | _ => false

/-- Fence a strand with everything that follows, as its kind falls (R248, R466, R521). -/
def fenceUnit (k : StopKind) (p : Strand) (s : State) : State × List (Nat × StopKind) :=
  if isRemapUnit p then failUnit p k false s else setStopper stopFuel p k false s

/-- The block whose bytes a physical block of a unit holds now: itself, or one redirected to it; none for a block out of use or a free reserve block (R245, R246). -/
def holderOf (s : State) (u : Strand) (b : Nat) : Option (Strand × Nat) :=
  if b < usableBlocks u then (if placeOf s u b = (u, b) then some (u, b) else none)
  else (s.mem.remaps.find? fun r => r.rUnit == strandId u && r.rBlock == b && current s r).map fun r => (strandAt r.unit, r.block)

/-- A remap that keeps the contents: each word is copied, and one found uncorrectable is written poisoned (R247). -/
def copyBlock (u : Strand) (b : Nat) (s : State) : State :=
  let ks := blockKeys u b
  let inside := fun (d : Nat × Bool) => ks.any fun k => decide (k.1 ≤ d.1) && decide (d.1 < k.2)
  let bad := s.mem.damaged.filter fun d => inside d && d.2
  let s := poisonKeys (bad.map fun d => (d.1, d.1 + granule (if u.head? = some 5 then paS else 0))) s
  { s with mem := { s.mem with damaged := s.mem.damaged.filter fun d => !inside d } }

/-- A physical block leaves use; whether what it held was remapped is noted with it. -/
def strikeBlock (u : Strand) (b : Nat) (moved : Bool) (s : State) : State :=
  { s with mem := { s.mem with struck := (strandId u, b, moved) :: s.mem.struck } }

/-- Fence a physical block: what it holds is redirected to a reserve block, lost unless it is copied, or becomes dead when no reserve is left; a free reserve block is free no longer (R244 to R249). The 256th remap of a unit's blocks fails the unit (R248). Answers the stoppers set with it. -/
def fenceBlock (u0 : Strand) (b0 : Nat) (keep inj : Bool) (s : State) : State × List (Nat × StopKind) :=
  if s.mem.struck.any fun x => x.1 == strandId u0 && x.2.1 == b0 then (s, [])
  else
    match holderOf s u0 b0 with
    | none => (strikeBlock u0 b0 false s, [])
    | some (u, b) =>
      match pickReserve s u0 with
      | none =>
        let s := strikeBlock u0 b0 false s
        ({ s with mem := { s.mem with dead := if s.mem.dead.contains (strandId u, b) then s.mem.dead else (strandId u, b) :: s.mem.dead } }, [])
      | some (r, rb) =>
        let s := strikeBlock u0 b0 true (if keep then copyBlock u b s else poisonKeys (blockKeys u b) s)
        let s := { s with mem := { s.mem with
          remaps := { unit := strandId u, block := b, rUnit := strandId r, rBlock := rb } :: s.mem.remaps
          busyBlocks := (strandId u, b) :: s.mem.busyBlocks } }
        let s := recordRemap u b r rb s
        if 256 ≤ remapCount s u0 ∧ u0.head? ≠ some 5 ∧ !fenced s u0 then failUnit u0 (if inj then .operator else .fault) inj s else (s, [])

/-- The controller of a remap unit: its table of 1,024 most recently erring blocks is per controller, a stack or a channel (R247). -/
def controllerOf (u : Nat) : Strand :=
  let p := strandAt u
  match p with
  | [0, _, _] => p
  | [5, _, _] => p
  | _ => p.dropLast

/-- A corrected error of a physical block: counted in the controller's table; the sixteenth remaps it with its contents (R247). -/
def correctedBlock (u : Strand) (b : Nat) (inj : Bool) (s : State) : State × List (Nat × StopKind) :=
  let id := strandId u
  let n := ((s.mem.corrected.find? fun x => x.1 == id && x.2.1 == b).map fun x => x.2.2).getD 0 + 1
  let rest := s.mem.corrected.filter fun x => !(x.1 == id && x.2.1 == b)
  let mine := rest.filter fun x => controllerOf x.1 == controllerOf id
  let evicted := if 1024 ≤ mine.length then mine.getLast? else none
  let rest := rest.filter fun x => some x != evicted
  let s := { s with mem := { s.mem with corrected := (id, b, n) :: rest } }
  if n = 16 then fenceBlock u b true inj s else (s, [])

/-! ## Events (R386 to R396, R408) -/

/-- Set a source's sticky bit and count the event; a newly set bit waits for the next scan (R387, R390). -/
def noteEvent (p : Strand) (src cls : Nat) (inj rail dev : Bool) (stops : List (Nat × StopKind)) (s : State) : State :=
  let x := sourcesOf s p
  let n := kvGetD src 0 x.counts
  let new := !x.sticky.getLsbD src
  let x := { x with sticky := x.sticky ||| BitVec.ofNat 16 (2 ^ src), counts := kvSet src (satAdd (2 ^ 32 - 1) n 1) x.counts }
  let s := { s with str := { s.str with sources := kvSet (strandId p) x s.str.sources } }
  if new ∨ !stops.isEmpty then
    { s with str := { s.str with newEvents := s.str.newEvents ++
        [{ strand := strandId p, src := src, cls := cls, injected := inj, rail := rail, fresh := new, device := dev, stops := stops }] } }
  else s

/-- Retire a tracker entry whose storage failed; the request it served ends as at its timeout (R396). -/
def retireEntry (tid : Nat) (s : State) : State :=
  match kvGet tid s.trk.entries with
  | none => { s with trk := { s.trk with retired := insNat tid s.trk.retired } }
  | some e =>
    failEntry tid e (resOf stFLT_TIMEOUT) { s with trk := { s.trk with retired := insNat tid s.trk.retired } }

/-- The context an object is stamped with or assigned to, and the state with the object retired, reset or cleared (R394, R396). -/
def objectHit (obj : ErrObj) (s : State) : State × Option Nat :=
  match obj with
  | .tracker tid => (retireEntry tid s, (kvGet tid s.trk.entries).map Entry.ctx)
  | .queue g =>
    let c := (queueOf s g).map Queue.ctx
    let s := updQueue g (fun q => { q with stopping := true, qflags := q.qflags ||| 2 }) s
    ((writeFlags g s).1, c)
  | .hitch h =>
    let c := (hitchOf s h).owner
    (hitchPut h 0 s, c)
  | .window w =>
    match kvGet w s.wins with
    | some x => ({ s with wins := kvSet w { x with valid := false } s.wins }, some x.owner)
    | none => (s, none)
  | .slot t =>
    match kvGet t s.ttls with
    | some x => ({ s with ttls := kvSet t { x with written := 0, zeros := 0, saturated := 0, nonfinite := 0, maxExp := -32768 } s.ttls }, x.owner)
    | none => (s, none)
  | _ => (s, none)

/-- Abort by a CONTAINED event or a snarl; for context 0 the device reset of R35. -/
def abortOrReset (c : Nat) (st : Byte) (s : State) : State :=
  if c = 0 then fndRequest { target := [], cause := 1, escalated := false, uid := none } s
  else abortCtx c st s

/-- A strand that H needs and that a UNIT fault, or IZ/PCI's own DEVICE fault, takes out with the DEVICE reaction: the core, the endpoint, the boot block or the management core (R17, R384, R396; log 121). -/
def takenOut (p : Strand) : Bool :=
  (match p with
   | [0, 7, _] => true
   | _ => false) || [sMG, sPCI, sBOOT].contains p

/-- The DEVICE reaction (R395): every context but 0 aborted; the failed units that H needs, and what H does not need, fenced; DEVICE_ERR set. Answers the stoppers set. -/
def deviceReaction (failed : List Strand) (inj : Bool) (s : State) : State × List (Nat × StopKind) :=
  let live := s.ctxs.filterMap fun (kv : Nat × Ctx) => if kv.1 ≠ 0 ∧ kv.2.state = .live then some kv.1 else none
  let s := live.foldl (fun s c => abortCtx c stABT_RESET s) s
  let k := if inj then StopKind.operator else StopKind.fault
  let targets := ((List.range 15).map fun i => [0, i]).filter (fun p => !neededByH s p) ++ (List.range 5).map (fun i => [i + 1])
    ++ failed.filter takenOut
  let r := targets.foldl (fun (acc : State × List (Nat × StopKind)) p =>
    let x := setStopper stopFuel p k inj acc.1
    (x.1, acc.2 ++ x.2)) (s, [])
  let s := { r.1 with str := { r.1.str with deviceErr := true } }
  let s := (List.range 5).foldl (fun s i => fndRequest { target := [i + 1], cause := 2, escalated := false, uid := none } s) s
  (s, r.2)

/-- Physical block of a memory unit that an object names: a block by its number, a word by the block that holds it now. -/
def objBlock (s : State) (u : Strand) (obj : ErrObj) : Option Nat :=
  match obj with
  | .block b => some b
  | .word pa => match (storeOf s pa).map fun x => placeOf s x.2.1 x.2.2 with
    | some (v, b) => if v = u then some b else none
    | none => none
  | _ => none

/-- The element at an entry of the splice partition is poisoned: entry e of the slot that holds it, chunk c in slot c mod W of its bucket's window (R266, R280). -/
def poisonMerge (n : Nat) (s : State) : State :=
  let hit := fun (b : Bkt) (t : Slot) =>
    if b.firstSlot + t.chunk % windowOf b = n / 256 then { t with poison := setAt (n % 256) (fun _ => true) t.poison } else t
  s.spl.plans.foldl (fun s (kv : Nat × Plan) => (List.range kv.2.buckets.length).foldl (fun s e =>
    updBkt kv.1 e (fun b => if b.state = .active then { b with slots := b.slots.map (hit b) } else b) s) s) s

/-- Poison the n-th of the cells of a shadow set. -/
def poisonShadow (n : Nat) (rows : KV (List CellReg)) : KV (List CellReg) :=
  (rows.foldl (fun (a : Nat × KV (List CellReg)) r =>
    (a.1 + r.2.length, a.2 ++ [(r.1, if a.1 ≤ n ∧ n < a.1 + r.2.length then setAt (n - a.1) (fun c => { c with poison := true }) r.2 else r.2)])) (0, [])).2

/-- An entry of the spill store is delivered poisoned (R168, R280): of the working area's two slots, of 36,864 entries each from the start of the array partition, the first holds the tile in the array and the second the next tile's starting values, by used cell; in the splice partition an entry belongs to the merge slot that holds it (log 131). -/
def spillPoisoned (n : Nat) (s : State) : State :=
  let bad := fun (c : CellReg) => if c.entry.isSome then { c with poison := true } else c
  let s := if 131072 * s.arr.splitApplied.toNat ≤ n then poisonMerge (n - 131072 * s.arr.splitApplied.toNat) s else s
  let hit := fun (r : ArrRun) =>
    if !r.area || decide (131072 * s.arr.splitApplied.toNat ≤ n) then r
    else if n < 36864 then { r with active := setAt n bad r.active }
    else { r with shadow := poisonShadow (n - 36864) r.shadow }
  { s with arr := { s.arr with run := s.arr.run.map hit } }

/-- The UNIT reaction of a strand's source (R396). Answers the stoppers set. -/
def unitReaction (p : Strand) (src : Nat) (obj : ErrObj) (inj : Bool) (s : State) : State × List (Nat × StopKind) :=
  let k := if inj then StopKind.operator else StopKind.fault
  let isMem : Bool := match p with
    | [0, 0xA, _] => true
    | [5, 1, _] => true
    | [m, x, _] => decide (1 ≤ m) && decide (m ≤ 4) && decide (x < 4)
    | _ => false
  if isMem ∧ src = 1 then
    match objBlock s p obj with
    | some b => fenceBlock p b false inj s
    | none => (s, [])
  else if isMem ∧ src = 2 then failUnit p k inj s
  else
    match p, src with
    | [m, 0x22], 0 =>
      let r := setStopper stopFuel [m] k inj s
      (fndRequest { target := [m], cause := 5, escalated := false, uid := none } r.1, r.2)
    | [5, 3], 0 =>
      let r := setStopper stopFuel p k inj s
      let t := setStopper stopFuel sTK k inj r.1
      (t.1, r.2 ++ t.2)
    | [0, 1], _ =>
      let s := match obj with
        | .word a => spillPoisoned (a / 8) (poisonKeys [(paSpill + a / 8 * 8, paSpill + a / 8 * 8 + 8)] s)
        | _ => s
      setStopper stopFuel p k inj s
    | [0, 3, _], _ =>
      let s := match obj with
        | .word pa => poisonKeys [(pa / 8 * 8, pa / 8 * 8 + 8)] s
        | _ => s
      setStopper stopFuel p k inj s
    | _, _ => setStopper stopFuel p k inj s

/-- A rail of a single domain out of window: that domain's strands fall as UNIT, or as DEVICE where H needs one of them (R394, R396). Answers the stoppers set. -/
def railReaction (d : Nat) (inj : Bool) (s : State) : State × Bool × List (Nat × StopKind) :=
  let ps := ((domains.find? fun x => x.1 == d).map Prod.snd).getD []
  if ps.isEmpty || ps.any (neededByH s) then
    let r := deviceReaction ps inj (if ps.contains sMG then stopManagement s else s)
    (r.1, true, r.2)
  else
    let r := ps.foldl (fun (acc : State × List (Nat × StopKind)) p =>
      let x := setStopper stopFuel p (if inj then .operator else .fault) inj acc.1
      (x.1, acc.2 ++ x.2)) (s, [])
    (r.1, false, r.2)

/-- The domain whose rail an event of PWR/SEQ names. -/
def railDomain (p : Strand) (obj : ErrObj) : Option Nat :=
  match obj with
  | .block n => if p = sSEQ then some n else none
  | _ => none

/-- An event of a source that is not masked: counted, its class's reaction applied, kept for the next scan (R384 to R396, R408). -/
def strikeEvent (p : Strand) (src : Nat) (obj : ErrObj) (inj rail : Bool) (s : State) : State :=
  match sourceClass p src with
  | none => s
  | some cls =>
    if fenced s p then s
    else
      let noObj := inj && obj == .none
      if cls = 0 then
        let r := match objBlock s p obj with
          | some b => if src = 0 then correctedBlock p b inj s else (s, [])
          | none => (s, [])
        levelsAfter (noteEvent p src cls inj rail false r.2 r.1)
      else if cls = 1 then
        if noObj then noteEvent p src cls inj rail false [] s
        else
          let (s, c) := objectHit obj s
          let s := noteEvent p src cls inj rail false [] s
          match c with
          | some c => abortOrReset c stABT_RESET s
          | none => s
      else
        let third := match p with
          | [6, 1, _] => decide (2 ≤ ((List.range 26).filter fun n => fenced s (sPH n)).length)
          | _ => false
        match railDomain p obj with
        | some d =>
          let r := railReaction d inj s
          let s := noteEvent p src (if r.2.1 then 3 else 2) inj rail r.2.1 r.2.2 r.1
          levelsAfter (if inj then s else { s with pwr := { s.pwr with pwrgdLow := true } })
        | none =>
        if cls = 3 ∨ neededByH s p then
          let s := if p = sSEQ ∧ inj = false then { s with pwr := { s.pwr with pwrgdLow := true } } else s
          let s := if p = sMG ∨ p = [] then stopManagement s else s
          let s := if p = sPCI ∧ src = 1 then pciOut (.aer "fatal") s else s
          let r := deviceReaction (if cls = 3 ∧ p ≠ sPCI then [] else [p]) inj s
          levelsAfter (noteEvent p src cls inj rail true r.2 r.1)
        else
          let r := unitReaction p src obj inj s
          if third then
            let d := deviceReaction [] inj r.1
            levelsAfter (noteEvent p src cls inj rail true (r.2 ++ d.2) d.1)
          else levelsAfter (noteEvent p src cls inj rail false r.2 r.1)

/-! ## A self-test that is cut off, and its verdict (R153) -/

/-- Working spare-band lines outside the map that are no lanes. -/
def freeSpares (lines map lanes : List Nat) : Nat := (lines.filter fun n => decide (192 ≤ n) && !map.contains n && !lanes.contains n).length

def freeSpareRows (s : State) : Nat := freeSpares (workingRows s) s.arr.rowMap s.arr.rowLanes
def freeSpareCols (s : State) : Nat := freeSpares (workingCols s) s.arr.colMap s.arr.colLanes

/-- Fence lines by their detectors' events. -/
def fenceLines (rows cols : List Nat) (inj : Bool) (s : State) : State :=
  cols.foldl (fun s n => strikeEvent (sCOL n) 0 .none inj false s) (rows.foldl (fun s n => strikeEvent (sROW n) 0 .none inj false s) s)

/-- Fence what a self-test's failing cells call for: lines with two or more, then each cell left over. -/
def judgeCells (cells : List (Nat × Nat)) (s : State) : State × Nat × Nat :=
  let w := cells.filter fun c => working s (sROW c.1) && working s (sCOL c.2)
  let many := fun (n : Nat) (pick : Nat × Nat → Nat) (other : Nat × Nat → Nat) =>
    let o := (w.filter fun c => pick c == n).map other
    o.any fun a => o.any fun b => a != b
  let rows := (List.range 200).filter fun n => many n Prod.fst Prod.snd
  let cols := (List.range 200).filter fun n => many n Prod.snd Prod.fst
  let s := fenceLines rows cols false s
  let left := sortBy (fun (c : Nat × Nat) => c.1 * 200 + c.2) w
  left.foldl (fun (a : State × Nat × Nat) c =>
    if working a.1 (sROW c.1) && working a.1 (sCOL c.2) then
      if freeSpareCols a.1 ≤ freeSpareRows a.1 then (fenceLines [c.1] [] false a.1, a.2.1 + 1, a.2.2)
      else (fenceLines [] [c.2] false a.1, a.2.1, a.2.2 + 1)
    else a) (s, rows.length, cols.length)

/-- Flags that every array reply carries: coverage and repair latency (R369). -/
def arrDetail (coverage : BitVec 2) (latency : Bool) (size : Nat) : BitVec 24 :=
  coverage.setWidth 24 ||| dIf latency (dfOp 44) ||| dIf (decide (size < 192)) dfSHAPE

/-- A self-test ends: what it has found is fenced, and its packet has its result; a cut one with the status of the cause (R153, R369). -/
def endTest (r : ArrRun) (s : State) : State :=
  let found := [sFDA, sFDB, sDRN].filter r.units.contains
  let j := judgeCells r.cells { s with arr := { s.arr with run := none } }
  let flagged := decide (0 < j.2.1 + j.2.2) || !found.isEmpty
  let res : Result := { okCnt (BitVec.ofNat 32 j.2.1) (BitVec.ofNat 32 j.2.2) 0 0 with
    status := r.stop.getD (if flagged then stFLAGGED else stOK), detail := arrDetail 3 r.latency r.size ||| dIf flagged dfNUMERIC }
  r.uids.foldl (fun s u => finish u res s) (found.foldl (fun s u => strikeEvent u 0 .none false false s) j.1)

/-- A self-test has no tile drain to stop at: a stop ends it at once (R153). -/
def endCutTest (s : State) : State :=
  match s.arr.run with
  | some r => if r.test && r.stop.isSome then endTest r s else s
  | none => s

/-- What follows once stoppers have changed: levels, power domains, and a self-test that they cut. -/
def afterStoppers (s : State) : State := endCutTest (levelsAfter s)

/-- An event of a source: what it does by its class, and the end of a self-test that it cuts (R153, R384 to R396). -/
def raiseEvent (p : Strand) (src : Nat) (obj : ErrObj) (inj rail : Bool) (s : State) : State := endCutTest (strikeEvent p src obj inj rail s)

/-- An armed DATA injection fires at an operation of its kind: its detector finds it (R407). -/
def fireArmed (p : Strand) (src : Nat) (obj : ErrObj) (s : State) : State :=
  if armedOn s p src then
    raiseEvent p src obj true false { s with str := { s.str with armed := s.str.armed.filter (· != (strandId p, src)) } }
  else s

/-! ## Taking tracker entries (R225 to R227) -/

/-- The lowest transfer ID that is neither held nor retired. -/
def freeTid (s : State) : Nat :=
  firstGap 0 (s.trk.retired.foldl (fun l t => insNat t l) (s.trk.entries.map Prod.fst))

/-- Allocate an entry for a packet of a context: its epoch is one more than its last. Events armed on the tracker strike it (R225, R396). -/
def takeEntryFor (c uid : Nat) (st : Strand) (req : Req) (row off len pa : Nat) (data : List PByte) (s : State) : State × Nat :=
  let tid := freeTid s
  let epoch := kvGetD tid 0 s.trk.epochs + 1
  let e : Entry := { epoch := epoch, ctx := c, gen := (ctxOf s c).gen, strand := st, sgen := strandGen s st, issueMs := s.clk.uptimeMs
                     uid := uid, req := req, row := row, off := off, len := len, pa := pa, data := data.map Prod.fst, poison := data.map Prod.snd }
  let s := { s with trk := { s.trk with entries := kvSet tid e s.trk.entries, epochs := kvSet tid epoch s.trk.epochs } }
  (fireArmed sTRK 2 .none (fireArmed sTRK 1 (.tracker tid) (fireArmed sTRK 0 .none s)), tid)

def takeEntry (j : Job) (st : Strand) (req : Req) (row off len pa : Nat) (data : List PByte) (s : State) : State × Nat :=
  takeEntryFor j.ctx j.uid st req row off len pa data s

/-- Requests whose data return within the step: their entries are taken and freed in it. Answers whether the tracker failed under them (R226, log 28). -/
def passEntry (c uid : Nat) (st : Strand) (s : State) : State × Bool :=
  let r := takeEntryFor c uid st .memRead 0 0 0 0 [] s
  (freeEntry r.2 r.1, (kvGet r.2 r.1.trk.entries).isNone)

/-- As runNow, for an engine whose operands may stream from tiers H and N: it waits while no tracker entry is left to its context, and an entry passes through the tracker (R210, R226, R227). -/
def runTracked (st : Strand) (virt : Packet → Bool) (checks : State → Packet → Checks) (effect : Packet → State → State × Result)
    (uid : Nat) (p : Packet) (s : State) : State :=
  let c := issuerCtx s p.issuer
  if !virt p || (verdict (checks s p)).isSome then runNow checks effect uid p s
  else if entriesLeft s c = 0 then { s with fetched := kvSet uid p s.fetched }
  else
    let t := passEntry c uid st s
    if (ctxOf t.1 c).gen != (ctxOf s c).gen then addJob { newJob s uid p .finished with res := some (resOf stABT_RESET) } t.1
    else if t.2 then addJob { newJob s uid p .finished with res := some (resOf stFLT_TIMEOUT) } t.1
    else
      let r := effect p t.1
      addJob { newJob s uid p .finished with res := some r.2 } r.1

/-- A TLP that the step sent meets an armed injection: its LCRC is corrupted, found and counted (R396, R407). -/
def sentTlp (before : State) (s : State) : State :=
  if before.pci.out.length < s.pci.out.length then fireArmed sPCI 0 .none s else s

/-- Opcodes whose packets the control cores run: path C of R354. -/
def pathC : List Nat :=
  [0x0110, 0x0111, 0x0112, 0x0113, 0x0120, 0x0121, 0x0205, 0x0320, 0x0321, 0x0404, 0x0701, 0x0702, 0x0704, 0x0705, 0x0706, 0x0801, 0x0803,
   0x0806, 0x0807, 0x0808, 0x0901, 0x0903, 0x0A01, 0x0A02, 0x0A03, 0x0A04, 0x0A05, 0x0A06, 0x0A07, 0x0B01, 0x0B02, 0x0B03, 0x0C01, 0x0C02,
   0x0C03, 0x0C04]

/-- An injection that was armed before the step fires now. -/
def fireOld (before : State) (p : Strand) (src : Nat) (obj : ErrObj) (s : State) : State :=
  if armedOn before p src then fireArmed p src obj s else s

/-- Is the strand one of the working units of its kind that carry service? -/
def serving (s : State) (p : Strand) : Bool := working s p && !s.str.standby.contains (strandId p)

/-- What a packet taken up in the step exercises: the lowest serving control core for path C, a vector cluster's lane groups for class 0x05, the Tackle link for class 0x08. -/
def exercised (s : State) (op : Nat) : List (Strand × Nat) :=
  (if pathC.contains op then ((workingCores s).find? fun n => serving s (sCC n)).toList.flatMap fun n => [(sCC n, 0), (sCC n, 1)] else [])
    ++ (if op / 256 = 5 then s.str.armed.filterMap fun a => match strandOf a.1 with
          | some [0, 2, c, 0, g] => if serving s (sGROUP c g) then some (sGROUP c g, 0) else none
          | _ => none
        else [])
    ++ (if op / 256 = 8 then [(sTL, 0), (sTX, 0)] else [])

/-- Sources that fence the unit which runs a packet: the core of path C, the lane group (R217, R396). -/
def fencesRunner (x : Strand × Nat) : Bool :=
  match x.1 with
  | [0, 7, _] => x.2 == 1
  | [0, 2, _, 0, _] => true
  | _ => false

/-- A packet taken up in the step whose unit an armed injection fences: it completes FLT_FENCED, and nothing of what it would have done is done (R217, R396, log 128). A rejected packet runs on no unit. -/
def struckPacket (before s : State) : Option (Job × List (Strand × Nat)) :=
  s.jobs.findSome? fun (j : Job) =>
    if (before.jobs.any fun k => k.uid == j.uid) || (j.res.any fun r => decide (0x10 ≤ r.status.toNat) && decide (r.status.toNat < 0x20)) then none
    else
      match (exercised before j.pkt.opcode.toNat).filter fun x => armedOn before x.1 x.2 && fencesRunner x with
      | [] => none
      | xs => some (j, xs)

/-- Armed injections meet the step's operations of their kinds: packets run, a hitch updated, the queue table or the routing table written, a TLP sent (R396, R407). -/
def met (before s : State) : State :=
  if before.str.armed.isEmpty then s
  else
    match struckPacket before s with
    | some (j, xs) =>
      let t := { before with fetched := before.fetched.filter (fun kv => kv.1 != j.uid), nextUid := s.nextUid }
      answerAtOnce j.uid j.pkt (resOf stFLT_FENCED) (xs.foldl (fun s x => fireArmed x.1 x.2 .none s) t)
    | none =>
    let ops := (s.jobs.filter fun (j : Job) => !(before.jobs.any fun k => k.uid == j.uid)).map fun (j : Job) => j.pkt.opcode.toNat
    let hitch := s.hitches.find? fun (kv : Nat × Hitch) => (kvGet kv.1 before.hitches).map Hitch.value != some kv.2.value
    let table := before.queues.map Prod.fst != s.queues.map Prod.fst
    let routes := before.lnk.routing != s.lnk.routing
    let s := (ops.flatMap (exercised before)).foldl (fun s x => fireOld before x.1 x.2 .none s) s
    let s := match hitch with
      | some kv => fireOld before sDSP 3 (.hitch kv.1) s
      | none => s
    let s := if table then fireOld before sDSP 1 .none (fireOld before sDSP 0 .none s) else s
    let s := if routes then (List.range 4).foldl (fun s n => fireOld before (sRT n) 0 .none s) s else s
    if before.pci.out.length < s.pci.out.length then fireOld before sPCI 0 .none s else s

/-- A read of n bytes within one 4 KiB granule meets the words that injections have corrupted: each is found and reported (R241, R243, R407). -/
def detectRead (pa n : Nat) (s : State) : State :=
  if s.mem.damaged.isEmpty then s
  else
    (List.range (ceilDiv (n + pa % 8) 8)).foldl (fun s i =>
      let a := (pa / 8 + i) * 8
      let g := keyOf s a / granule a * granule a
      match watchOf s a, s.mem.damaged.find? fun d => d.1 == g with
      | some u, some d =>
        raiseEvent u (bnat d.2) (.word a) true false { s with mem := { s.mem with damaged := s.mem.damaged.filter (· != d) } }
      | _, _ => s) s

/-- A fault that carries a poisoned table entry reports it against the block that holds the entry (R47); a host read without a completion is reported through AER (R46, R496). -/
def reportTable (f : AFault) (s : State) : State :=
  match f.table with
  | none => if f.status = stFLT_TIMEOUT then pciOut (.aer "Completion Timeout") s else s
  | some pa =>
    match watchOf s pa with
    | some u => raiseEvent u 1 (.word pa) false false s
    | none => s

/-- Abort after a ring, reply ring or state block fault: DSP source 2 against the queue (R61). -/
def ringFault (g : Nat) (s : State) : State := raiseEvent sDSP 2 (.queue g) false false s

end Sys2Proof.Machine
end

