-- ==== Sys2Proof/Machine/Numbers.lean ====
section
/-! DEFINITION. Number formats as exact values: decoding, the one rounding rule, arithmetic, write conversion and block scales (R84 to R108, R181). -/

namespace Sys2Proof.Machine

/-- A decoded value: NaN, an infinity, or (−1)^neg × m × 2^e exactly. -/
inductive FV where
  | nan
  | inf (neg : Bool)
  | fin (neg : Bool) (m : Nat) (e : Int)
  deriving DecidableEq, Repr

/-- +0. -/
def fv0 : FV := .fin false 0 0

/-- 2^k. -/
def fvPow (k : Int) : FV := .fin false 1 k

def fvOfNat (n : Nat) : FV := .fin false n 0

def fvOfInt (n : Int) : FV := .fin (decide (n < 0)) n.natAbs 0

def FV.isNan : FV → Bool
  | .nan => true
  | _ => false

def FV.isFin : FV → Bool
  | .fin _ _ _ => true
  | _ => false

def FV.isZero : FV → Bool
  | .fin _ m _ => m == 0
  | _ => false

/-- The sign, of NaN +. -/
def FV.sign : FV → Bool
  | .nan => false
  | .inf n => n
  | .fin n _ _ => n

def FV.neg : FV → FV
  | .nan => .nan
  | .inf n => .inf (!n)
  | .fin n m e => .fin (!n) m e

def FV.abs : FV → FV
  | .nan => .nan
  | .inf _ => .inf false
  | .fin _ m e => .fin false m e

/-- The exact value times 2^x. -/
def FV.scale (x : Int) : FV → FV
  | .fin n m e => if m = 0 then .fin n 0 0 else .fin n m (e + x)
  | v => v

/-- floor(log2 |v|) of a finite nonzero value. -/
def FV.log2 : FV → Option Int
  | .fin _ m e => if m = 0 then none else some ((Nat.log2 m : Nat) + e)
  | _ => none

/-! ## Rounding (R90, R92) -/

/-- m × 2^e, or a value strictly between it and (m + 1) × 2^e where `sticky`, in units of 2^q, to nearest even. The caller gives a sticky value more bits than the target has. -/
def roundUnits (m : Nat) (e : Int) (sticky : Bool) (q : Int) : Nat :=
  if q ≤ e then m * 2 ^ (e - q).toNat
  else
    let k := (q - e).toNat
    let t := m / 2 ^ k
    let r := m % 2 ^ k
    let h := 2 ^ (k - 1)
    if h < r || (r == h && (sticky || t % 2 == 1)) then t + 1 else t

/-- A floating-point format: fraction bits, least normal exponent, exponent bits, bias, largest finite value maxM × 2^maxE, and its kind of special values (R85, R86). -/
structure Fp where
  p : Nat
  emin : Int
  eb : Nat
  bias : Int
  maxM : Nat
  maxE : Int
  hasInf : Bool
  hasNan : Bool
  deriving DecidableEq, Repr

def fpB64 : Fp := { p := 52, emin := -1022, eb := 11, bias := 1023, maxM := 2 ^ 53 - 1, maxE := 971, hasInf := true, hasNan := true }
def fpB32 : Fp := { p := 23, emin := -126, eb := 8, bias := 127, maxM := 2 ^ 24 - 1, maxE := 104, hasInf := true, hasNan := true }
def fpE8M16 : Fp := { p := 16, emin := -126, eb := 8, bias := 127, maxM := 2 ^ 17 - 1, maxE := 111, hasInf := true, hasNan := true }
def fpB16 : Fp := { p := 10, emin := -14, eb := 5, bias := 15, maxM := 2 ^ 11 - 1, maxE := 5, hasInf := true, hasNan := true }
def fpBF16 : Fp := { p := 7, emin := -126, eb := 8, bias := 127, maxM := 2 ^ 8 - 1, maxE := 120, hasInf := true, hasNan := true }
def fpE5M2 : Fp := { p := 2, emin := -14, eb := 5, bias := 15, maxM := 7, maxE := 13, hasInf := true, hasNan := true }
def fpE4M3 : Fp := { p := 3, emin := -6, eb := 4, bias := 7, maxM := 7, maxE := 6, hasInf := false, hasNan := true }
def fpE2M1 : Fp := { p := 1, emin := 0, eb := 2, bias := 1, maxM := 3, maxE := 1, hasInf := false, hasNan := false }

/-- Is n × 2^q at most the format's largest finite value? -/
def fitsMax (f : Fp) (n : Nat) (q : Int) : Bool :=
  let b := min q f.maxE
  decide (n * 2 ^ (q - b).toNat ≤ f.maxM * 2 ^ (f.maxE - b).toNat)

/-- The quantum of the format at a value whose floor(log2) is l (R92). -/
def quantum (f : Fp) (l : Int) : Int := max l f.emin - f.p

/-- A nonzero magnitude in units of the format's quantum: count and quantum, before the limit is applied. -/
def roundMag (f : Fp) (m : Nat) (e : Int) (sticky : Bool) : Nat × Int :=
  let q := quantum f ((Nat.log2 m : Nat) + e)
  (roundUnits m e sticky q, q)

/-- Arithmetic rounding of a finite value: overflow goes to infinity, a zero keeps the sign (R91, R93). -/
def rneFin (f : Fp) (neg : Bool) (m : Nat) (e : Int) (sticky : Bool) : FV :=
  if m = 0 then .fin neg 0 0
  else
    let y := roundMag f m e sticky
    if y.1 = 0 then .fin neg 0 0
    else if fitsMax f y.1 y.2 then .fin neg y.1 y.2 else .inf neg

/-- Arithmetic rounding (R91). -/
def rne (f : Fp) : FV → FV
  | .fin n m e => rneFin f n m e false
  | v => v

def rne64 (v : FV) : FV := rne fpB64 v
def rne32 (v : FV) : FV := rne fpB32 v

/-- Write conversion into a floating-point format, and whether it saturated (R92). Non-finite values pass. -/
def cvtFp (f : Fp) : FV → FV × Bool
  | .fin n m e =>
    if m = 0 then (.fin n 0 0, false)
    else
      let y := roundMag f m e false
      if y.1 = 0 then (.fin n 0 0, false)
      else if fitsMax f y.1 y.2 then (.fin n y.1 y.2, false) else (.fin n f.maxM f.maxE, true)
  | v => (v, false)

/-! ## Bits (R85 to R87) -/

/-- The bits of a value that the format holds exactly; canonical NaN. -/
def fpBits (f : Fp) : FV → Nat
  | .nan => if f.hasInf then (2 ^ f.eb - 1) * 2 ^ f.p + 2 ^ (f.p - 1) else 2 ^ (f.eb + f.p) - 1
  | .inf n => bnat n * 2 ^ (f.eb + f.p) + (2 ^ f.eb - 1) * 2 ^ f.p
  | .fin n m e =>
    let s := bnat n * 2 ^ (f.eb + f.p)
    if m = 0 then s
    else
      let l : Int := (Nat.log2 m : Nat) + e
      let q := quantum f l
      let u := roundUnits m e false q
      if l < f.emin then s + u
      else s + ((l + f.bias).toNat * 2 ^ f.p) + (u - 2 ^ f.p)

/-- The value that bits spell. -/
def fpValue (f : Fp) (b : Nat) : FV :=
  let neg := bit b (f.eb + f.p)
  let ex := b / 2 ^ f.p % 2 ^ f.eb
  let fr := b % 2 ^ f.p
  if f.hasInf && ex == 2 ^ f.eb - 1 then (if fr = 0 then .inf neg else .nan)
  else if f.hasNan && !f.hasInf && ex == 2 ^ f.eb - 1 && fr == 2 ^ f.p - 1 then .nan
  else if ex = 0 then (if fr = 0 then .fin neg 0 0 else .fin neg fr (f.emin - f.p))
  else .fin neg (2 ^ f.p + fr) ((ex : Int) - f.bias - f.p)

/-- Is the encoding a NaN of the format? -/
def b32 (w : Word) : FV := fpValue fpB32 w.toNat
def b64 (w : DWord) : FV := fpValue fpB64 w.toNat
def toB32 (v : FV) : Word := BitVec.ofNat 32 (fpBits fpB32 v)
def toB64 (v : FV) : DWord := BitVec.ofNat 64 (fpBits fpB64 v)

/-! ## Exact arithmetic, then one rounding (R90, R211) -/

/-- Signed significand at a common exponent. -/
def atExp (n : Bool) (m : Nat) (e q : Int) : Int :=
  let v : Int := (m * 2 ^ (e - q).toNat : Nat)
  if n then -v else v

/-- The exact sum; opposite infinities give NaN; an exact zero of unlike signs is +0 (IEEE 754-2019). -/
def FV.add : FV → FV → FV
  | .nan, _ => .nan
  | _, .nan => .nan
  | .inf a, .inf b => if a = b then .inf a else .nan
  | .inf a, _ => .inf a
  | _, .inf b => .inf b
  | .fin a m e, .fin b n f =>
    if m = 0 ∧ n = 0 then .fin (a && b) 0 0
    else if m = 0 then .fin b n f
    else if n = 0 then .fin a m e
    else
      let q := min e f
      let v := atExp a m e q + atExp b n f q
      if v = 0 then .fin false 0 0 else .fin (decide (v < 0)) v.natAbs q

def FV.sub (a b : FV) : FV := a.add b.neg

/-- The exact product; 0 × ∞ is NaN. -/
def FV.mul : FV → FV → FV
  | .nan, _ => .nan
  | _, .nan => .nan
  | .inf a, .inf b => .inf (a != b)
  | .inf a, .fin b m _ => if m = 0 then .nan else .inf (a != b)
  | .fin a m _, .inf b => if m = 0 then .nan else .inf (a != b)
  | .fin a m e, .fin b n f => if m = 0 ∨ n = 0 then .fin (a != b) 0 0 else .fin (a != b) (m * n) (e + f)

/-- Numeric comparison of two values that are no NaN: is the first below the second? -/
def FV.lt : FV → FV → Bool
  | .nan, _ => false
  | _, .nan => false
  | .inf a, .inf b => a && !b
  | .inf a, _ => a
  | _, .inf b => !b
  | .fin a m e, .fin b n f =>
    let q := min e f
    decide (atExp a m e q < atExp b n f q)

/-- max of R181. -/
def FV.max (a b : FV) : FV :=
  if a.isNan || b.isNan then .nan
  else if a.isZero && b.isZero then .fin (a.sign && b.sign) 0 0
  else if a.lt b then b else a

/-- min of R181. -/
def FV.min (a b : FV) : FV :=
  if a.isNan || b.isNan then .nan
  else if a.isZero && b.isZero then .fin (a.sign || b.sign) 0 0
  else if b.lt a then b else a

/-- The quotient, rounded once. -/
def fdiv (f : Fp) : FV → FV → FV
  | .nan, _ => .nan
  | _, .nan => .nan
  | .inf _, .inf _ => .nan
  | .inf a, .fin b _ _ => .inf (a != b)
  | .fin a _ _, .inf b => .fin (a != b) 0 0
  | .fin a m e, .fin b n g =>
    if n = 0 then (if m = 0 then .nan else .inf (a != b))
    else if m = 0 then .fin (a != b) 0 0
    else
      let k := 130 + Nat.log2 n
      rneFin f (a != b) (m * 2 ^ k / n) (e - k - g) (m * 2 ^ k % n != 0)

/-! ## Integer square root, by bits from the top -/

/-- The largest r of the form acc + (bits below) with r × r ≤ n. -/
def isqrtFrom (n : Nat) : Nat → Nat → Nat
  | 0, acc => acc
  | k + 1, acc => if (acc + 2 ^ k) * (acc + 2 ^ k) ≤ n then isqrtFrom n k (acc + 2 ^ k) else isqrtFrom n k acc

def isqrt (n : Nat) : Nat := isqrtFrom n (Nat.log2 n / 2 + 1) 0

/-- The square root, rounded once. -/
def fsqrt (f : Fp) : FV → FV
  | .nan => .nan
  | .inf n => if n then .nan else .inf false
  | .fin n m e =>
    if m = 0 then .fin n 0 0
    else if n then .nan
    else
      -- an even exponent, and 130 bits or more of root
      let k : Nat := 260 + (if e % 2 = 0 then 0 else 1)
      let v := m * 2 ^ k
      let r := isqrt v
      rneFin f false r ((e - k) / 2) (r * r != v)

/-- 1/√x, rounded once. -/
def frsqrt (f : Fp) : FV → FV
  | .nan => .nan
  | .inf n => if n then .nan else .fin false 0 0
  | .fin n m e =>
    if m = 0 then .inf n
    else if n then .nan
    else
      -- x = m × 2^e with e even; floor(2^k / √m) for a k that gives 130 bits or more
      let m := if e % 2 = 0 then m else m * 2
      let e := if e % 2 = 0 then e else e - 1
      let k := 140 + Nat.log2 m
      let r := isqrt (2 ^ (2 * k) / m)
      rneFin f false r (-(k : Int) - e / 2) (r * r * m != 2 ^ (2 * k))

/-! ## Element formats (R84) -/

def fmtB32 : Nat := 0
def fmtB16 : Nat := 1
def fmtBF16 : Nat := 2
def fmtE4M3 : Nat := 3
def fmtE5M2 : Nat := 4
def fmtE2M1 : Nat := 5
def fmtI8 : Nat := 6
def fmtI4 : Nat := 7
def fmtU4 : Nat := 8
def fmtC2 : Nat := 9
def fmtC4 : Nat := 10
def fmtB64 : Nat := 11
def fmtI32 : Nat := 12

/-- Bits of an element. -/
def fmtBits (fmt : Nat) : Nat := [32, 16, 16, 8, 8, 4, 8, 4, 4, 2, 4, 64, 32].getD fmt 32

def fpOf (fmt : Nat) : Option Fp :=
  [some fpB32, some fpB16, some fpBF16, some fpE4M3, some fpE5M2, some fpE2M1, none, none, none, none, none, some fpB64, none].getD fmt none

/-- Two's complement of a width. -/
def intValue (w b : Nat) : Int := if b < 2 ^ (w - 1) then (b : Int) else (b : Int) - 2 ^ w

/-- The value of an unscaled element of a floating-point or two's-complement format (R95). -/
def elValue (fmt b : Nat) : FV :=
  match fpOf fmt with
  | some f => fpValue f b
  | none => if fmt = fmtU4 ∨ fmt = fmtC2 ∨ fmt = fmtC4 then fvOfNat b else fvOfInt (intValue (fmtBits fmt) b)

/-- An element as written: its bits, its decoded value, and what R96 counts. -/
structure El where
  bits : Nat
  val : FV
  sat : Bool
  nonfin : Bool
  zero : Bool
  poison : Bool
  deriving DecidableEq, Repr

/-- round_half_even of a finite value in units of 1. -/
def roundInt (n : Bool) (m : Nat) (e : Int) : Int :=
  let v : Int := (roundUnits m e false 0 : Nat)
  if n then -v else v

/-- Write one exact value at scale 2^x (R92, R94, R96). -/
def cvtEl (fmt : Nat) (x : Int) (v : FV) : El :=
  match fpOf fmt with
  | some f =>
    let y := cvtFp f (v.scale (-x))
    match y.1 with
    | .nan =>
      if f.hasNan then { bits := fpBits f .nan, val := .nan, sat := false, nonfin := true, zero := false, poison := false }
      else { bits := 0, val := fv0, sat := false, nonfin := true, zero := true, poison := false }
    | .inf n =>
      if f.hasInf then { bits := fpBits f (.inf n), val := .inf n, sat := false, nonfin := true, zero := false, poison := false }
      else if f.hasNan then { bits := fpBits f .nan, val := .nan, sat := false, nonfin := true, zero := false, poison := false }
      else { bits := fpBits f (.fin n f.maxM f.maxE), val := (FV.fin n f.maxM f.maxE).scale x, sat := false, nonfin := true, zero := false, poison := false }
    | w => { bits := fpBits f w, val := w.scale x, sat := y.2, nonfin := false, zero := w.isZero, poison := false }
  | none =>
    let w := fmtBits fmt
    let top : Int := 2 ^ (w - 1)
    let enc := fun (i : Int) => (i % 2 ^ w).toNat
    match v.scale (-x) with
    | .nan => { bits := 0, val := fv0, sat := false, nonfin := true, zero := false, poison := false }
    | .inf n =>
      let i := if n then -top else top - 1
      { bits := enc i, val := (fvOfInt i).scale x, sat := false, nonfin := true, zero := false, poison := false }
    | .fin n m e =>
      let i := roundInt n m e
      let j := if top - 1 < i then top - 1 else if i < -top then -top else i
      { bits := enc j, val := (fvOfInt j).scale x, sat := i != j, nonfin := false, zero := j == 0, poison := false }

/-! ## Block scales (R89, R97 to R108) -/

/-- Elements of a block by the BLOCK field; 0 unscaled. -/
def blockLen (b : Nat) : Nat := [0, 16, 32, 64, 128].getD b 0

/-- floor(log2) of the format's largest finite value (R100). -/
def emaxOf (fmt : Nat) : Int :=
  match fpOf fmt with
  | some f => (Nat.log2 f.maxM : Nat) + f.maxE
  | none => (fmtBits fmt : Int) - 2

/-- Half the format's largest finite value (R103). -/
def halfMax (fmt : Nat) : FV :=
  match fpOf fmt with
  | some f => .fin false f.maxM (f.maxE - 1)
  | none => .fin false (2 ^ (fmtBits fmt - 1) - 1) (-1)

/-- Is the format and width MXINT8 (R108)? -/
def isMxInt8 (fmt : Nat) (width8 : Bool) : Bool := width8 && fmt == fmtI8

/-- Scale byte to X, and back: MXINT8 counts from −133 (R89, R108). -/
def scaleX (fmt : Nat) (width8 : Bool) (e : Nat) : Int := (e : Int) - (if isMxInt8 fmt width8 then 133 else 127)
def scaleByte (fmt : Nat) (width8 : Bool) (x : Int) : Nat := (x + (if isMxInt8 fmt width8 then 133 else 127)).toNat

/-- Does a magnitude at scale x round, without saturation, to at most the largest finite value (R100)? -/
def fitsAt (fmt : Nat) (v : FV) (x : Int) : Bool := !(cvtEl fmt x v).sat

/-- The JIT scale of a block from its largest finite magnitude (R100, R108). -/
def jitX (fmt : Nat) (width8 : Bool) (amax : FV) : Int :=
  let lo : Int := if isMxInt8 fmt width8 then -133 else -127
  let hi : Int := if isMxInt8 fmt width8 then 121 else 127
  match amax.log2 with
  | none => 0
  | some l =>
    let x := l - emaxOf fmt
    let x := if fitsAt fmt amax x then x else x + 1
    max lo (min hi x)

/-- The largest magnitude over the finite values of a list; 0 if none. -/
def amaxOf (vs : List FV) : FV := vs.foldl (fun (m : FV) v => if v.isFin then m.max v.abs else m) fv0

/-- A scale word (R99). -/
structure ScaleWord where
  mode : Nat
  hold : Nat
  ovf : Bool
  scale : Nat
  deriving DecidableEq, Repr

def scaleWordOf (w : Nat) : ScaleWord := { mode := fld w 15 14, hold := fld w 13 9, ovf := bit w 8, scale := fld w 7 0 }
def scaleWordBits (k : ScaleWord) : Nat := 2 ^ 14 * k.mode + k.hold * 2 ^ 9 + bnat k.ovf * 2 ^ 8 + k.scale

/-- The words a DELAYED or FIXED writer treats as seeded at 0x7F (R103, R104). -/
def usedWord (k : ScaleWord) : ScaleWord := if k.scale = 0xFF then { k with scale := 0x7F, ovf := false, hold := 0 } else k

/-- The X that a DELAYED writer takes from the word (R103). -/
def delayedX (k : ScaleWord) : Int :=
  let k := usedWord k
  let x : Int := (k.scale : Int) - 127
  if k.ovf then min (x + 1) 127 else if k.mode = 3 then max (x - 1) (-127) else x

/-- An element of a NaN block (R105). -/
def nanEl : El := { bits := 0, val := .nan, sat := false, nonfin := true, zero := false, poison := false }

/-- Convert a block's elements at a scale; E2M1 with a non-finite element becomes a NaN block (R105). -/
def cvtBlock (fmt : Nat) (x : Int) (vs : List FV) : List El :=
  if fmt = fmtE2M1 ∧ vs.any (fun v => !v.isFin) then vs.map fun _ => nanEl else vs.map (cvtEl fmt x)

/-- Is the block written as a NaN block? -/
def nanBlock (fmt : Nat) (vs : List FV) : Bool := fmt == fmtE2M1 && vs.any fun v => !v.isFin

/-- Did a finite element of the block saturate at the scale? -/
def blockOvf (fmt : Nat) (x : Int) (vs : List FV) : Bool := vs.any fun v => v.isFin && (cvtEl fmt x v).sat

/-- The largest stored magnitude over finite elements, before the scale (R103). -/
def storedMax (fmt : Nat) (x : Int) (vs : List FV) : FV :=
  amaxOf ((vs.filter FV.isFin).map fun v => (cvtEl fmt x v).val.scale (-x))

/-- A block under a scale mode (WMODE: 0 JIT, 1 DELAYED, 2 FIXED) over the word it finds: elements and scale entry, a byte or a word (R100 to R105, R107, R108). DESIGN CHOICE (log 142): a NaN block written in JIT mode has the OVF of its finite elements, which R105 gives for DELAYED and FIXED only; a word read with MODE 0b11 counts on from its HOLD, as the pseudocode of R103 does, where the prose starts at zero (they differ only for a word that software wrote). -/
def writeBlock (fmt : Nat) (width8 : Bool) (wmode : Nat) (old : Nat) (vs : List FV) : List El × Nat :=
  let k := usedWord (scaleWordOf old)
  let nb := nanBlock fmt vs
  if wmode = 0 then
    let x := jitX fmt width8 (amaxOf vs)
    let sc := if nb then 0xFF else scaleByte fmt width8 x
    (cvtBlock fmt x vs,
      if width8 then sc else scaleWordBits { mode := 0, hold := 0, ovf := blockOvf fmt x vs, scale := sc })
  else if wmode = 1 then
    let x := delayedX (scaleWordOf old)
    let ovf := blockOvf fmt x vs
    let held := if k.mode = 0 ∨ k.mode = 2 then 0 else k.hold
    let quiet := !ovf && (storedMax fmt x vs).lt (halfMax fmt)
    let hold := if quiet && decide (held < 31) then held + 1 else 0
    let mode := if quiet && held == 31 then 3 else 1
    (cvtBlock fmt x vs, scaleWordBits { mode := mode, hold := hold, ovf := ovf, scale := if nb then 0xFF else scaleByte fmt false x })
  else
    let x : Int := (k.scale : Int) - 127
    (cvtBlock fmt x vs,
      scaleWordBits { mode := 2, hold := 0, ovf := blockOvf fmt x vs, scale := if nb then 0xFF else k.scale })

end Sys2Proof.Machine
end

