-- ==== Sys2Proof/Machine/Operands.lean ====
section
/-! DEFINITION. Tensor operands: the descriptor and its checks, reading rows with block scales, writing rows with write conversion and scales, and what a write counts (R88, R96 to R105, R112 to R114, R217, R233, R361). -/

namespace Sys2Proof.Machine

/-! ## Where a command reads and writes -/

/-- What a command's accesses are made with: its context, the context's grant, and where its engine may go. -/
structure Env where
  c : Nat
  x : Ctx
  reach : Reach
  deriving DecidableEq, Repr

/-- A packet that starts now, on an engine of tiers H and N (R210). -/
def envHN (s : State) (p : Packet) : Env := { c := issuerCtx s p.issuer, x := ctxOf s (issuerCtx s p.issuer), reach := reachHN }

/-- Report what a read of a virtual range finds of injected damage (R407). -/
def detectVa (r : Reach) (c va n : Nat) (s : State) : State :=
  if s.mem.damaged.isEmpty then s
  else (pieces va n).foldl (fun s p => match translateFor s r c p.1 false with
    | .ok l => if l.host then s else detectRead l.addr p.2 s
    | .error _ => s) s

def locRead (s : State) (v : Env) (grant : Bool) (addr n : Nat) : Except AFault (List PByte) :=
  if grant then grantRead s v.x addr n else vaRead s v.reach v.c addr n

def locWrite (v : Env) (grant : Bool) (addr : Nat) (bs : List PByte) (s : State) : State × Option AFault :=
  if grant then grantWrite v.x addr bs s else vaWrite v.reach v.c addr bs s

/-- The engine has read a range: injected damage in it is found. -/
def locDetect (v : Env) (grant : Bool) (addr n : Nat) (s : State) : State :=
  if s.mem.damaged.isEmpty then s
  else if grant then (grantPieces v.x addr n).foldl (fun s p => detectRead p.1 p.2 s) s
  else detectVa v.reach v.c addr n s

/-! ## The descriptor (R361) -/

structure Desc where
  present : Bool
  layout : Bool
  grant : Bool
  wmode : Nat
  width8 : Bool
  col : Bool
  block : Nat
  fmt : Nat
  aux : Nat
  addr : Nat
  scale : Nat
  /-- Words w to w + 5 as they stand. -/
  raw : List Nat
  deriving DecidableEq, Repr

/-- The descriptor at words 0 to 5. -/
def descOf (ws : List Nat) : Desc :=
  let w := fun (i : Nat) => ws.getD i 0
  { present := bit (w 0) 17, layout := bit (w 0) 16, grant := bit (w 0) 15, wmode := fld (w 0) 14 13, width8 := bit (w 0) 12
    col := bit (w 0) 11, block := fld (w 0) 10 8, fmt := fld (w 0) 7 0, aux := w 1
    addr := w 2 + 2 ^ 32 * w 3, scale := w 4 + 2 ^ 32 * w 5, raw := ws }

/-- The descriptor at word w of a packet. -/
def descAt (p : Packet) (w : Nat) : Desc := descOf ((List.range 6).map fun i => wd p (w + i))

/-- Formats that carry no block scales (R97). -/
def noBlocks (fmt : Nat) : Bool := [fmtB64, fmtB32, fmtB16, fmtBF16, fmtI32, fmtC2, fmtC4].contains fmt

/-- Formats that are array b operands alone, never written (R114). -/
def tabled (fmt : Nat) : Bool := [fmtU4, fmtC2, fmtC4].contains fmt

def rowBytes (fmt cols : Nat) : Nat := ceilDiv (cols * fmtBits fmt) 8

/-- Entries of the scale array (R98). -/
def scaleEntries (d : Desc) (rows cols : Nat) : Nat :=
  let b := blockLen d.block
  if b = 0 then 0 else if d.col then ceilDiv rows b * cols else rows * ceilDiv cols b

def scaleSize (d : Desc) : Nat := if d.width8 then 1 else 2

/-- A fixed range: reserved upper bits, the end of the virtual space or of the grant; the word that offends is w, the upper one w + 1. -/
def spanBad (v : Env) (grant : Bool) (w addr n : Nat) : List Nat :=
  if grant then badIf (decide (2 ^ 32 ≤ addr)) (w + 1) ++ badIf (!inGrant v.x addr n) w
  else badIf (decide (2 ^ 49 ≤ addr)) (w + 1) ++ badIf (decide (vaEnd < addr % 2 ^ 49 + n)) w

/-- What a position asks of its descriptor: the formats it takes, whether it is written, an array operand, and whether JIT with COL is accepted there (R102). -/
structure Pos where
  fmts : List Nat
  out : Bool
  array : Bool
  jitCol : Bool
  deriving DecidableEq, Repr

/-- Offending words of a descriptor that must be present, at word w, of a rows × cols tensor stored as srows × scols (R84, R97, R102, R107, R112 to R114, R361). Fields of block scales are 0 on an unscaled tensor (R356). -/
def descBadAs (v : Env) (q : Pos) (w rows cols srows scols : Nat) (d : Desc) : List Nat :=
  badIf (!d.present) w
    ++ badIf (decide (d.raw.getD 0 0 / 2 ^ 18 ≠ 0)) w
    ++ badIf (!q.fmts.contains d.fmt) w
    ++ badIf (decide (4 < d.block) || (d.block != 0 && noBlocks d.fmt) || (d.block == 0 && d.fmt == fmtU4)) w
    ++ badIf (d.block == 0 && (d.col || d.width8 || d.wmode != 0)) w
    ++ badIf (d.width8 && (d.block != 2 || d.fmt == fmtI4 || d.wmode != 0)) w
    ++ badIf (!q.out && d.wmode != 0) w
    ++ badIf (q.out && (d.wmode == 3 || tabled d.fmt || (d.block != 0 && d.col && d.wmode == 0 && !q.jitCol))) w
    ++ badIf (d.layout && (q.out || !q.array)) w
    ++ badIf (d.aux != 0 && !tabled d.fmt) (w + 1)
    ++ badIf (decide (d.addr % max 1 (fmtBits d.fmt / 8) ≠ 0)) (w + 2)
    ++ spanBad v d.grant (w + 2) d.addr (srows * rowBytes d.fmt scols)
    ++ (if d.block = 0 then badIf (d.raw.getD 4 0 != 0) (w + 4) ++ badIf (d.raw.getD 5 0 != 0) (w + 5)
        else badIf (!d.width8 && d.scale % 2 != 0) (w + 4)
          ++ spanBad v d.grant (w + 4) d.scale (scaleEntries d rows cols * scaleSize d))

def descBad (v : Env) (q : Pos) (w rows cols : Nat) (d : Desc) : List Nat := descBadAs v q w rows cols rows cols d

/-- A descriptor that must be absent. -/
def descAbsent (p : Packet) (w : Nat) : List Nat := zeroWords p ((List.range 6).map (· + w))

/-- A descriptor that may be absent. -/
def descMaybe (v : Env) (q : Pos) (p : Packet) (w rows cols : Nat) : List Nat :=
  if (descAt p w).present then descBad v q w rows cols (descAt p w) else descAbsent p w

/-! ## Reading -/

/-- A decoded element and its poison. -/
abbrev PEl := FV × Bool

/-- Element c of packed elements, and its poison (R88). -/
def rawAt (bits : Nat) (bs : List PByte) (c : Nat) : Nat × Bool :=
  if 8 ≤ bits then
    let b := (bs.drop (c * (bits / 8))).take (bits / 8)
    (leNat (b.map Prod.fst), anyPoison b)
  else
    let b := bs.getD (c * bits / 8) (0, false)
    (b.1.toNat / 2 ^ (c * bits % 8) % 2 ^ bits, b.2)

/-- The value of a scaled element: a scale of 0xFF makes it NaN (R105, R106). -/
def scaled (fmt : Nat) (width8 : Bool) (b e : Nat) : FV :=
  if e = 0xFF then .nan else (elValue fmt b).scale (scaleX fmt width8 e)

/-- Scale entry number i. -/
def scaleAt (d : Desc) (ss : List PByte) (i : Nat) : Nat × Bool :=
  let b := (ss.drop (i * scaleSize d)).take (scaleSize d)
  (leNat (b.map Prod.fst), anyPoison b)

/-- Where a row's scale entries start, and how many there are. -/
def rowScales (d : Desc) (cols r : Nat) : Nat × Nat :=
  let b := blockLen d.block
  if b = 0 then (0, 0) else if d.col then (r / b * cols, cols) else (r * ceilDiv cols b, ceilDiv cols b)

/-- The elements of a row from its bytes and its scale entries. -/
def decodeRow (d : Desc) (cols : Nat) (bs ss : List PByte) : List PEl :=
  (List.range cols).map fun c =>
    let a := rawAt (fmtBits d.fmt) bs c
    if d.block = 0 then (elValue d.fmt a.1, a.2)
    else
      let k := scaleAt d ss (if d.col then c else c / blockLen d.block)
      (scaled d.fmt d.width8 a.1 (k.1 % 256), a.2 || k.2)

/-- Row r of a tensor of a number of columns. -/
def readRow (s : State) (v : Env) (d : Desc) (cols r : Nat) : Except AFault (List PEl) :=
  match locRead s v d.grant (d.addr + r * rowBytes d.fmt cols) (rowBytes d.fmt cols) with
  | .error f => .error f
  | .ok bs =>
    let rs := rowScales d cols r
    match locRead s v d.grant (d.scale + rs.1 * scaleSize d) (rs.2 * scaleSize d) with
    | .error f => .error f
    | .ok ss => .ok (decodeRow d cols bs ss)

/-- Carry a reading over a list; the first fault ends it. -/
def readAll {α β : Type} (f : α → Except AFault β) : List α → Except AFault (List β)
  | [] => .ok []
  | a :: t =>
    match f a with
    | .error e => .error e
    | .ok b =>
      match readAll f t with
      | .error e => .error e
      | .ok bs => .ok (b :: bs)

def readRows (s : State) (v : Env) (d : Desc) (cols : Nat) (rs : List Nat) : Except AFault (List (List PEl)) :=
  readAll (readRow s v d cols) rs

def readT (s : State) (v : Env) (d : Desc) (rows cols : Nat) : Except AFault (List (List PEl)) :=
  readRows s v d cols (List.range rows)

/-- A whole tensor has been read: damage in it is found. -/
def detectT (v : Env) (d : Desc) (rows cols : Nat) (s : State) : State :=
  locDetect v d.grant d.scale (scaleEntries d rows cols * scaleSize d)
    (locDetect v d.grant d.addr (rows * rowBytes d.fmt cols) s)

/-- n binary32 values, or words, at a location. -/
def wordsAt (s : State) (v : Env) (grant : Bool) (addr n : Nat) : Except AFault (List (Nat × Bool)) :=
  match locRead s v grant addr (4 * n) with
  | .error f => .error f
  | .ok bs => .ok ((List.range n).map fun i => rawAt 32 bs i)

def floatsAt (s : State) (v : Env) (grant : Bool) (addr n : Nat) : Except AFault (List PEl) :=
  match wordsAt s v grant addr n with
  | .error f => .error f
  | .ok ws => .ok (ws.map fun w => (fpValue fpB32 w.1, w.2))

/-! ## What a write counts (R96, R217, R233) -/

structure Tally where
  written : Nat
  zeros : Nat
  sat : Nat
  nonfin : Nat
  poison : Nat
  maxExp : Option Int
  deriving DecidableEq, Repr

def noTally : Tally := { written := 0, zeros := 0, sat := 0, nonfin := 0, poison := 0, maxExp := none }

/-- One more element: a poisoned one counts as written only (R233). -/
def tallyEl (t : Tally) (e : El) : Tally :=
  if e.poison then { t with written := t.written + 1, poison := t.poison + 1 }
  else
    { written := t.written + 1, zeros := t.zeros + bnat e.zero, sat := t.sat + bnat e.sat, nonfin := t.nonfin + bnat e.nonfin, poison := t.poison
      maxExp := match e.val.log2, t.maxExp with
        | some l, some m => some (max l m)
        | some l, none => some l
        | none, m => m }

def noTelltale : Telltale := { owner := none, written := 0, zeros := 0, saturated := 0, nonfinite := 0, maxExp := -32768 }

def ttlOf (s : State) (n : Nat) : Telltale := kvGetD n noTelltale s.ttls

/-- The slot a descriptor names is bound to the context (R232). -/
def slotBound (s : State) (c n : Nat) : Bool := (ttlOf s n).owner == some c

/-- A write updates its slot in one atomic step (R233). -/
def updateSlot (slot : Option Nat) (t : Tally) (s : State) : State :=
  match slot with
  | none => s
  | some n =>
    let k := ttlOf s n
    let lim := 2 ^ 48 - 1
    let top : Int := match t.maxExp with
      | some e => max k.maxExp e
      | none => k.maxExp
    let k : Telltale := { k with written := satAdd lim k.written t.written, zeros := satAdd lim k.zeros t.zeros, saturated := satAdd lim k.saturated t.sat, nonfinite := satAdd lim k.nonfinite t.nonfin, maxExp := top }
    fireArmed sDSP 3 (.slot n) { s with ttls := kvSet n k s.ttls }

/-! ## Writing -/

/-- Elements as bytes (R88): the unused bits of a row's last byte are 0; a byte is poisoned with any of its elements. -/
def packEls (bits : Nat) (els : List El) : List PByte :=
  if 8 ≤ bits then els.flatMap fun e => (leBytes (bits / 8) e.bits).map fun b => (b, e.poison)
  else (chunks (8 / bits) els).map fun g =>
    (BitVec.ofNat 8 (g.foldr (fun e n => e.bits + n * 2 ^ bits) 0), g.any El.poison)

/-- One block: its elements and its scale entry. A poisoned old word under DELAYED or FIXED poisons both (R104). -/
def blockEls (d : Desc) (old : Nat × Bool) (vs : List PEl) : List El × (Nat × Bool) :=
  let w := writeBlock d.fmt d.width8 d.wmode old.1 (vs.map Prod.fst)
  let bad := d.wmode != 0 && old.2
  (List.zipWith (fun (e : El) (v : PEl) => { e with poison := v.2 || bad }) w.1 vs, (w.2, bad))

/-- Rows and columns of a list of rows exchanged. -/
def transpose {α : Type} (cols : Nat) (rows : List (List α)) : List (List α) :=
  (List.range cols).map fun c => rows.filterMap fun r => r[c]?

/-- A group of rows under one set of scale entries: a row by itself, or the rows of one COL block row. -/
def groupEls (d : Desc) (cols : Nat) (old : List (Nat × Bool)) (rows : List (List PEl)) : List (List El) × List (Nat × Bool) :=
  let b := blockLen d.block
  if b = 0 then (rows.map fun r => r.map fun v => { cvtEl d.fmt 0 v.1 with poison := v.2 }, [])
  else if d.col then
    let done := (List.zip (transpose cols rows) old).map fun (x : List PEl × (Nat × Bool)) => blockEls d x.2 x.1
    (transpose rows.length (done.map Prod.fst), done.map Prod.snd)
  else
    let done := (List.zip (chunks b (rows.headD [])) old).map fun (x : List PEl × (Nat × Bool)) => blockEls d x.2 x.1
    ([done.flatMap Prod.fst], done.map Prod.snd)

/-- What a write has come to. -/
structure WOut where
  tally : Tally
  rows : Nat
  /-- Rows that hold a poisoned element. -/
  poisonRows : Nat
  /-- Rows written: for each element, whether it was written as ±0 (R216); a poisoned element was not. -/
  zeroFlags : List (Nat × List Bool)
  fault : Option AFault
  deriving DecidableEq, Repr

def noOut : WOut := { tally := noTally, rows := 0, poisonRows := 0, zeroFlags := [], fault := none }

/-- Write the rows of one group, then its scale entries; a fault ends the writing, and rows written stay (R47). -/
def writeGroup (v : Env) (d : Desc) (cols : Nat) (g : List (Nat × List PEl)) (acc : State × WOut) : State × WOut :=
  match acc.2.fault with
  | some _ => acc
  | none =>
    let r0 := (g.headD (0, [])).1
    let rs := rowScales d cols r0
    let old := if d.wmode = 0 then .ok (List.replicate (rs.2 * scaleSize d) ((0 : Byte), false))
               else locRead acc.1 v d.grant (d.scale + rs.1 * scaleSize d) (rs.2 * scaleSize d)
    match old with
    | .error f => (acc.1, { acc.2 with fault := some f })
    | .ok ss =>
      let els := groupEls d cols ((List.range rs.2).map (scaleAt d ss)) (g.map Prod.snd)
      let done := (List.zip (g.map Prod.fst) els.1).foldl (fun (a : State × WOut) (x : Nat × List El) =>
        match a.2.fault with
        | some _ => a
        | none =>
          match locWrite v d.grant (d.addr + x.1 * rowBytes d.fmt cols) (packEls (fmtBits d.fmt) x.2) a.1 with
          | (s, some f) => (s, { a.2 with fault := some f })
          | (s, none) =>
            (s, { tally := x.2.foldl tallyEl a.2.tally, rows := a.2.rows + 1
                  poisonRows := a.2.poisonRows + bnat (x.2.any El.poison)
                  zeroFlags := a.2.zeroFlags ++ [(x.1, x.2.map fun e => e.zero && !e.poison)], fault := none })) acc
      match done.2.fault with
      | some _ => done
      | none =>
        let w := locWrite v d.grant (d.scale + rs.1 * scaleSize d)
          (els.2.flatMap fun e => (leBytes (scaleSize d) e.1).map fun b => (b, e.2)) done.1
        (w.1, { done.2 with fault := w.2 })

/-- The rows of a write in groups: one by one, or the rows of each COL block together, where a row given twice counts as given last. -/
def rowGroups (d : Desc) (rows : List (Nat × List PEl)) : List (List (Nat × List PEl)) :=
  let b := blockLen d.block
  if b = 0 || !d.col then rows.map fun r => [r]
  else
    let kept : KV (List PEl) := rows.foldl (fun (m : KV (List PEl)) r => kvSet r.1 r.2 m) []
    let bases := kept.foldl (fun (l : List Nat) r => insNat (r.1 / b) l) []
    bases.map fun i => kept.filter fun r => r.1 / b == i

/-- Write rows of a tensor, and count them in a slot. -/
def writeRows (v : Env) (d : Desc) (cols : Nat) (slot : Option Nat) (rows : List (Nat × List PEl)) (s : State) : State × WOut :=
  let r := (rowGroups d rows).foldl (fun a g => writeGroup v d cols g a) (s, noOut)
  (updateSlot slot r.2.tally r.1, r.2)

/-- Rows 0, 1, … of a tensor. -/
def numbered {α : Type} (rows : List α) : List (Nat × α) := (List.range rows.length).zip rows

def writeT (v : Env) (d : Desc) (cols : Nat) (slot : Option Nat) (rows : List (List PEl)) (s : State) : State × WOut :=
  writeRows v d cols slot (numbered rows) s

/-! ## Results -/

/-- The result of a command that ran: a fault over poison over flagged conditions, which NUMERIC_FLAGGED records whatever the status (R54, R57); an access fault puts its address and cause in CNT0 and CNT1 (R360). -/
def ranResult (fault : Option AFault) (poison numeric : Bool) (detail : BitVec 24) (c0 c1 c2 c3 : Nat) : Result :=
  let st : Byte := match fault with
    | some f => f.status
    | none => if poison then stFLT_POISON else if numeric then stFLAGGED else stOK
  let pois := poison || (fault.map AFault.status) == some stFLT_POISON
  let r : Result :=
    { status := st, detail := detail ||| dIf pois dfPOISON ||| dIf numeric dfNUMERIC
      cnt0 := sat32 c0, cnt1 := sat32 c1, cnt2 := sat32 c2, cnt3 := sat32 c3, substatus := 0 }
  match fault with
  | some f => if f.cause = 0 then r else { r with cnt0 := f.res.cnt0, cnt1 := f.res.cnt1 }
  | none => r

/-- A command that stopped at a fault before it wrote anything; a poisoned table entry is reported (R47). -/
def faulted (f : AFault) (s : State) : State × Result := (reportTable f s, ranResult (some f) false false 0 0 0 0 0)

end Sys2Proof.Machine
end

