-- ==== Sys2Proof/Machine/Accumulate.lean ====
section
/-! DEFINITION. The arithmetic of one cell: groups, runs, totals and spills on every path and in every comparison mode (R143, R154 to R167, R178 to R182). -/

namespace Sys2Proof.Machine

/-- What a cell does with its operands: multiply-add, the integer path, or a comparison mode (R162, R178). -/
inductive CellKind where
  | mma
  | int8
  | sqdiff
  | absdiff
  | maxplus
  | minplus
  deriving DecidableEq, Repr

/-- The settings that fix the order (R154, R155, R158). -/
structure Arith where
  kind : CellKind
  w : Nat
  l : Nat
  s : Nat
  k : Nat
  deriving DecidableEq, Repr

/-- An a element as a cell sees it: not computed where the zero map skips its row (R130). -/
structure AEl where
  skip : Bool
  v : FV
  poison : Bool
  deriving DecidableEq, Repr

/-- A b element: kept, or absent; an absent one with poison stands for invalid metadata (R127, R128). -/
structure BEl where
  kept : Bool
  v : FV
  poison : Bool
  deriving DecidableEq, Repr

/-- A cell between groups. -/
structure Acc where
  run : FV
  total : FV
  invalid : Bool
  poison : Bool
  deriving DecidableEq, Repr

/-- Opposite infinities among terms (R164). -/
def bothInf (vs : List FV) : Bool := vs.contains (.inf false) && vs.contains (.inf true)

/-- 0 × ∞ (R164). -/
def zeroTimesInf (a b : FV) : Bool :=
  match a, b with
  | .inf _, .fin _ m _ => m == 0
  | .fin _ m _, .inf _ => m == 0
  | _, _ => false

/-- One product or comparison term, and whether it sets the INVALID bit (R164, R180, R181). -/
def cellTerm (k : CellKind) (a b : FV) : FV × Bool :=
  match k with
  | .mma => (a.mul b, zeroTimesInf a b)
  | .int8 => (a.mul b, false)
  | .sqdiff => let t := rne fpE8M16 (a.sub b); (t.mul t, bothInf [a, b.neg])
  | .absdiff => ((rne fpE8M16 (a.sub b)).abs, bothInf [a, b.neg])
  | .maxplus => (rne fpE8M16 (a.add b), bothInf [a, b])
  | .minplus => (rne fpE8M16 (a.add b), bothInf [a, b])

/-- What a run, and a total after a spill, starts from (R154, R180). -/
def identityOf (k : CellKind) : FV :=
  match k with
  | .maxplus => .inf true
  | .minplus => .inf false
  | _ => fv0

/-- Terms joined to a value, rounded by the given rule: a sum, or a max or min, which is exact (R156, R180). -/
def joinTerms (k : CellKind) (round : FV → FV) (v : FV) (ts : List FV) : FV × Bool :=
  match k with
  | .maxplus => (ts.foldl FV.max v, false)
  | .minplus => (ts.foldl FV.min v, false)
  | _ => (round (ts.foldl FV.add v), bothInf (v :: ts))

/-- One group (R154): computed products are summed exactly and rounded once; on the integer path they go to the total (R162). -/
def groupStep (ar : Arith) (acc : Acc) (g : List (AEl × BEl)) : Acc :=
  let live := g.filter fun x => !x.1.skip
  let used := live.filter fun x => x.2.kept
  let ts := used.map fun x => cellTerm ar.kind x.1.v x.2.v
  let poison := acc.poison || used.any (fun x => x.1.poison || x.2.poison) || live.any fun x => !x.2.kept && x.2.poison
  if used.isEmpty then { acc with poison := poison }
  else if ar.kind = .int8 then { acc with total := (ts.map Prod.fst).foldl FV.add acc.total, poison := poison }
  else
    let r := joinTerms ar.kind (rne fpE8M16) acc.run (ts.map Prod.fst)
    { run := r.1, total := acc.total, invalid := acc.invalid || r.2 || ts.any Prod.snd, poison := poison }

/-- The run boundary that may fall at the end of a group (R154, R157). -/
def runBoundary (ar : Arith) (k1 : Nat) (acc : Acc) : Acc :=
  if ar.kind = .int8 then acc
  else if k1 % ar.l = 0 ∨ k1 = ar.k then
    let t := joinTerms ar.kind rne32 acc.total [acc.run]
    { run := identityOf ar.kind, total := t.1, invalid := acc.invalid || t.2, poison := acc.poison }
  else acc

/-- The k-steps of one spill interval, from logical k-step k0 with the total it starts from. -/
def accumulate (ar : Arith) (k0 : Nat) (total : FV) (ps : List (AEl × BEl)) : Acc :=
  ((chunks ar.w ps).foldl (fun (st : Nat × Acc) g =>
    let k1 := st.1 + g.length
    (k1, runBoundary ar k1 (groupStep ar st.2 g)))
    (k0, { run := identityOf ar.kind, total := total, invalid := false, poison := false })).2

/-! ## Spill entries: binary64, or int64 on the integer path (R168) -/

def int64Max : Int := 2 ^ 63 - 1
def int64Min : Int := -(2 ^ 63)

/-- The integer a finite value is. -/
def fvToInt : FV → Int
  | .fin n m e =>
    let v : Int := (m * 2 ^ e.toNat : Nat)
    if n then -v else v
  | _ => 0

/-- sat64 of R162, and whether it held the sum. -/
def sat64 (v : FV) : FV × Bool :=
  let i := fvToInt v
  if int64Max < i then (fvOfInt int64Max, true) else if i < int64Min then (fvOfInt int64Min, true) else (v, false)

def entryBits (int8 : Bool) (v : FV) : BitVec 64 := if int8 then BitVec.ofInt 64 (fvToInt v) else toB64 v
def entryValue (int8 : Bool) (b : BitVec 64) : FV := if int8 then fvOfInt b.toInt else b64 b

/-- A total joined to its spill entry, EMPTY or not (R154, R162): the value, the INVALID event, and whether sat64 held it. -/
def spillAdd (kind : CellKind) (spill : Option FV) (total : FV) : FV × Bool × Bool :=
  match spill with
  | none => (total, false, false)
  | some e =>
    if kind = .int8 then
      let r := sat64 (e.add total)
      (r.1, false, r.2)
    else
      let r := joinTerms kind rne64 e [total]
      (r.1, r.2, false)

/-- The whole accumulation of an element from its first k-step, its spill intervals joined (R154, R157, R162). -/
def dotWhole (ar : Arith) (ps : List (AEl × BEl)) : Acc :=
  ((chunks ar.s ps).foldl (fun (st : Nat × Option FV × Acc) part =>
    let a := accumulate ar st.1 (identityOf ar.kind) part
    let j := spillAdd ar.kind st.2.1 a.total
    (st.1 + part.length, some j.1,
      { run := a.run, total := j.1, invalid := st.2.2.invalid || a.invalid || j.2.1, poison := st.2.2.poison || a.poison }))
    (0, none, { run := identityOf ar.kind, total := identityOf ar.kind, invalid := false, poison := false })).2.2

/-! ## Whipping lanes (R143, R145) -/

/-- The fed sum of one k-step: rne_fp32 at each addition, then the significand width of the operand's format, the exponent unbounded. -/
def fedSum (p : Nat) (vs : List FV) : FV :=
  let v := vs.foldl (fun a x => rne32 (a.add x)) fv0
  match v with
  | .fin n m e => if m = 0 then v else let q : Int := (Nat.log2 m : Nat) + e - p
    .fin n (roundUnits m e false q) q
  | _ => v

/-- whip_tol of R145, in binary64: p fraction bits of the summed operand's format. -/
def whipTol (p l : Nat) (mag : FV) (k : Nat) : FV :=
  let add := fun (a b : FV) => rne64 (a.add b)
  let u := fvPow (-(p : Int) - 1)
  let runs := rne64 ((fvOfNat (2 * l)).scale (-17))
  let totals := rne64 ((fvOfNat (2 * (ceilDiv k l + 1))).scale (-24))
  let t := add (add (add u (fvPow (-16))) runs) totals
  add (rne64 (t.mul mag)) (rne64 ((fvOfNat k).scale (-134)))

end Sys2Proof.Machine
end

