-- ==== Sys2Proof/Machine/ArrayParams.lean ====
section
/-! DEFINITION. The parameters of array operations, and what every array reply carries of them (R116, R125, R144, R155, R158, R161, R361, R367 to R369). -/

namespace Sys2Proof.Machine

/-! ## Parameters -/

inductive ArrKind where
  | mma
  | packed
  | dist
  | selftest
  | save
  | resume
  deriving DecidableEq, Repr

/-- BF16, FP8, FP4, INT8, as the state header numbers them (R174). -/
inductive ArrPath where
  | bf16
  | fp8
  | fp4
  | int8
  deriving DecidableEq, Repr

def ArrPath.no : ArrPath → Nat
  | .bf16 => 0
  | .fp8 => 1
  | .fp4 => 2
  | .int8 => 3

/-- One problem: a whole operation, one member of a batch, or one of a packed pair. -/
structure AProb where
  uid : Nat
  env : Env
  m : Nat
  n : Nat
  a : Desc
  b : Desc
  out : Desc
  metaOff : Nat
  zmap : Option Nat
  bias : Nat
  rscale : Option Nat
  cscale : Option Nat
  slot : Option Nat
  deriving DecidableEq, Repr

/-- An array operation. -/
structure AOp where
  kind : ArrKind
  k : Nat
  path : ArrPath
  /-- The BF16 path entered under R106. -/
  r106 : Bool
  lLog : Nat
  sLog : Nat
  start : Nat
  sparse : Bool
  stage : Option Nat
  mode : Nat
  ranked : Bool
  largest : Bool
  topk : Nat
  idxVa : Nat
  stateVa : Nat
  /-- The header a STATE start has read (R174). -/
  header : List Byte
  batched : Bool
  probs : List AProb
  deriving DecidableEq, Repr

def startZERO : Nat := 0
def startBIAS : Nat := 1
def startSTATE : Nat := 2

/-- The path of a pair of operands, and whether it is entered under R106 (R116). -/
def pathOf (a b : Desc) : Option (ArrPath × Bool) :=
  let fp8 := fun (f : Nat) => f == fmtE4M3 || f == fmtE5M2
  let blockInt := fun (d : Desc) => (d.fmt == fmtI8 || d.fmt == fmtI4) && d.block != 0
  if a.fmt = fmtBF16 then
    if [fmtBF16, fmtI4, fmtU4, fmtC2, fmtC4].contains b.fmt then some (.bf16, false)
    else if b.fmt = fmtI8 ∧ b.block ≠ 0 then some (.bf16, true) else none
  else if fp8 a.fmt then
    if fp8 b.fmt || [fmtI4, fmtC2, fmtC4].contains b.fmt || (b.fmt == fmtU4 && a.fmt == fmtE4M3) then some (.fp8, false) else none
  else if a.fmt = fmtE2M1 then (if b.fmt = fmtE2M1 then some (.fp4, false) else none)
  else if blockInt a then (if blockInt b || b.fmt == fmtBF16 then some (.bf16, true) else none)
  else if a.fmt = fmtI8 ∧ b.fmt = fmtI8 ∧ b.block = 0 then some (.int8, false)
  else none

/-- Logical k-steps per cycle, dense (R155). -/
def denseW : ArrPath → Nat
  | .bf16 => 1
  | .fp8 => 2
  | .fp4 => 4
  | .int8 => 2

/-- Logical positions in a group of the sparse pattern (R125). -/
def sparseG (p : ArrPath) : Nat := 2 * denseW p

/-- The cell's arithmetic (R154, R162, R178). -/
def AOp.arith (o : AOp) : Arith :=
  { kind := if o.kind = .dist then (if o.mode = 0 then .sqdiff else if o.mode = 1 then .absdiff else if o.mode = 2 then .maxplus else .minplus)
            else if o.path = .int8 then .int8 else .mma
    w := if o.sparse then sparseG o.path else denseW o.path
    l := 2 ^ o.lLog, s := 2 ^ o.sLog, k := o.k }

/-- Does it need a working area in the spill store (R169)? -/
def AOp.needsArea (o : AOp) : Bool := decide (2 ^ o.sLog < o.k) || o.start == startSTATE

/-- Does it read or write its context's grant? Its vectors, metadata, tables and staging lie there (R119, R204). -/
def AOp.usesGrant (o : AOp) : Bool :=
  o.stage.isSome || o.sparse || o.start == startBIAS
    || o.probs.any fun p => p.a.grant || p.b.grant || (p.out.grant && o.kind != .save) || tabled p.b.fmt || p.zmap.isSome || p.rscale.isSome || p.cscale.isSome

/-- Does it read or write virtual ranges, with tracker entries (R226)? -/
def AOp.usesVirtual (o : AOp) : Bool :=
  o.start == startSTATE || o.kind == .save || o.ranked || o.probs.any fun p => !p.a.grant || !p.b.grant || !p.out.grant

/-- L and S after the defaults (R158). -/
def lResolved (f : Nat) : Nat := if f = 0 then 6 else f
def sResolved (f : Nat) : Nat := if f = 0 then 16 else f

def optOff (valid : Bool) (off : Nat) : Option Nat := if valid then some off else none

/-- The operation that words 4 on of a packet of kind MMA, DIST, SAVE or RESUME spell. -/
def plainOp (kind : ArrKind) (uid : Nat) (v : Env) (p : Packet) (header : List Byte) : AOp :=
  let a := descAt p 16
  let b := descAt p 22
  let path := (pathOf a b).getD (.bf16, false)
  let virt := !a.grant || !b.grant || pf p 7 10 9 == startSTATE
  { kind := kind, k := wd p 6, path := path.1, r106 := path.2, lLog := lResolved (pf p 7 3 0), sLog := sResolved (pf p 7 8 4)
    start := pf p 7 10 9, sparse := pb p 7 11, stage := optOff virt (wd p 8), mode := pf p 7 30 28, ranked := kind == .dist && pb p 7 31
    largest := !pb p 34 9, topk := pf p 34 8 0, idxVa := dw p 35, stateVa := dw p 14, header := header, batched := false
    probs := [{ uid := uid, env := v, m := wd p 4, n := wd p 5, a := a, b := b, out := descAt p 28, metaOff := wd p 9
                zmap := optOff (pb p 7 12) (wd p 10), bias := wd p 11, rscale := optOff (pb p 7 13) (wd p 12)
                cscale := optOff (pb p 7 14) (wd p 13), slot := optOff (pb p 7 15) (pf p 7 27 16) }] }

/-- Word w of problem record n (R368). -/
def recWord (recs : List Byte) (n w : Nat) : Nat := leAt (128 * n + 4 * w) 4 recs

def recDesc (recs : List Byte) (n w : Nat) : Desc := descOf ((List.range 6).map fun i => recWord recs n (w + i))

/-- A problem of a packed pair from its record. -/
def recProb (uid : Nat) (v : Env) (recs : List Byte) (n : Nat) : AProb :=
  let f := recWord recs n 7
  { uid := uid, env := v, m := recWord recs n 0, n := recWord recs n 1, a := recDesc recs n 8, b := recDesc recs n 14, out := recDesc recs n 20
    metaOff := recWord recs n 2, zmap := optOff (bit f 0) (recWord recs n 3), bias := recWord recs n 4
    rscale := optOff (bit f 1) (recWord recs n 5), cscale := optOff (bit f 2) (recWord recs n 6), slot := optOff (bit f 3) (fld f 15 4) }

def packedOp (uid : Nat) (v : Env) (p : Packet) (recs : List Byte) : AOp :=
  let ps := [recProb uid v recs 0, recProb uid v recs 1]
  let path := (pathOf (recDesc recs 0 8) (recDesc recs 0 14)).getD (.bf16, false)
  let virt := ps.any fun q => !q.a.grant || !q.b.grant
  { kind := .packed, k := wd p 4, path := path.1, r106 := path.2, lLog := lResolved (pf p 5 3 0), sLog := sResolved (pf p 5 8 4)
    start := pf p 5 10 9, sparse := pb p 5 11, stage := optOff virt (wd p 6), mode := 0, ranked := false, largest := true, topk := 0
    idxVa := 0, stateVa := 0, header := [], batched := false, probs := ps }

def arrKindOf (op : Nat) : ArrKind :=
  if op = 0x0401 then .mma else if op = 0x0402 then .packed else if op = 0x0403 then .dist
  else if op = 0x0410 then .save else if op = 0x0411 then .resume else .selftest

/-- Records that an array packet read before it started. -/
def recordsOf (j : Job) : List Byte :=
  match j.work with
  | .array r => r
  | _ => []

/-- The operation of one packet. -/
def jobOp (j : Job) : AOp :=
  let v : Env := { c := j.ctx, x := j.settings, reach := reachHN }
  let kind := arrKindOf j.pkt.opcode.toNat
  if kind = .packed then packedOp j.uid v j.pkt (recordsOf j) else plainOp kind j.uid v j.pkt (recordsOf j)

/-- The running operation: its packet's, or its batch's with one problem per member. -/
def runOp (s : State) (r : ArrRun) : Option AOp :=
  let js := r.uids.filterMap (jobOf s)
  match js with
  | [] => none
  | j :: _ =>
    let o := jobOp j
    if r.batched then some { o with batched := true, probs := js.flatMap fun j => (jobOp j).probs } else some o

/-! ## What every array reply carries (R150, R369) -/

/-- Is the operation's path covered by the lanes (R144)? -/
def coveredOp (o : AOp) : Bool := (o.path == .bf16 || o.path == .fp8) && !o.r106 && o.kind != .dist && o.kind != .selftest

/-- WHIP_COVERAGE of an operation under the ARR_SHAPE in force (R144, R150, R369). -/
def opCoverage (s : State) (o : AOp) : BitVec 2 :=
  let c := fld s.arr.shapeReg.toNat 4 3
  if !coveredOp o then 3
  else if o.sparse then BitVec.ofNat 2 (if c = 0 ∨ c = 1 then 1 else 3)
  else BitVec.ofNat 2 c

/-- The logical shape in force (R138). -/
def shapeNow (s : State) : Nat := s.arr.rowMap.length

def repairLatency (s : State) : Bool := s.arr.shapeReg.getLsbD 2

/-- A result with the flags of an array reply; in a packed pair the one status holds for both problems (R136, R369). -/
def arrResult (p : Packet) (detail : BitVec 24) (r : Result) : Result :=
  let r : Result := { r with detail := r.detail ||| detail }
  if arrKindOf p.opcode.toNat = .packed then
    { r with cnt3 := BitVec.ofNat 32 (r.status.toNat * 257), substatus := 3 }
  else r

/-- The reply of an operation that issued no k-step: the coverage of its path and the latency in force (R369). A rejection carries neither. -/
def arrReply (s : State) (j : Job) (r : Result) : Result :=
  match j.work with
  | .array _ =>
    if decide (0x10 ≤ r.status.toNat) && decide (r.status.toNat < 0x20) then r
    else arrResult j.pkt (arrDetail (opCoverage s (jobOp j)) (repairLatency s) 192) r
  | _ => r

/-- Bytes of the staging region (R119). -/
def stageBytes : Nat := 2 ^ 22

/-- An operation that has ended leaves its staging region open (log 2). -/
def loosenStage (o : AOp) (s : State) : State :=
  match o.stage, o.probs with
  | some z, q :: _ => loosenGrant q.env.x z stageBytes s
  | _, _ => s


end Sys2Proof.Machine
end

