-- ==== Sys2Proof/Machine/Release.lean ====
section
/-! DEFINITION. What the completion of packets lets go: barriers, grants, queues being destroyed; stopping queues and freeing contexts (R37, R62, R68, R203, R422). -/

namespace Sys2Proof.Machine

/-- Remove every producer registration of a queue (R62). -/
def unregister (g : Nat) (s : State) : State :=
  { s with hitches := kvMap (fun _ (h : Hitch) => { h with regs := h.regs.filter (· != .queue g) }) s.hitches }

/-- What a packet without a result is doing. -/
def workOf (s : State) (uid : Nat) : Option Work :=
  (jobOf s uid).bind fun (j : Job) => if j.res.isSome then none else some j.work

/-- Set a context's grant (R203). -/
def setGrant (c first count : Nat) (s : State) : State :=
  setCtx c { ctxOf s c with firstBank := first, nBanks := count } s

/-! ## Accesses of the dispatcher (R59, R61) -/

/-- A state block, ring or reply ring that cannot be accessed stops the queue (R61). -/
def readFaulted (g : Nat) (f : Option AFault) (s : State) : State :=
  ringFault g (match f with
    | some f => reportTable f s
    | none => s)

/-- CONSUMED changed: bytes 0 to 7 of the state block, a fault of which stops the queue. -/
def noteConsumed (g : Nat) (s : State) : State :=
  match writeCounts g s with
  | (s, none) => s
  | (s, some f) => readFaulted g (some f) s

/-- Bytes 8 to 19 of the state block changed. -/
def noteFlags (g : Nat) (s : State) : State :=
  match writeFlags g s with
  | (s, none) => s
  | (s, some f) => readFaulted g (some f) s

/-! ## Packets that have started -/

/-- A packet for the array that the array has not taken: ready or in a batch (R78, R80). -/
def awaitsArray (s : State) (j : Job) : Bool :=
  j.res.isNone && !(takenUids s).contains j.uid && (match j.work with
    | .array _ => true
    | _ => false)

/-- The packets of the context's queues that have started and not completed (R68, R78). -/
def openOf (s : State) (c : Nat) : List Nat :=
  (s.jobs.filter fun (j : Job) => j.ctx == c && isQueueIssue j.pkt && !awaitsArray s j).map Job.uid

/-- Is the logical bank MISSING, or counted so because its physical bank is out of service (R203, R208, R521)? -/
def bankMissing (s : State) (bank : Nat) : Bool :=
  match (s.mem.banks[bank]?).join with
  | some b => !working s (sSP b)
  | none => true

/-- Grants that CTX.MAP has accepted and not set yet: context, first bank, count (R203). -/
def pendingGrants (s : State) : List (Nat × Nat × Nat) :=
  s.jobs.filterMap fun (j : Job) => match j.res, j.work with
    | none, .grantWait c f n _ => some (c, f, n)
    | _, _ => none

/-- A grant that overlaps another context's, set or accepted, or holds a MISSING bank (R203). -/
def grantClash (s : State) (c first count : Nat) : Bool :=
  (s.ctxs.any fun kv => kv.1 != c && overlap first count kv.2.firstBank kv.2.nBanks)
    || ((pendingGrants s).any fun g => g.1 != c && overlap first count g.2.1 g.2.2)
    || (List.range count).any fun i => bankMissing s (first + i)

/-- The end of a CTX.MAP of kind SCRATCHPAD: the grant is set, unless by now its context is not LIVE or one of its banks is MISSING (R203, log 126). -/
def endGrant (uid c first count : Nat) (s : State) : State :=
  if (ctxOf s c).state != .live then finish uid (rej stREJ_CONFLICT 4) s
  else if grantClash s c first count then finish uid (rej stREJ_CONFLICT 6) s
  else finish uid okRes (setGrant c first count s)

/-- A waiting packet whose wait is over gets its result. -/
def releaseOne (j : Job) (s : State) : State :=
  if j.res.isSome then s
  else match j.work with
    | .barrier true _ => match fromQueue j.pkt.issuer with
      | some g => if earlierOpen s g j.uid then s else finish j.uid okRes s
      | none => finish j.uid okRes s
    | .barrier false waits => if anyOpen s waits then s else finish j.uid okRes s
    | .grantWait c first count waits => if anyOpen s waits then s else endGrant j.uid c first count s
    | .qDestroy g n =>
      if s.jobs.any fun k => k.uid != j.uid && k.pkt.issuer == .queue g then s
      else
        let s := updQueue g (fun q => { q with qflags := q.qflags ||| 4 }) (unregister g s)
        finish j.uid (okCnt (BitVec.ofNat 32 n) 0 0 0) (noteFlags g s)
    | .unmapWait waits r =>
      if waits.any fun w => (kvGet w.1 s.trk.entries).any fun e => e.epoch == w.2 then s else finish j.uid r s
    | _ => s

/-- Packets whose header rejects them answer as soon as the order of their queue lets them start, whichever opcode they name (R51, R67, R355). -/
def answerBad (s : State) : State :=
  s.fetched.foldl (fun (s : State) (kv : Nat × Packet) =>
    match headerVerdict s kv.2 with
    | none => s
    | some r =>
      if mayStart s kv.1 kv.2 then
        answerAtOnce kv.1 kv.2 r { s with fetched := s.fetched.filter fun x => x.1 != kv.1 }
      else s) s

/-- After a packet has completed: every wait that this ends. -/
def releaseWaits (s : State) : State := answerBad (s.jobs.foldl (fun s j => releaseOne j s) s)

/-- The value of a hitch as counters 0 and 1. -/
def hitchRes (st : Byte) (v : DWord) : Result := { resOf st with cnt0 := lo32 v, cnt1 := hi32 v }

/-- End the pending wait of a queue as at its timeout (R62, R73). -/
def endWait (g : Nat) (s : State) : State :=
  s.jobs.foldl (fun s (j : Job) =>
    match j.work with
    | .wait h _ _ _ => if j.pkt.issuer = .queue g then finish j.uid (hitchRes stFLT_TIMEOUT (hitchOf s h).value) s else s
    | _ => s) s

/-- Whole packets left in a ring, read and thrown away; their number (R62). -/
def discardRing (g : Nat) : Nat → State → State × Nat
  | 0, s => (s, 0)
  | fuel + 1, s =>
    match queueOf s g with
    | none => (s, 0)
    | some q =>
      match ringNext s g q with
      | .packet _ n =>
        let r := discardRing g fuel (updQueue g (fun q => { q with consumed := q.consumed + BitVec.ofNat 32 n }) s)
        (r.1, r.2 + 1)
      | .fault f => (readFaulted g f s, 0)
      | .empty => (s, 0)

/-- Take packets that wait for the array out of it; a batch keeps the rows of its other members (R62, R80). -/
def leaveArray (uids : List Nat) (s : State) : State :=
  let rowsOf := fun (u : Nat) => ((jobOf s u).map fun (j : Job) => wd j.pkt 4).getD 0
  { s with
    jobs := s.jobs.filter fun (j : Job) => !uids.contains j.uid
    arr := { s.arr with
      ready := s.arr.ready.filter fun u => !uids.contains u
      batches := (s.arr.batches.map fun (b : Batch) =>
        { b with members := b.members.filter fun u => !uids.contains u
                 rows := b.rows - ((b.members.filter uids.contains).map rowsOf).sum }).filter fun b => !b.members.isEmpty } }

/-- Stop dispatch from a queue: its wait ends, and its packets not started are discarded; their number (R62). -/
def stopQueue (g : Nat) (s : State) : State × Nat :=
  let s := endWait g (updQueue g (fun q => { q with stopping := true }) s)
  let waiting := (s.jobs.filter fun (j : Job) => j.pkt.issuer == .queue g && awaitsArray s j).map Job.uid
  let n := (s.fetched.filter fun kv => kv.2.issuer == .queue g).length + waiting.length
  let s := leaveArray waiting { s with fetched := s.fetched.filter fun kv => kv.2.issuer != .queue g }
  let r := discardRing g 65536 s
  (r.1, n + r.2)

/-- A context becomes FREE: queues, hitches, windows, telltale slots, grant and pool are released (R422 step 7, R418). -/
def freeCtx (c : Nat) (s : State) : State :=
  let qs := queuesOf s c
  let s := qs.foldl (fun s g => unregister g s) s
  let dead := s.jobs.filter fun (j : Job) => j.ctx == c && isQueueIssue j.pkt
  let cut := fun (r : ArrRun) => if r.uids.any (fun u => dead.any fun (j : Job) => j.uid == u) then { r with stop := some stABT_RESET } else r
  let s := mapTaken cut s
  { s with
    queues := s.queues.filter fun kv => kv.2.ctx != c
    jobs := s.jobs.filter fun (j : Job) => !(j.ctx == c && isQueueIssue j.pkt)
    fetched := s.fetched.filter fun kv => !(match kv.2.issuer with
      | .queue g => qs.contains g
      | _ => false)
    hitches := kvMap (fun _ (h : Hitch) => if h.owner = some c then { h with owner := none } else h) s.hitches
    ttls := s.ttls.filter fun kv => kv.2.owner != some c
    wins := kvMap (fun _ (w : Window) => if w.owner = c then { w with valid := false } else w) s.wins
    ctxs := kvSet c { noCtx with gen := (ctxOf s c).gen } s.ctxs }

end Sys2Proof.Machine
end

