-- ==== Sys2Proof/Machine/QueueEvents.lean ====
section
/-! DEFINITION. The dispatcher's own steps: doorbells, reading packets, and completing them with reply, state block, signal and interrupt (R52 to R56, R59 to R65, R74, R481, R487). -/

namespace Sys2Proof.Machine

/-! ## Doorbells -/

/-- The endpoint answers: out of reset, its start-up phase over, and in D0 (R464, R494). -/
def barUp (s : State) : Bool := hostUp s && decide (4 ≤ s.str.phasesDone) && !s.pci.crs

/-- An access of the host: Unsupported Request in D3hot, nothing before the endpoint answers (R464, R494). -/
def hostAccess (f : State → State) (s : State) : State :=
  if barUp s then f s
  else if s.pci.d3hot && !s.pci.inReset then pciOut .unsupported s
  else s

/-- The queue behind a doorbell: of a LIVE context, or of context 0 throughout a reset; during start-up of context 0 only (R63, R418, R494). -/
def doorbellQueue (s : State) (c q : Nat) : Option Nat :=
  if c ≠ 0 ∧ s.str.phasesDone < 8 then none
  else if (ctxOf s c).state = .live ∨ (c = 0 ∧ (ctxOf s c).state = .aborted) then
    (s.queues.find? fun kv => kv.2.ctx == c && kv.2.qindex == q).map Prod.fst
  else none

/-- Is Q.DESTROY under way or done for the queue (R62)? -/
def destroyed (s : State) (g : Nat) : Bool :=
  ((queueOf s g).map fun q => q.qflags.getLsbD 2).getD false
    || s.jobs.any fun (j : Job) => (match j.work with
      | .qDestroy h _ => h == g
      | _ => false)

/-- May the tail be accepted (R64)? -/
def tailOk (q : Queue) (tail : Word) : Bool :=
  decide ((tail - q.consumed).toNat ≤ q.ringSlots) && decide ((tail - q.lastTail).toNat ≤ q.ringSlots)

/-- An ignored doorbell value: DB_ERROR, DB_ERRORS and the context's DB_ERR bit (R64, R487). -/
def doorbellError (g : Nat) (q : Queue) (s : State) : State :=
  let s := updQueue g (fun q => { q with qflags := q.qflags ||| 1, dbErrors := satWord q.dbErrors 1 }) s
  noteFlags g { s with pci := { s.pci with dbErr := insNat q.ctx s.pci.dbErr } }

/-- A new tail for a queue (R64). -/
def ringDoorbell (g : Nat) (tail : Word) (s : State) : State :=
  match queueOf s g with
  | none => s
  | some q =>
    if destroyed s g then s
    else if tailOk q tail then
      noteFlags g (updQueue g (fun q => { q with lastTail := tail }) s)
    else doorbellError g q s

/-- DOORBELL_WRITE: a BAR2 write of 4 or 8 bytes at an offset, with what the host has stored in its own memory by then (R63 to R65, R481). -/
def execDoorbellWrite (offset size : Nat) (value : DWord) (host : HostNews) (s : State) : Host.Outcome State Fault Refusal :=
  let s := takeNews host s
  .next (hostAccess (fun s =>
    if !alive s then s
    else if offset % 8 ≠ 0 ∨ 0x200 ≤ offset % 4096 ∨ (size ≠ 4 ∧ size ≠ 8) then s
    else match doorbellQueue s (offset / 4096) (offset % 4096 / 8) with
      | some g => ringDoorbell g (lo32 value) s
      | none => s) s)

/-- What a read of BAR2 returns at a doorbell: LAST_TAIL of the queue in [31:0], and 0 elsewhere (R63). No command of the table reads BAR2; without a queue the model reads 0 (log 124). -/
def doorbellRead (s : State) (offset : Nat) : DWord :=
  if 0x200 ≤ offset % 4096 then 0
  else match s.queues.find? fun kv => kv.2.ctx == offset / 4096 && kv.2.qindex == offset % 4096 / 8 with
    | some kv => kv.2.lastTail.setWidth 64
    | none => 0

/-! ## Reading packets (R60, R61) -/

/-- The phase FENCE to RESTORE of a reset that takes the dispatcher (R417). -/
def dispatcherReset (s : State) : Bool := underReset s sIZ

/-- A packet read from a ring: it waits to start; during a reset of IZ it completes ABT_RESET at once, and a bad header answers it at once (R48, R51, R417, R418). -/
def acceptPacket (uid : Nat) (p : Packet) (s : State) : State :=
  if dispatcherReset s then
    let s := answerAtOnce uid p (resOf stABT_RESET) s
    { s with rst := { s.rst with run := s.rst.run.map fun (r : FndRun) => { r with aborted := r.aborted + 1 } } }
  else answerBad { s with fetched := s.fetched ++ [(uid, p)] }

/-- May the dispatcher read from the queue? -/
def mayFetch (s : State) (q : Queue) : Bool :=
  !q.stopping && alive s && levelH s && ((ctxOf s q.ctx).state == .live || (q.ctx == 0 && dispatcherReset s))

/-- PACKET_FETCH: one whole packet out of a ring, with what the host has stored in its own memory by then (R60, R64). -/
def execPacketFetch (gqid : Nat) (host : HostNews) (s : State) : Host.Outcome State Fault Refusal :=
  let s := takeNews host s
  .next (match queueOf s gqid with
    | none => s
    | some q =>
      if !mayFetch s q then s
      else match ringNext s gqid q with
        | .empty => s
        | .fault f => readFaulted gqid f s
        | .packet p n =>
          let (s, uid) := takeRing gqid n s
          noteConsumed gqid (acceptPacket uid p s))

/-! ## Completion (R55) -/

/-- The 32 bytes of a reply (R53, R54); that of LOG.MARK is stamped as its record is (R383). -/
def replyBytes (s : State) (j : Job) (r : Result) : List Byte :=
  let detail := if r.status = stFLAGGED then r.detail ||| dfNUMERIC else r.detail
  leBytes 4 j.pkt.seq.toNat ++ [r.status] ++ leBytes 3 detail.toNat ++ leBytes 4 r.cnt0.toNat ++ leBytes 4 r.cnt1.toNat
    ++ leBytes 4 r.cnt2.toNat ++ leBytes 4 r.cnt3.toNat ++ leBytes 2 r.substatus.toNat ++ leBytes 2 j.gen.toNat
    ++ leBytes 4 (if j.pkt.opcode = 0x0B01 then j.startMs else s.clk.uptimeMs).toNat

/-- Is a reply written (R56)? -/
def wantsReply (p : Packet) (r : Result) : Bool := !(hasFlag p flNO_REPLY && r.status == stOK)

/-- Step 1: the reply slot (R52). -/
def writeReply (q : Queue) (j : Job) (r : Result) (s : State) : State × Option AFault :=
  if wantsReply j.pkt r then
    vaWrite reachReply q.ctx (q.replyVa + 32 * (j.pkt.cookie.toNat % max q.replySlots 1)) ((replyBytes s j r).map fun b => (b, false)) s
  else (s, none)

/-- A packet ended by an abort of its context does not signal (R74): it completes with an abort status, and its context is no longer in the life it ran in. -/
def abortedWith (s : State) (j : Job) (r : Result) : Bool :=
  (r.status == stABT_RESET || r.status == stABT_SNARL) &&
    ((ctxOf s j.ctx).gen != j.gen || (ctxOf s j.ctx).state != .live)

/-- Step 3: SIGNAL_ON_DONE (R74). -/
def signalDone (q : Queue) (j : Job) (r : Result) (s : State) : State :=
  if hasFlag j.pkt flSIGNAL && !abortedWith s j r then
    match q.hitch with
    | some h => hitchAdd h 1 s
    | none => s
  else s

/-- Step 4: IRQ_ON_DONE. -/
def irqDone (q : Queue) (j : Job) (s : State) : State :=
  if hasFlag j.pkt flIRQ then
    match q.msix with
    | some v => raiseMsix v s
    | none => s
  else s

/-- Report a fault of the reply ring or the state block once (R61). -/
def completionFault (g : Nat) (f : Option AFault) (s : State) : State :=
  match f with
  | none => s
  | some f =>
    if ((queueOf s g).map fun q => q.qflags.getLsbD 1).getD true then s else ringFault g (reportTable f s)

/-- A queue destroyed by this packet is free from its reply (R62). -/
def freeDestroyed (j : Job) (r : Result) (s : State) : State :=
  if j.pkt.opcode = 0x0121 ∧ r.status = stOK then { s with queues := kvErase (pf j.pkt 4 13 0) s.queues } else s

/-- Completion of a packet of a queue: reply, state block, hitch, message, in this order (R55). -/
def completeQueue (g : Nat) (j : Job) (r : Result) (s : State) : State :=
  match queueOf s g with
  | none => releaseWaits (dropJob j.uid s)
  | some q =>
    let w := writeReply q j r s
    let s := updQueue g (fun q => { q with done := q.done + 1 }) w.1
    let c := writeCounts g s
    let s := signalDone q j r (dropJob j.uid c.1)
    let s := irqDone q j s
    let s := completionFault g (if w.2.isSome then w.2 else c.2) s
    releaseWaits (freeDestroyed j r s)

/-- The vendor message of a reply: after the type byte, VENDOR_ID, KIND PACKET_RSP, TAG, three zeros, reply and data (R457). -/
def packetRsp (tag : Byte) (reply data : List Byte) : List Byte :=
  [0x7E] ++ leBytes 2 0x1F6E ++ [1, tag] ++ zeros 3 ++ reply ++ data

/-- Completion of a packet of the management port: PACKET_RSP, and the port is free (R457, R458). -/
def completePort (tag : Byte) (j : Job) (r : Result) (s : State) : State :=
  let s := { s with mgt := { s.mgt with
    out := s.mgt.out ++ [.packetRsp tag (replyBytes s j r) j.data]
    busyUid := if s.mgt.busyUid = some j.uid then none else s.mgt.busyUid } }
  releaseWaits (dropJob j.uid s)

/-- Completion of a packet that MGT_REQ carried: MGT_RSP, over the link it came on when it was sent LOCAL_ONLY; it echoes the context, generation and tag of the request (R345, R352). -/
def completeLink (dev : BitVec 14) (ctx gen : BitVec 16) (xferTag : Word) (tag : Byte) (back : Option Nat) (j : Job) (r : Result) (s : State) : State :=
  let m := { blankMsg with kind := 0x85, srcDev := ownDev s, srcCtx := ctx, srcGen := gen, xferTag := xferTag, data := packetRsp tag (replyBytes s j r) j.data }
  let s := match back with
    | some l => enqueue l 3 { dest := dev.toNat, hops := 1, localOnly := true, bytes := msgBytes m, origin := none } s
    | none => (sendMsg 3 dev.toNat m s).1
  releaseWaits (dropJob j.uid s)

/-- PACKET_COMPLETE: all writes of a finished packet have landed (R55). A mailbox packet completes by MBOX_DONE (R492). -/
def execPacketComplete (uid : Nat) (s : State) : Host.Outcome State Fault Refusal :=
  .next (met s (match jobOf s uid with
    | none => s
    | some j =>
      match j.res with
      | none => s
      | some r =>
        let r := arrReply s j r
        match j.pkt.issuer with
        | .queue g => let t := completeQueue g j r s; if tackleBusy t then noteReady t else t
        | .port tag => completePort tag j r s
        | .link dev c g x tag back => completeLink dev c g x tag back j r s
        | .mbox => s))

end Sys2Proof.Machine
end

