-- ==== Sys2Proof/Machine/Registers.lean ====
section
/-! DEFINITION. The register map behind BAR0 and control space: what each offset reads and what a write does (R5 to R7, R152, R170, R230, R238, R251, R256, R268, R323, R336, R351, R353, R391, R392, R401, R421, R434, R482 to R494). -/

namespace Sys2Proof.Machine

/-! ## Units (R483) and what is held in a reset (R494) -/

inductive RegUnit where
  | mg
  | iz
  | mb (n : Nat)
  | tk
  /-- The routing table window, which MB0 to MB3 hold (R493). -/
  | routes
  deriving DecidableEq, Repr

/-- The unit that holds the register at an offset. -/
def regUnit (off : Nat) : RegUnit :=
  if 0x4000 ≤ off ∧ off < 0x6000 then .iz
  else if 0x6100 ≤ off ∧ off < 0x6200 then .iz
  else if 0x6200 ≤ off ∧ off < 0x6280 then .mb ((off - 0x6200) / 32)
  else if 0x6280 ≤ off ∧ off < 0x6300 then .iz
  else if 0x6300 ≤ off ∧ off < 0x6360 then .tk
  else if off = 0x7000 then .tk
  else if 0x8020 ≤ off ∧ off < 0x8030 then .mb ((off - 0x8020) / 4)
  else if 0x8100 ≤ off ∧ off < 0x8180 then .mb ((off - 0x8100) / 32)
  else if 0x8200 ≤ off ∧ off < 0x8280 then .mb ((off - 0x8200) / 32)
  else if 0x8400 ≤ off ∧ off < 0x8600 then .mb ((off - 0x8400) / 128)
  else if 0x100000 ≤ off ∧ off < 0x108000 then .routes
  else .mg

/-- The depth-1 strands that hold a unit's registers; none for the management domain. -/
def unitStrands : RegUnit → List Strand
  | .mg => []
  | .iz => [sIZ]
  | .mb n => [sMB n]
  | .tk => [sTK]
  | .routes => (List.range 4).map sMB

/-- Under a reset from STOP to the end of RESTORE the register is held; before its unit is admitted it reads its reset value too. The routing window is held once every bridge die is: one that misses a write receives it at RESTORE (R465, R493, R494). -/
def unitHeld (s : State) (u : RegUnit) : Bool :=
  u != .mg && ((unitStrands u).all (fun p => decide (3 ≤ phaseAt s p)) || decide (s.str.phasesDone < 7))

/-! ## Link registers (R353) -/

def linkStateCode (s : State) (l : Nat) : Nat :=
  if fenced s (sL l) then 3
  else match (linkOf s l).state with
    | .down => 0
    | .training => 1
    | .up => 2
    | .fenced => 3

def lnkStatus (s : State) (l : Nat) : Nat :=
  let k := linkOf s l
  let lanes := (linkLanes s l).take 4
  let fencedLane := ((List.range 5).find? fun n => fenced s (sLANE l n)).getD 7
  2 ^ 30 * linkStateCode s l + 2 ^ 29 * bnat (lanes.contains 4) + 2 ^ 26 * fencedLane + 2 ^ 16 * k.rtt.toNat + k.retrains.toNat * 2 ^ 8

def lnkPeer (s : State) (l : Nat) : Nat :=
  let k := linkOf s l
  2 ^ 31 * bnat k.peerValid + 2 ^ 30 * bnat k.peerDev.isSome + ((k.peerDev.map BitVec.toNat).getD 0) * 2 ^ 5 + k.peerLink.toNat

def lnkCred (s : State) (l v : Nat) : Nat :=
  let c := (linkOf s l).vcs.getD v Vc.initial
  c.rxHeld * 2 ^ 9 + c.txAvail

/-! ## Other register values -/

/-- VERSION of an image (R468). -/
def imageVersion (img : List Byte) : Nat := leAt 12 4 img

def runningImage (s : State) : List Byte := if s.fw.runB then s.fw.slotB else s.fw.slotA

def fwVersion (s : State) : Nat := if s.str.phasesDone < 2 ∨ s.fw.bootFailed then 0 else imageVersion (runningImage s)

def errSummary (s : State) : Nat :=
  2 ^ 28 * summary s [] + ((List.range 7).map fun i => 2 ^ (4 * i) * summary s [i]).sum

def errStrand (s : State) : Nat :=
  match strandOf s.str.errSel.toNat with
  | none => 0
  | some p =>
    let x := sourcesOf s p
    2 ^ 61 * stopperCode s p + 2 ^ 60 + 2 ^ 56 * summary s p + 2 ^ 48 * min 255 x.fenceEvents + x.sticky.toNat

def errCount (s : State) (n : Nat) : Nat :=
  match strandOf s.str.errSel.toNat with
  | none => 0
  | some p => kvGetD n 0 (sourcesOf s p).counts

def rstStatus (s : State) : Nat :=
  2 ^ 29 * s.rst.phase + 2 ^ 26 * s.rst.target + 2 ^ 25 * bnat s.rst.escalated + 2 ^ 24 * bnat s.rst.done + s.rst.resets % 2 ^ 16

def captStatus (s : State) : Nat :=
  2 ^ 31 * bnat s.capt.cur.isSome + 2 ^ 30 * bnat s.capt.held + 2 ^ 29 * bnat s.capt.inSram + 2 ^ 16 * s.capt.missed + s.capt.no.toNat % 2 ^ 16

def spillSplit (s : State) : Nat :=
  2 ^ 31 * bnat (s.arr.splitReq != s.arr.splitApplied) + 2 ^ 16 * s.arr.splitApplied.toNat + s.arr.splitReq.toNat

def splSlots (s : State) : Nat := 2 ^ 16 * slotsHeld s + slotsTotal s

/-- A TKL command runs: TKL.STEP, the only one that takes more than one step here. -/
def tkStatus (s : State) : Nat :=
  2 ^ 31 * bnat s.tkl.run.isSome + 2 ^ 30 * bnat s.tkl.incomplete + 2 ^ 20 * s.tkl.incGroup + (tackleLanes s).length * 2 ^ 13
    + bnat s.tkl.owner.isSome * 2 ^ 12 + s.tkl.owner.getD 0

def serviceLevel (s : State) : Nat :=
  2 ^ 31 * bnat s.str.deviceErr + 2 ^ 16 * s.str.lost.toNat + s.str.faultLevels.toNat * 2 ^ 8 + s.str.held.toNat

def placeReg (s : State) (n : Nat) : Nat := ((List.range 32).map fun b => if s.mem.stacked.contains (32 * n + b) then 2 ^ b else 0).sum

def dbErrReg (s : State) (n : Nat) : Nat := ((List.range 32).map fun b => if s.pci.dbErr.contains (32 * n + b) then 2 ^ b else 0).sum

def mboxBase : Nat := 0x10000
def routeBase : Nat := 0x100000
def msixBase : Nat := 0x1000000
def pbaBase : Nat := 0x1008000

def msixWord (s : State) (o : Nat) : Nat :=
  let e := kvGetD (o / 16) msixDefault s.pci.msix
  match o / 4 % 4 with
  | 0 => e.addr.toNat % 2 ^ 32
  | 1 => e.addr.toNat / 2 ^ 32
  | 2 => e.data.toNat
  | _ => bnat e.masked

/-- The half of a 64-bit register that an offset names. -/
def halfOf (v off : Nat) : Nat := if off % 8 = 0 then v % 2 ^ 32 else v / 2 ^ 32

/-- The register value at an aligned offset (R483 to R493). -/
def regValue (s : State) (off : Nat) : Nat :=
  if off = 0x0 then 0x49041F6E
  else if off = 0x4 then 0xB0
  else if off = 0x8 then fwVersion s
  else if off = 0xC then 0xFFF * 2 ^ 20 + 0x7FF * 2 ^ 9 + 0x20
  else if off = 0x10 then 2 ^ 16 * s.pci.apertureDrops + bnat s.pci.apertureDrop * 2 + bnat s.pci.badAccess
  else if off = 0x1000 then s.pci.irqStatus.toNat
  else if off = 0x1004 then s.pci.irqEnable.toNat
  else if off = 0x1008 then s.pci.irqVector.toNat
  else if off = 0x2000 then serviceLevel s
  else if off = 0x2004 then errSummary s
  else if off = 0x2008 ∨ off = 0x200C then halfOf s.str.errSel.toNat off
  else if off = 0x2010 ∨ off = 0x2014 then halfOf (errStrand s) off
  else if 0x2040 ≤ off ∧ off < 0x2080 then errCount s ((off - 0x2040) / 4)
  else if off = 0x3000 then rstStatus s
  else if off = 0x3004 then s.capt.ctl.toNat
  else if off = 0x3008 then captStatus s
  else if off = 0x4000 then s.arr.shapeReg.toNat
  else if off = 0x4004 then spillSplit s
  else if off = 0x4008 then splSlots s
  else if off = 0x5000 then s.trk.entries.length
  else if off = 0x5004 then staleCount s
  else if off = 0x5008 then s.trk.lateDrops.toNat
  else if off = 0x6000 then memStatus s
  else if 0x6100 ≤ off ∧ off < 0x6200 then placeReg s ((off - 0x6100) / 4)
  else if 0x6200 ≤ off ∧ off < 0x6280 then halfOf (thRsv s ((off - 0x6200) / 8)) off
  else if 0x6280 ≤ off ∧ off < 0x6300 then halfOf (tnRsv s ((off - 0x6280) / 8)) off
  else if 0x6300 ≤ off ∧ off < 0x6360 then halfOf (tsRsv s ((off - 0x6300) / 8)) off
  else if off = 0x7000 then tkStatus s
  else if off = 0x8000 then 2 ^ 31 * bnat s.lnk.deviceIdValid + s.lnk.deviceId.toNat
  else if 0x8010 ≤ off ∧ off < 0x8020 then (s.lnk.fmgr.getD ((off - 0x8010) / 4) 0).toNat
  else if 0x8020 ≤ off ∧ off < 0x8030 then (s.lnk.drops.getD ((off - 0x8020) / 4) 0).toNat
  else if 0x8100 ≤ off ∧ off < 0x8180 then lnkStatus s ((off - 0x8100) / 4)
  else if 0x8200 ≤ off ∧ off < 0x8280 then lnkPeer s ((off - 0x8200) / 4)
  else if 0x8400 ≤ off ∧ off < 0x8600 then lnkCred s ((off - 0x8400) / 16) ((off - 0x8400) / 4 % 4)
  else if 0x9000 ≤ off ∧ off < 0x9200 then dbErrReg s ((off - 0x9000) / 4)
  else if off = 0xA000 ∨ off = 0xA004 then halfOf (2 ^ 30 * s.pci.base) off
  else if off = mboxBase then 2 ^ 31 * bnat s.pci.mboxBusy + 2 ^ 30 * bnat s.pci.mboxDone
  else if mboxBase < off ∧ off < mboxBase + 0x10000 then leNat (cellRead (off - mboxBase) 4 s.pci.mbox)
  else if routeBase ≤ off ∧ off < routeBase + 0x8000 then
    let d := (off - routeBase) / 2
    (kvGetD d 0 s.lnk.routing).toNat + 2 ^ 16 * (kvGetD (d + 1) 0 s.lnk.routing).toNat
  else if msixBase ≤ off ∧ off < msixBase + 0x8000 then msixWord s (off - msixBase)
  else if pbaBase ≤ off ∧ off < pbaBase + 0x100 then
    ((List.range 32).map fun b => if s.pci.pending.contains ((off - pbaBase) * 8 + b) then 2 ^ b else 0).sum
  else 0

/-- The Reset column of a register that is not all zeros. -/
def regReset (off : Nat) : Nat :=
  if off = 0x4000 then 0x1B
  else if off = 0x4004 then 0x40004
  else if off = 0x4008 then 0x1800
  else if 0x8100 ≤ off ∧ off < 0x8180 then 0x1C000000
  else 0

/-- Read 4 bytes at an aligned offset. -/
def barRead (s : State) (off : Nat) : Word :=
  BitVec.ofNat 32 (if unitHeld s (regUnit off) then regReset off else regValue s off)

/-! ## Writes -/

/-- IRQ_ENABLE: a 1 written where the status bit is 1 sends a message (R488). -/
def writeIrqEnable (v : Word) (s : State) : State :=
  let e : BitVec 9 := v.setWidth 9
  let s := { s with pci := { s.pci with irqEnable := e } }
  (List.range 9).foldl (fun s n =>
    if e.getLsbD n && s.pci.irqStatus.getLsbD n then raiseMsix s.pci.irqVector.toNat s else s) s

/-- DEVICE_ID: set once per power cycle (R351). -/
def setDeviceId (id : BitVec 14) (s : State) : State :=
  if s.lnk.deviceIdValid then s
  else recordService (evalLevels { s with lnk := { s.lnk with deviceId := id, deviceIdValid := true } })

/-- SPILL_SPLIT.ARRAY_MIB: 17 to 31 are reserved (R5, R170). -/
def writeSpillSplit (v : Word) (s : State) : State :=
  if 16 < v.toNat % 32 then s else { s with arr := { s.arr with splitReq := v.setWidth 5 } }

/-- One routing entry: a reserved port code leaves its field unchanged (R5, R336). -/
def routeEntry (old new : BitVec 16) : BitVec 16 :=
  let f := fun (hi lo : Nat) => if fld new.toNat hi lo ≤ 0x20 then fld new.toNat hi lo else fld old.toNat hi lo
  BitVec.ofNat 16 (2 ^ 14 * (new.toNat / 2 ^ 14) + f 11 6 * 2 ^ 6 + f 5 0)

/-- Write routing entry d in all four tables (R336, R493). -/
def writeRoute (d : Nat) (v : BitVec 16) (s : State) : State :=
  let e := routeEntry (kvGetD d 0 s.lnk.routing) v
  { s with lnk := { s.lnk with routing := if e = 0 then kvErase d s.lnk.routing else kvSet d e s.lnk.routing } }

/-- APERTURE.BASE: accepted when the window is aligned and lies in tier H or tier N (R491). -/
def writeBase (b : Nat) (s : State) : State :=
  let lo := 2 ^ 30 * b
  let size := 2 ^ (30 + s.pci.bar4Log)
  if lo % size = 0 ∧ (lo + size ≤ paN ∨ (paN ≤ lo ∧ lo + size ≤ paNEnd)) then { s with pci := { s.pci with base := b } } else s

/-- ERR_STRAND.STICKY: write 1 to clear (R391). -/
def clearSticky (v : Word) (s : State) : State :=
  match strandOf s.str.errSel.toNat with
  | none => s
  | some p =>
    let x := sourcesOf s p
    { s with str := { s.str with sources := kvSet (strandId p) { x with sticky := x.sticky &&& ~~~ v.setWidth 16 } s.str.sources } }

/-- CAPT_CTL: the enables, and TRIGGER (R430, R434). -/
def writeCaptCtl (v : Word) (s : State) : State :=
  let s := { s with capt := { s.capt with ctl := v.setWidth 4 } }
  if v.getLsbD 4 then startCapture (plainCapture 4 0) s else s

/-- MBOX_CTL: DONE is cleared by a 1; GO starts the request unless BUSY, while IZ/MG and IZ/PCI work (R492). -/
def mboxStart (s : State) : State :=
  if s.pci.mboxBusy || !alive s || fenced s sPCI then s
  else
    let words := (List.range 64).map fun w => BitVec.ofNat 32 (leNat (cellRead (0x100 + 4 * w) 4 s.pci.mbox))
    let p := packetOfWords .mbox words
    answerBad { s with
      pci := { s.pci with mboxBusy := true, mboxUid := some s.nextUid }
      fetched := s.fetched ++ [(s.nextUid, p)], nextUid := s.nextUid + 1 }

def writeMboxCtl (v : Word) (s : State) : State :=
  let s := if v.getLsbD 30 then { s with pci := { s.pci with mboxDone := false } } else s
  if v.getLsbD 0 then mboxStart s else s

/-- One 4-byte piece of the MSI-X table. -/
def writeMsix (o : Nat) (v : Word) (s : State) : State :=
  let n := o / 16
  let e := kvGetD n msixDefault s.pci.msix
  let put := fun (e : MsixEntry) (s : State) => { s with pci := { s.pci with msix := kvSet n e s.pci.msix } }
  match o / 4 % 4 with
  | 0 => put { e with addr := BitVec.ofNat 64 (2 ^ 32 * (e.addr.toNat / 2 ^ 32) + v.toNat) } s
  | 1 => put { e with addr := BitVec.ofNat 64 (e.addr.toNat % 2 ^ 32 + 2 ^ 32 * v.toNat) } s
  | 2 => put { e with data := v } s
  | _ => if v.getLsbD 0 then put { e with masked := true } s else unmaskMsix n s

/-- Write 4 bytes at an aligned offset. -/
def barWrite (off : Nat) (v : Word) (s : State) : State :=
  if unitHeld s (regUnit off) then s
  else if off = 0x10 then
    { s with pci := { s.pci with badAccess := s.pci.badAccess && !v.getLsbD 0, apertureDrop := s.pci.apertureDrop && !v.getLsbD 1 } }
  else if off = 0x1000 then { s with pci := { s.pci with irqStatus := s.pci.irqStatus &&& ~~~ v.setWidth 9 } }
  else if off = 0x1004 then writeIrqEnable v s
  else if off = 0x1008 then { s with pci := { s.pci with irqVector := v.setWidth 11 } }
  else if off = 0x2000 then
    drivePins { s with str := { s.str with lost := s.str.lost &&& ~~~ (v >>> 16).setWidth 5, faultLevels := (v >>> 8).setWidth 5 } }
  else if off = 0x2008 then { s with str := { s.str with errSel := BitVec.ofNat 64 (2 ^ 32 * (s.str.errSel.toNat / 2 ^ 32) + v.toNat) } }
  else if off = 0x200C then { s with str := { s.str with errSel := BitVec.ofNat 64 (s.str.errSel.toNat % 2 ^ 32 + 2 ^ 32 * v.toNat) } }
  else if off = 0x2010 then clearSticky v s
  else if off = 0x3000 then { s with rst := { s.rst with done := s.rst.done && !v.getLsbD 24 } }
  else if off = 0x3004 then writeCaptCtl v s
  else if off = 0x3008 then { s with capt := { s.capt with held := s.capt.held && !v.getLsbD 30 } }
  else if off = 0x4004 then writeSpillSplit v s
  else if off = 0x7000 then { s with tkl := { s.tkl with incomplete := s.tkl.incomplete && !v.getLsbD 30 } }
  else if off = 0x8000 then setDeviceId (v.setWidth 14) s
  else if 0x8010 ≤ off ∧ off < 0x8020 then
    { s with lnk := { s.lnk with fmgr := setAt ((off - 0x8010) / 4) (fun _ => v &&& 0x80003FFF) s.lnk.fmgr } }
  else if 0x9000 ≤ off ∧ off < 0x9200 then
    { s with pci := { s.pci with dbErr := s.pci.dbErr.filter fun c => !(c / 32 == (off - 0x9000) / 4 && v.getLsbD (c % 32)) } }
  else if off = 0xA000 then writeBase (s.pci.base / 4 * 4 + v.toNat / 2 ^ 30) s
  else if off = 0xA004 then writeBase (v.toNat % 2 ^ 16 * 4 + s.pci.base % 4) s
  else if off = mboxBase then writeMboxCtl v s
  else if mboxBase + 0x100 ≤ off ∧ off < mboxBase + 0x200 then
    { s with pci := { s.pci with mbox := cellWrite (off - mboxBase) (leBytes 4 v.toNat) s.pci.mbox } }
  else if routeBase ≤ off ∧ off < routeBase + 0x8000 then
    let d := (off - routeBase) / 2
    writeRoute (d + 1) ((v >>> 16).setWidth 16) (writeRoute d (v.setWidth 16) s)
  else if msixBase ≤ off ∧ off < msixBase + 0x8000 then writeMsix (off - msixBase) v s
  else s

/-- Write 8 bytes at an aligned offset: a 64-bit register as one, else both halves (R482). -/
def barWrite8 (off : Nat) (v : DWord) (s : State) : State :=
  if off = 0x2008 then { s with str := { s.str with errSel := v } }
  else if off = 0xA000 then writeBase (fld v.toNat 47 30) s
  else barWrite (off + 4) (hi32 v) (barWrite off (lo32 v) s)

/-- Is a BAR0 access of a size R482 allows? -/
def barAccessOk (off size : Nat) : Bool := (size == 4 || size == 8) && decide (off % size = 0) && decide (off + size ≤ 0x4000000)

/-- A write of BAR0 or control space, or BAD_ACCESS (R482). -/
def barStore (off size : Nat) (v : DWord) (s : State) : State :=
  if !barAccessOk off size then badAccess s
  else if size = 8 then barWrite8 off v s else barWrite off (lo32 v) s

/-- The pieces of a control-space access, at 8-byte boundaries: offset and length (R482). -/
def controlPieces (off n : Nat) : List (Nat × Nat) :=
  (List.range (ceilDiv (n + off % 8) 8)).map fun i =>
    let lo := max off ((off / 8 + i) * 8)
    (lo, min (off + n) ((off / 8 + i + 1) * 8) - lo)

/-- Read control space: pieces that R482 does not carry out read 0 and set BAD_ACCESS. -/
def controlRead (off n : Nat) (s : State) : State × List Byte :=
  (controlPieces off n).foldl (fun (acc : State × List Byte) p =>
    if barAccessOk p.1 p.2 then
      let v := if p.2 = 8 then leBytes 4 (barRead acc.1 p.1).toNat ++ leBytes 4 (barRead acc.1 (p.1 + 4)).toNat
        else leBytes 4 (barRead acc.1 p.1).toNat
      (acc.1, acc.2 ++ v)
    else (badAccess acc.1, acc.2 ++ zeros p.2)) (s, [])

/-- Write control space piece by piece (R482). -/
def controlWrite (off : Nat) (bs : List Byte) (s : State) : State :=
  (controlPieces off bs.length).foldl (fun s p =>
    barStore p.1 p.2 (BitVec.ofNat 64 (leNat ((bs.drop (p.1 - off)).take p.2))) s) s

end Sys2Proof.Machine
end

