-- ==== Sys2Proof/Machine/Transfers.lean ====
section
/-! DEFINITION. The tracker and the transfer engines: commands cut into pieces and transfers, their two ends, and what a reply, a completion or a timeout does (R46, R221 to R231, R253, R346 to R349, R365, R366, R494). -/

namespace Sys2Proof.Machine

/-! ## Engines (R221, R222, R224) -/

/-- Transfer engines that take pieces: in service and not on STANDBY. -/
def activeEngines (s : State) : List Nat :=
  (List.range 34).filter fun n => working s (sXE n) && !underReset s (sXE n) && !s.str.standby.contains (strandId (sXE n))

def busyEngines (s : State) : List Nat :=
  s.jobs.flatMap fun j => match xferOf j with
    | some x => x.engines.map XferEngine.no
    | none => []

def freeEngine (s : State) : Option Nat := (activeEngines s).find? fun n => !(busyEngines s).contains n

def Xfer.total (x : Xfer) : Nat := x.rows * x.rowBytes

/-- Is a piece, or a part handed back, still to be given to an engine? -/
def Xfer.piecesLeft (x : Xfer) : Bool := !x.back.isEmpty || decide (x.nextPiece < x.total)

/-- Does a command other than XFR.PREFETCH wait for an engine? -/
def othersWait (s : State) : Bool :=
  s.jobs.any fun j => match xferOf j with
    | some x => !x.prefetch && x.stop.isNone && x.piecesLeft && decide (x.engines.length < 16)
    | none => false

/-- An engine takes the next part: one handed back, else the next piece (R222). -/
def Xfer.handOut (n : Nat) (x : Xfer) : Xfer :=
  match x.back with
  | p :: t => { x with back := t, engines := x.engines ++ [{ no := n, next := p.1, last := p.2, tid := none }] }
  | [] =>
    let last := min x.total (x.nextPiece + 2 ^ 20)
    { x with nextPiece := last, engines := x.engines ++ [{ no := n, next := x.nextPiece, last := last, tid := none }] }

/-- A prefetch leaves an engine to the commands that wait for one; the rest of its piece is handed back (R221). -/
def Xfer.leave (e : XferEngine) (x : Xfer) : Xfer :=
  { x with engines := x.engines.filter (fun g => g.no != e.no), back := x.back ++ [(e.next, e.last)] }

def setEngine (uid n : Nat) (f : XferEngine → XferEngine) (s : State) : State :=
  setXfer uid (fun x => { x with engines := x.engines.map fun e => if e.no = n then f e else e }) s

/-! ## Tracker entries (R225 to R227) -/

/-- The strand that a tracked request is destined for (R228, R519). -/
def destStrand (s : State) (e : Entry) : Option Strand :=
  match e.req with
  | .memRead => (storeOf s e.pa).map fun x => x.2.1
  | .memWrite => (storeOf s e.pa).map fun x => x.2.1
  | .hostRead => some sPCI
  | .hostHeld _ => some sPCI
  | .peer d => match route s d.toNat with
    | .link l => some (sL l)
    | _ => none

/-- Entry data as bytes with poison. -/
def entryData (e : Entry) : List PByte := e.data.zip (e.poison ++ List.replicate e.data.length false)

/-- The 8-byte poison bitmap of bytes (R345). -/
def wordPoison (bs : List PByte) : List Bool := (chunks 8 bs).map anyPoison

/-- Bytes with the poison of a bitmap over 8-byte words. -/
def withBitmap (data : List Byte) (bits : List Bool) : List PByte :=
  (List.range data.length).map fun i => (data.getD i 0, bits.getD (i / 8) false)

/-! ## One transfer -/

/-- The address of a byte of a row at one end. -/
def endAddr (e : XEnd) (stride row off : Nat) : Nat :=
  match e with
  | .va a => a + row * stride + off
  | .grant o => o + row * stride + off
  | .window _ _ _ o => o + row * stride + off
  | .pattern _ => 0

/-- Bytes of the transfer at a position: up to the row's end, the piece's end and the next 4 KiB boundary of each end (R222). -/
def xferLen (x : Xfer) (pos last : Nat) : Nat :=
  let row := pos / max x.rowBytes 1
  let off := pos % max x.rowBytes 1
  let room := fun (e : XEnd) (stride : Nat) => match e with
    | .pattern _ => 4096
    | _ => 4096 - endAddr e stride row off % 4096
  min (min (x.rowBytes - off) (last - pos)) (min (room x.src x.srcStride) (room x.dst x.dstStride))

/-- Where a transfer's end lies after translation. -/
inductive Leg where
  | pattern (v : DWord)
  | grant (off : Nat)
  | host (pasid : Option (BitVec 20)) (addr : Nat)
  | control (off : Nat)
  | device (pa : Nat)
  | window (dev : BitVec 14) (win : BitVec 13) (epoch : Byte) (off : Nat)
  deriving DecidableEq, Repr

/-- Translate one end for a read or a write of n bytes within a 4 KiB page (R47, R221, R249). A failure gives the result, and the fault of the walk that is to be reported. -/
def legOf (s : State) (j : Job) (e : XEnd) (addr n : Nat) (write : Bool) : Except (Result × Option AFault) Leg :=
  match e with
  | .pattern v => .ok (.pattern v)
  | .grant _ => .ok (.grant addr)
  | .window d w ep _ => if 2 ^ 48 < addr + n then .error (windowRes stFLT_ACCESS 8 addr, none) else .ok (.window d w ep addr)
  | .va _ =>
    match translateFor s reachXfer j.ctx addr write with
    | .error f => .error (f.res, some f)
    | .ok l =>
      if l.host then .ok (.host l.pasid l.addr)
      else if region l.addr = .control then .ok (.control (l.addr - paControl))
      else if backedRange s l.addr n then .ok (.device l.addr)
      else .error (resOf stFLT_FENCED, none)

/-- A transfer that cannot go on: its fault is reported, and the command stops. -/
def failLeg (uid n : Nat) (tid : Option Nat) (r : Result × Option AFault) (s : State) : State :=
  failTransfer uid n tid r.1 (match r.2 with
    | some f => reportTable f s
    | none => s)

/-- Is the end's data a tracked request (R226)? -/
def tracked (e : XEnd) : Bool :=
  match e with
  | .va _ => true
  | .window _ _ _ _ => true
  | _ => false

/-- A transfer's last request is done: its entry is freed, its poisoned words are counted, and the engine goes on (R226, R231). -/
def endTransfer (uid n : Nat) (tid : Option Nat) (dstAddr len : Nat) (bs : List PByte) (s : State) : State :=
  let s := match tid with
    | some t => freeEntry t s
    | none => s
  let bad := if anyPoison bs then poisonedWords dstAddr bs else []
  setEngine uid n (fun e => { e with next := e.next + len, tid := none })
    (setXfer uid (fun x => { x with poisonWords := bad.foldl (fun l w => insNat w l) x.poisonWords, poisonSeen := x.poisonSeen || anyPoison bs }) s)

/-- Hold the entry of a transfer with what it waits for now, taking one where it has none. -/
def holdEntry (j : Job) (n : Nat) (tid : Option Nat) (req : Req) (row off len pa : Nat) (bs : List PByte) (s : State) : State × Nat :=
  match tid.bind fun t => (kvGet t s.trk.entries).map fun e => (t, e) with
  | some (t, e) =>
    ({ s with trk := { s.trk with entries := kvSet t { e with req := req, pa := pa, data := bs.map Prod.fst, poison := bs.map Prod.snd } s.trk.entries } }, t)
  | none => takeEntry j (sXE n) req row off len pa bs s

/-- The engine waits on the entry just taken; one that a failure retired at once ends the transfer as at its timeout (R228, R396). -/
def flyEntry (j : Job) (n : Nat) (h : State × Nat) : State :=
  if (kvGet h.2 h.1.trk.entries).isSome then setEngine j.uid n (fun e => { e with tid := some h.2 }) h.1
  else failTransfer j.uid n none (resOf stFLT_TIMEOUT) h.1

/-- A WRITE or READ_REQ of the requester (R345, R346). -/
def remoteMsg (s : State) (j : Job) (tid : Nat) (kind : Byte) (win : BitVec 13) (ep : Byte) (off len : Nat) (bs : List PByte) : Msg :=
  { blankMsg with
    kind := kind, srcDev := ownDev s, srcCtx := BitVec.ofNat 16 j.ctx, srcGen := (ctxOf s j.ctx).gen
    xferTag := tagOf tid (((kvGet tid s.trk.entries).map Entry.epoch).getD 0), winId := win.setWidth 16, winEpoch := ep
    offset := BitVec.ofNat 64 off, lenVal := BitVec.ofNat 64 len, poison := wordPoison bs, data := bs.map Prod.fst }

/-- Send a request; below level F every request is unroutable (R400). -/
def sendReq (dev : BitVec 14) (m : Msg) (s : State) : State × Bool :=
  if levelF s then sendMsg 0 dev.toNat m s else (countDrop 0 s, false)

/-- Send a request to a peer; without a route it ends as ERR_UNREACHABLE (R338, R348). -/
def sendRequest (j : Job) (n tid : Nat) (dev : BitVec 14) (m : Msg) (s : State) : State :=
  if (kvGet tid s.trk.entries).isNone then failTransfer j.uid n none (resOf stFLT_TIMEOUT) s
  else
  let r := sendReq dev m s
  if r.2 then setEngine j.uid n (fun e => { e with tid := some tid }) r.1
  else failTransfer j.uid n (some tid) (windowRes stFLT_ACCESS 9 m.offset.toNat) r.1

/-- A posted write of data to host memory (R46, R223). -/
def hostStore (key : Nat) (bs : List PByte) (s : State) : State :=
  leafWrite true { host := true, pasid := (keyHost key).1, wr := true, addr := (keyHost key).2 } bs s

/-- A read request to the host leaves the endpoint (R223). -/
def hostAsk (key len : Nat) (s : State) : State := fireArmed sPCI 0 .none (pciOut (.hostRead (keyHost key).1 (keyHost key).2 len) s)

/-- The write of a transfer: its data go to the destination. -/
def deliver (j : Job) (n : Nat) (tid : Option Nat) (row off : Nat) (bs : List PByte) (s : State) : State :=
  match xferOf j with
  | none => s
  | some x =>
    let a := endAddr x.dst x.dstStride row off
    let wait := fun (req : Req) (pa : Nat) (s : State) =>
      flyEntry j n (holdEntry j n tid req row off bs.length pa bs s)
    match legOf s j x.dst a bs.length true with
    | .error r => failLeg j.uid n tid r s
    | .ok (.pattern _) => s
    | .ok (.grant o) =>
      match grantWrite j.settings o bs s with
      | (s, some f) => failTransfer j.uid n tid f.res s
      | (s, none) => endTransfer j.uid n tid a bs.length bs s
    | .ok (.control o) => endTransfer j.uid n tid a bs.length bs (controlWrite o (bs.map Prod.fst) s)
    | .ok (.host ps h) =>
      if s.pci.d3hot then wait (.hostHeld true) (hostKey ps h) s
      else
        -- a posted write holds its entry until it leaves the endpoint (R226)
        let e := holdEntry j n tid .memWrite row off bs.length (hostKey ps h) bs s
        if (kvGet e.2 e.1.trk.entries).isSome then endTransfer j.uid n (some e.2) a bs.length bs (hostStore (hostKey ps h) bs e.1)
        else failTransfer j.uid n none (resOf stFLT_TIMEOUT) e.1
    | .ok (.device pa) => wait .memWrite pa s
    | .ok (.window d w ep o) =>
      let h := holdEntry j n tid (.peer d) row off bs.length o bs s
      sendRequest j n h.2 d (remoteMsg h.1 j h.2 0x01 w ep o bs.length bs) h.1

/-- Issue the next transfer of an engine; the answer is false when it waits for a tracker entry (R227). -/
def issueTransfer (j : Job) (x : Xfer) (e : XferEngine) (s : State) : State × Bool :=
  let row := e.next / max x.rowBytes 1
  let off := e.next % max x.rowBytes 1
  let len := xferLen x e.next e.last
  let a := endAddr x.src x.srcStride row off
  let wait := fun (req : Req) (pa : Nat) (s : State) =>
    flyEntry j e.no (takeEntry j (sXE e.no) req row off len pa [] s)
  let count := fun (s : State) => setXfer j.uid (fun x => { x with issued := x.issued + 1 }) s
  if armedOn s (sXE e.no) 0 then (fireArmed (sXE e.no) 0 .none s, true)
  else if (tracked x.src || tracked x.dst) && entriesLeft s j.ctx == 0 then (s, false)
  else
    match legOf s j x.src a len false with
    | .error r => (failLeg j.uid e.no none r s, true)
    | .ok (.pattern v) =>
      (deliver j e.no none row off ((List.range len).map fun i => ((v >>> (8 * ((e.next + i) % 8))).setWidth 8, false)) (count s), true)
    | .ok (.grant o) =>
      match grantRead s j.settings o len with
      | .error f => (failTransfer j.uid e.no none f.res s, true)
      | .ok bs => (deliver j e.no none row off bs (detectRead (grantPa j.settings o) len (count s)), true)
    | .ok (.control o) =>
      let r := controlRead o len (count s)
      (deliver j e.no none row off (r.2.map fun b => (b, false)) r.1, true)
    | .ok (.host ps h) =>
      if s.pci.d3hot then (wait (.hostHeld false) (hostKey ps h) (count s), true)
      else (wait .hostRead (hostKey ps h) (hostAsk (hostKey ps h) len (count s)), true)
    | .ok (.device pa) => (wait .memRead pa (count s), true)
    | .ok (.window d w ep o) =>
      let h := takeEntry j (sXE e.no) (.peer d) row off len o [] (count s)
      (sendRequest j e.no h.2 d (remoteMsg h.1 j h.2 0x02 w ep o len []) h.1, true)

/-! ## Advancing the commands -/

/-- The engines a command may use at once (R221, R222). -/
def engineLimit (x : Xfer) : Nat := if x.prefetch then 2 else 16

/-- Advance one command as far as it goes without a reply. -/
def pumpJob : Nat → Nat → State → State
  | 0, _, s => s
  | fuel + 1, uid, s =>
    match (jobOf s uid).bind fun j => (xferOf j).map fun x => (j, x) with
    | none => s
    | some (j, x) =>
      let again := pumpJob fuel uid
      if x.stop.isSome then
        let s := setXfer uid (fun x => { x with engines := x.engines.filter fun e => e.tid.isSome }) s
        settleXfer uid s
      else
        match x.engines.find? fun e => e.tid.isNone with
        | some e =>
          if e.last ≤ e.next then again (dropEngine uid e.no s)
          else if x.prefetch && othersWait s then again (setXfer uid (Xfer.leave e) s)
          else
            let r := issueTransfer j x e s
            if r.2 then again r.1 else r.1
        | none =>
          if x.piecesLeft then
            if (activeEngines s).isEmpty && x.engines.isEmpty then again (stopXfer uid (resOf stFLT_FENCED) s)
            else if engineLimit x ≤ x.engines.length || (x.prefetch && othersWait s) then s
            else match freeEngine s with
              | none => s
              | some n => again (setXfer uid (Xfer.handOut n) s)
          else if x.engines.isEmpty then finishXfer uid s
          else s

/-- More steps than a command can take: a transfer moves at least one byte. -/
def pumpFuel (x : Xfer) : Nat := 4 * x.total + 64

/-- Advance every transfer command, the prefetches last; engines that they leave serve the others (R221). -/
def pumpAll (s : State) : State :=
  let run := fun (pre : Bool) (s : State) => s.jobs.foldl (fun s j => match xferOf j with
    | some x => if x.prefetch = pre then pumpJob (pumpFuel x) j.uid s else s
    | none => s) s
  run true (run false (run true (run false s)))

/-! ## Commands (R221, R346, R365) -/

/-- Words of a local end: an address in words w and w + 1, or a grant offset; n bytes from it are used. -/
def endBad (s : State) (p : Packet) (sp : Bool) (w n : Nat) : List Nat :=
  if sp then zeroWords p [w + 1] ++ badIf (!inGrant (ctxOf s (issuerCtx s p.issuer)) (wd p w) n) w
  else vaRange p w n

def localEnd (p : Packet) (sp : Bool) (w : Nat) : XEnd := if sp then .grant (wd p w) else .va (dw p w)

/-- LENGTH is 1 to 2^40 (R221). -/
def lengthBad (p : Packet) (w : Nat) : List Nat := badIf (dw p w == 0 || decide (2 ^ 40 < dw p w)) w

/-- The memory that one end covers: space 0 device, 1 host, 2 the grant; first byte and length. -/
def endRanges (s : State) (c : Nat) (e : XEnd) (stride rows n : Nat) : List (Nat × Nat × Nat) :=
  match e with
  | .grant o => (List.range rows).map fun r => (2, o + r * stride, n)
  | .va a =>
    let pages := (pagesOf s c).filter fun g => match translateFor s reachXfer c g.va false with
      | .ok _ => true
      | .error _ => false
    (List.range rows).flatMap fun r => pages.filterMap fun (g : Page) =>
      let lo := max (a + r * stride) g.va
      let hi := min (a + r * stride + n) (g.va + g.size)
      if lo < hi then some (bnat g.host, g.addr + (lo - g.va), hi - lo) else none
  | _ => []

/-- Do the two ends of a command share memory (R221)? -/
def endsOverlap (s : State) (c : Nat) (x : Xfer) : Bool :=
  let b := endRanges s c x.dst x.dstStride x.rows x.rowBytes
  (endRanges s c x.src x.srcStride x.rows x.rowBytes).any fun p => b.any fun q => p.1 == q.1 && overlap p.2.1 p.2.2 q.2.1 q.2.2

def newXfer (src dst : XEnd) (rows rowBytes srcStride dstStride : Nat) (prefetch : Bool) : Xfer :=
  { src := src, dst := dst, rows := rows, rowBytes := rowBytes, srcStride := srcStride, dstStride := dstStride, prefetch := prefetch
    nextPiece := 0, back := [], engines := [], issued := 0, poisonWords := [], poisonSeen := false, stop := none }

/-- What rejects a transfer command. -/
def xferChecks (param : State → Packet → List Nat) (make : Packet → Xfer) (remote : Bool) (s : State) (p : Packet) : Checks :=
  { noChecks with
    param := param s p
    degraded := badIf ((activeEngines s).isEmpty || (remote && !canSend s)) 0
    conflict := badIf ((param s p).isEmpty && endsOverlap s (issuerCtx s p.issuer) (make p)) 4 }

/-- Start a transfer command: rejected, or cut into pieces. -/
def runXfer (param : State → Packet → List Nat) (make : Packet → Xfer) (remote : Bool) (uid : Nat) (p : Packet) (s : State) : State :=
  match verdict (xferChecks param make remote s p) with
  | some r => answerAtOnce uid p r s
  | none => pumpAll (addJob (newJob s uid p (.xfer (make p))) s)

def copyParam (s : State) (p : Packet) : List Nat :=
  lengthBad p 8 ++ resv p 10 3 ++ zeroWords p [11]
    ++ (if lengthBad p 8 = [] then endBad s p (pb p 10 0) 4 (dw p 8) ++ endBad s p (pb p 10 1) 6 (dw p 8) else [])

def copyXfer (prefetch : Bool) (p : Packet) : Xfer :=
  newXfer (localEnd p (pb p 10 0) 4) (localEnd p (pb p 10 1) 6) 1 (dw p 8) 0 0 prefetch

/-- XFR.COPY (R221). -/
def execXfrCopy (p : Packet) (s : State) : Host.Outcome State Fault Refusal :=
  .next (met s (takeUp 0x0301 (runXfer copyParam (copyXfer false) false) p s))

/-- XFR.PREFETCH: a copy at lowest priority (R221). -/
def execXfrPrefetch (p : Packet) (s : State) : Host.Outcome State Fault Refusal :=
  .next (met s (takeUp 0x0304 (runXfer copyParam (copyXfer true) false) p s))

/-- Offending rows or row bytes: 1 to 2^24 each (R365). -/
def rowsBad (p : Packet) (w : Nat) : List Nat := badIf (wd p w == 0 || decide (2 ^ 24 < wd p w)) w

def copy2dParam (s : State) (p : Packet) : List Nat :=
  let sizes := rowsBad p 8 ++ rowsBad p 9
  sizes ++ badIf (decide (dw p 12 < wd p 9)) 12 ++ resv p 14 3 ++ zeroWords p [15]
    ++ (if sizes = [] then
          endBad s p (pb p 14 0) 4 ((wd p 8 - 1) * dw p 10 + wd p 9) ++ endBad s p (pb p 14 1) 6 ((wd p 8 - 1) * dw p 12 + wd p 9)
        else [])

def copy2dXfer (p : Packet) : Xfer :=
  newXfer (localEnd p (pb p 14 0) 4) (localEnd p (pb p 14 1) 6) (wd p 8) (wd p 9) (dw p 10) (dw p 12) false

/-- XFR.COPY2D (R221). -/
def execXfrCopy2d (p : Packet) (s : State) : Host.Outcome State Fault Refusal :=
  .next (met s (takeUp 0x0302 (runXfer copy2dParam copy2dXfer false) p s))

def fillParam (s : State) (p : Packet) : List Nat :=
  lengthBad p 6 ++ resv p 10 2 ++ zeroWords p [11] ++ (if lengthBad p 6 = [] then endBad s p (pb p 10 1) 4 (dw p 6) else [])

def fillXfer (p : Packet) : Xfer :=
  newXfer (.pattern (BitVec.ofNat 64 (dw p 8))) (localEnd p (pb p 10 1) 4) 1 (dw p 6) 0 0 false

/-- XFR.FILL (R221). -/
def execXfrFill (p : Packet) (s : State) : Host.Outcome State Fault Refusal :=
  .next (met s (takeUp 0x0303 (runXfer fillParam fillXfer false) p s))

def remoteParam (s : State) (p : Packet) : List Nat :=
  resv p 4 0x3FFF ++ resv p 5 0xFF1FFF ++ resv p 7 0xFFFF ++ lengthBad p 10 ++ resv p 12 1 ++ zeroWords p [13, 14, 15]
    ++ (if lengthBad p 10 = [] then endBad s p (pb p 12 0) 8 (dw p 10) else [])

def peerEnd (p : Packet) : XEnd :=
  .window (BitVec.ofNat 14 (wd p 4)) (BitVec.ofNat 13 (wd p 5)) (BitVec.ofNat 8 (pf p 5 23 16)) (dw p 6)

def remoteWriteXfer (p : Packet) : Xfer := newXfer (localEnd p (pb p 12 0) 8) (peerEnd p) 1 (dw p 10) 0 0 false
def remoteReadXfer (p : Packet) : Xfer := newXfer (peerEnd p) (localEnd p (pb p 12 0) 8) 1 (dw p 10) 0 0 false

/-- XFR.REMOTE_WRITE (R346). -/
def execXfrRemoteWrite (p : Packet) (s : State) : Host.Outcome State Fault Refusal :=
  .next (met s (takeUp 0x0310 (runXfer remoteParam remoteWriteXfer true) p s))

/-- XFR.REMOTE_READ (R346). -/
def execXfrRemoteRead (p : Packet) (s : State) : Host.Outcome State Fault Refusal :=
  .next (met s (takeUp 0x0311 (runXfer remoteParam remoteReadXfer true) p s))

/-! ## HCH.REMOTE_SIGNAL (R76, R347) -/

def remoteSignalParam (p : Packet) : List Nat :=
  resv p 4 0x13FFF ++ resv p 5 0xFF1FFF ++ zeroWords p [7, 10, 11]

/-- Send the HITCH_OP of a remote signal once an entry is there. -/
def sendSignal (uid : Nat) (s : State) : State :=
  match jobOf s uid with
  | none => s
  | some j =>
    if j.work != .remoteSignal none || j.res.isSome || entriesLeft s j.ctx == 0 then s
    else
      let p := j.pkt
      let dev := BitVec.ofNat 14 (wd p 4)
      let h := takeEntry j sDSP (.peer dev) 0 0 0 (wd p 6) [] s
      let m := { remoteMsg h.1 j h.2 0x03 (BitVec.ofNat 13 (wd p 5)) (BitVec.ofNat 8 (pf p 5 23 16)) (wd p 6) 0 [] with
        code := BitVec.ofNat 8 (pf p 4 16 16), lenVal := BitVec.ofNat 64 (dw p 8) }
      let r := sendReq dev m h.1
      if (kvGet h.2 h.1.trk.entries).isNone then finish uid (resOf stFLT_TIMEOUT) h.1
      else if r.2 then setWork uid (.remoteSignal (some h.2)) r.1
      else finish uid (windowRes stFLT_ACCESS 9 (wd p 6)) (freeEntry h.2 r.1)

def remoteSignalChecks (s : State) (p : Packet) : Checks :=
  { noChecks with param := remoteSignalParam p, degraded := badIf (!canSend s) 0 }

def runRemoteSignal (uid : Nat) (p : Packet) (s : State) : State :=
  match verdict (remoteSignalChecks s p) with
  | some r => answerAtOnce uid p r s
  | none => sendSignal uid (addJob (newJob s uid p (.remoteSignal none)) s)

/-- HCH.REMOTE_SIGNAL sends a HITCH_OP (R347). -/
def execHchRemoteSignal (p : Packet) (s : State) : Host.Outcome State Fault Refusal :=
  .next (met s (takeUp 0x0206 runRemoteSignal p s))

/-- Unmap commands whose last access has ended answer (R45). -/
def endUnmaps (s : State) : State :=
  s.jobs.foldl (fun s j => match j.work with
    | .unmapWait _ _ => releaseOne j s
    | _ => s) s

/-- Advance every command that waited for an entry or an engine, or for the end of accesses. -/
def advance (s : State) : State :=
  endUnmaps <| pumpAll (s.jobs.foldl (fun s j => if j.work = .remoteSignal none then sendSignal j.uid s else s) s)

/-! ## Replies and timeouts (R228, R229) -/

/-- A reply to an entry of an old generation: the entry is freed, the reply dropped and counted; a command that still waits for it can only be one that CTX.DESTROY cuts (R229, R422, log 18). -/
def dropStale (tid : Nat) (e : Entry) (s : State) : State := advance (lateDrop (some e.ctx) (failEntry tid e (resOf stABT_RESET) s))

/-- The entry that a reply's transfer ID and epoch match. -/
def entryFor (s : State) (tid : Nat) (epoch : Byte) : Option Entry :=
  (kvGet tid s.trk.entries).bind fun e => if e.epoch = epoch then some e else none

/-- The engine and job of a transfer in flight. -/
def flightOf (s : State) (tid : Nat) (e : Entry) : Option (Job × Nat) :=
  (jobOf s e.uid).bind fun j => (xferOf j).bind fun x => (x.engines.find? fun g => g.tid == some tid).map fun g => (j, g.no)

/-- A request to a block or unit whose redirection is under way is held (R246, R248). -/
def heldByRemap (s : State) (pa n : Nat) : Bool :=
  !(s.mem.busyBlocks.isEmpty && s.mem.busyUnits.isEmpty) &&
    (backPieces pa n).any fun p => match storeOf s p.1 with
      | some (_, u, b) => s.mem.busyBlocks.contains (strandId u, b) || s.mem.busyUnits.contains (strandId u)
      | none => false

/-- What the controller's check found on a word it read: the event against its unit (R241, R243). -/
def eccEvent (pa : Nat) (ecc : Ecc) (s : State) : State :=
  match ecc, watchOf s pa with
  | .corrected, some u => raiseEvent u 0 (.word pa) false false s
  | .uncorrectable, some u => raiseEvent u 1 (.word pa) false false s
  | _, _ => s

/-- Data whose first word is found uncorrectable arrive with that word poisoned. -/
def eccData (pa : Nat) (ecc : Ecc) (bs : List PByte) : List PByte :=
  if ecc = .uncorrectable then
    (List.range bs.length).map fun i => let b := bs.getD i (0, false)
      (b.1, b.2 || decide ((pa + i) / granule pa = pa / granule pa))
  else bs

/-- A memory controller answers a read: the data go on to the destination. -/
def readReply (tid : Nat) (e : Entry) (ecc : Ecc) (s : State) : State :=
  match flightOf s tid e with
  | none => freeEntry tid s
  | some (j, n) =>
    if !servedRange s e.pa e.len then failTransfer j.uid n (some tid) (resOf stFLT_FENCED) s
    else
      let bs := eccData e.pa ecc (physRead s e.pa e.len)
      let s := detectRead e.pa e.len (eccEvent e.pa ecc s)
      match (kvGet tid s.trk.entries).bind fun e => flightOf s tid e with
      | some (j, n) => deliver j n (some tid) e.row e.off bs s
      | none => s

/-- The word that a partial write reads for its merge: the first it covers in part (R241). -/
def mergedWord (pa n : Nat) : Option Nat := (granulesOf pa n).find? fun g => !(decide (pa ≤ g) && decide (g + granule pa ≤ pa + n))

/-- What the controller finds on the words that a partial write merges with is reported; an uncorrectable one leaves its word poisoned (R241, R243). -/
def mergeErrors (pa n : Nat) (ecc : Ecc) (s : State) : State :=
  match mergedWord pa n with
  | none => s
  | some g =>
    let s := ((granulesOf pa n).filter fun g => !(decide (pa ≤ g) && decide (g + granule pa ≤ pa + n))).foldl (fun s g =>
      detectRead g (granule pa) s) s
    eccEvent g ecc (if ecc = .uncorrectable then poisonKeys [(keyOf s g, keyOf s g + granule pa)] s else s)

/-- A memory controller accepts a write. -/
def writeAccepted (tid : Nat) (e : Entry) (ecc : Ecc) (s : State) : State :=
  if !servedRange s e.pa e.len then
    match flightOf s tid e with
    | none => freeEntry tid s
    | some (j, n) => failTransfer j.uid n (some tid) (resOf stFLT_FENCED) s
  else
    let s := mergeErrors e.pa e.len ecc s
    match (kvGet tid s.trk.entries).bind fun e => flightOf s tid e with
    | none => freeEntry tid s
    | some (j, n) =>
      match xferOf j with
      | none => s
      | some x => endTransfer j.uid n (some tid) (endAddr x.dst x.dstStride e.row e.off) e.len (entryData e) (physWrite e.pa (entryData e) s)

/-- MEMORY_REPLY: read data returned, or a write accepted (R226, R229). -/
def execMemoryReply (tid : Nat) (epoch : Byte) (ecc : Ecc) (s : State) : Host.Outcome State Fault Refusal :=
  .next (met s (match entryFor s tid epoch with
    | none => lateDrop none s
    | some e =>
      if e.req = .memRead ∨ e.req = .memWrite then
        if heldByRemap s e.pa e.len then s
        else if !entryCurrent s e then dropStale tid e s
        else if e.req = .memRead then advance (readReply tid e ecc s)
        else advance (writeAccepted tid e ecc s)
      else s))

/-- TRACKER_TIMEOUT: 50 ms after its issue an entry without a reply is freed and reported against its destination (R228). -/
def execTrackerTimeout (tid : Nat) (s : State) : Host.Outcome State Fault Refusal :=
  .next (match kvGet tid s.trk.entries with
    | none => s
    | some e =>
      if (s.clk.uptimeMs - e.issueMs).toNat < 50 then s
      else
        let dest := destStrand s e
        let s := failEntry tid e (resOf stFLT_TIMEOUT) s
        let s := match dest with
          | some p => raiseEvent p 14 .none false false s
          | none => s
        advance s)

/-- The source address of the transfer an entry serves. -/
def entryVa (s : State) (e : Entry) : Nat :=
  match (jobOf s e.uid).map Job.work with
  | some (.xfer x) => endAddr x.src x.srcStride e.row e.off
  | _ => 0

/-- The host's answer to a read (R46, R231). -/
def hostReply (tid : Nat) (e : Entry) (how : HostEnd) (s : State) : State :=
  match how, flightOf s tid e with
  | .data poisoned, some (j, n) =>
    let bs := (cellRead e.pa e.len s.mem.host).map fun b => (b, poisoned)
    let s := if poisoned then pciOut (.aer "Poisoned TLP received, advisory non-fatal") s else s
    deliver j n (some tid) e.row e.off bs s
  | _, _ => failEntry tid e (accessRes stFLT_ACCESS causeHOST_ERROR (entryVa s e)) s

/-- HOST_COMPLETION: a PCIe completion for a host read, with what the host has stored in its own memory by then (R46, R229, R423). -/
def execHostCompletion (tid : Nat) (epoch : Byte) (how : HostEnd) (host : HostNews) (s : State) : Host.Outcome State Fault Refusal :=
  let s := takeNews host s
  .next (met s (match entryFor s tid epoch with
    | none => lateDrop none { s with trk := { s.trk with tagsHeld := s.trk.tagsHeld.filter (· != (tid, epoch)) } }
    | some e =>
      if e.req != .hostRead then s
      else if !entryCurrent s e then dropStale tid e s
      else advance (hostReply tid e how s)))

/-- PCIE_COMPLETION_TIMEOUT: reported through AER; the command ends FLT_TIMEOUT (R46, R423, R496). -/
def execPcieCompletionTimeout (tid : Nat) (s : State) : Host.Outcome State Fault Refusal :=
  let aer := pciOut (.aer "Completion Timeout")
  .next (match kvGet tid s.trk.entries with
    | some e => if e.req = .hostRead then aer (advance (failEntry tid e (resOf stFLT_TIMEOUT) s)) else s
    | none =>
      if s.trk.tagsHeld.any fun t => t.1 == tid then
        aer { s with trk := { s.trk with tagsHeld := s.trk.tagsHeld.filter fun t => t.1 != tid } }
      else s)

/-- Back in D0 the host requests that were held are issued (R494). -/
def issueHeld (s : State) : State :=
  advance (s.trk.entries.foldl (fun s (kv : Nat × Entry) =>
    match kv.2.req with
    | .hostHeld false => hostAsk kv.2.pa kv.2.len { s with trk := { s.trk with entries := kvSet kv.1 { kv.2 with req := .hostRead } s.trk.entries } }
    | .hostHeld true =>
      if !entryCurrent s kv.2 then freeEntry kv.1 s
      else match flightOf s kv.1 kv.2 with
        | none => freeEntry kv.1 s
        | some (j, n) => match xferOf j with
          | none => s
          | some x => endTransfer j.uid n (some kv.1) (endAddr x.dst x.dstStride kv.2.row kv.2.off) kv.2.len (entryData kv.2)
              (hostStore kv.2.pa (entryData kv.2) s)
    | _ => s) s)

end Sys2Proof.Machine
end

