-- ==== Sys2Proof/Machine/Messages.lean ====
section
/-! DEFINITION. Windows, and what a message of a peer does once it has been delivered (R341 to R352). -/

namespace Sys2Proof.Machine

/-! ## Delivered messages -/

def Arrival.isFor (a : Arrival) (l v : Nat) (b : List Byte) : Bool := a.link == l && a.vc == v && a.bytes == b

/-- Remove the first element that a test accepts. -/
def eraseFirst {α : Type} (p : α → Bool) : List α → List α
  | [] => []
  | x :: t => if p x then t else x :: eraseFirst p t

/-- Take a delivered message out of the inbox; its units are free again. -/
def takeArrival (l v : Nat) (b : List Byte) (s : State) : Option (Arrival × State) :=
  (s.lnk.inbox.find? fun a => a.isFor l v b).map fun a =>
    (a, freeUnits l v b.length { s with lnk := { s.lnk with inbox := eraseFirst (fun a => a.isFor l v b) s.lnk.inbox } })

/-- Act on a delivered message of a kind; without one there is nothing to act on. -/
def onArrival (l v : Nat) (kind : Byte) (m : Msg) (act : Arrival → State → State) (s : State) : State :=
  let m := { m with kind := kind }
  match takeArrival l v (msgBytes m) s with
  | some (a, s) => act a s
  | none => s

/-! ## Windows (R341, R342) -/

def windowParam (p : Packet) : List Nat :=
  let base := dw p 8
  let n := dw p 10
  resv p 4 0x3FFF ++ resv p 5 0xFFFF0FFF ++ resv p 6 7 ++ zeroWords p [7]
    ++ (if pb p 6 0 then badIf (pb p 6 1 || pb p 6 2) 6 ++ badIf (decide (65536 ≤ base)) 8 ++ badIf (n == 0 || decide (65536 < base + n)) 10
        else badIf (!pb p 6 1 && !pb p 6 2) 6 ++ vaField p 8 ++ badIf (decide (base % 4096 ≠ 0) || decide (vaEnd < base + n)) 8
          ++ badIf (decide (n % 4096 ≠ 0) || n == 0) 10)

/-- The lowest entry of the window table that holds no window and owes no answer. -/
def freeWindowId (s : State) : Option Nat :=
  let used := s.wins.filterMap fun (kv : Nat × Window) => if kv.2.valid || s.lnk.held.any (fun h => h.1 == kv.1) then some kv.1 else none
  let g := firstGap 0 used
  if g < 8192 then some g else none

def windowChecks (s : State) (p : Packet) : Checks :=
  { noChecks with
    param := windowParam p
    permission := badIf (pb p 6 0 && (List.range (dw p 10)).any fun i => (hitchOf s (dw p 8 + i)).owner != some (issuerCtx s p.issuer)) 8
    resource := badIf (freeWindowId s).isNone 0 }

/-- The window that XFR.WINDOW_GRANT makes (R341). -/
def grantedWindow (s : State) (p : Packet) (epoch : Byte) : Window :=
  let c := issuerCtx s p.issuer
  { valid := true, epoch := epoch, dev := pf p 4 13 0, ctx := pf p 5 11 0, gen := BitVec.ofNat 16 (pf p 5 31 16), hitchKind := pb p 6 0
    read := pb p 6 1, write := pb p 6 2, base := dw p 8, length := dw p 10, owner := c, ownerGen := (ctxOf s c).gen }

/-- XFR.WINDOW_GRANT: the lowest free entry, its epoch one more than at its last use. -/
def windowEffect (p : Packet) (s : State) : State × Result :=
  let w := (freeWindowId s).getD 0
  let epoch : Byte := match kvGet w s.wins with
    | some x => x.epoch + 1
    | none => 0
  let s := { s with wins := kvSet w (grantedWindow s p epoch) s.wins }
  (fireArmed sDSP 3 (.window w) s, okCnt (BitVec.ofNat 32 (w + 2 ^ 16 * epoch.toNat)) 0 0 0)

def execXfrWindowGrant (p : Packet) (s : State) : Host.Outcome State Fault Refusal :=
  .next (met s (takeUp 0x0320 (runNow windowChecks windowEffect) p s))

/-- A window that the context holds: granted in its present generation and valid. -/
def holdsWindow (s : State) (c w : Nat) : Bool :=
  match kvGet w s.wins with
  | some x => x.valid && x.owner == c && x.ownerGen == (ctxOf s c).gen
  | none => false

def revokeChecks (s : State) (p : Packet) : Checks :=
  { noChecks with
    param := resv p 4 0x1FFF ++ zeroWords p [5, 6, 7]
    permission := badIf (!holdsWindow s (issuerCtx s p.issuer) (pf p 4 12 0)) 4 }

/-- The requests that a window has accepted and not answered. -/
def windowHeld (s : State) (w : Nat) : List (Nat × Nat × Msg) := s.lnk.held.filter fun h => h.1 == w

def updWindow (w : Nat) (f : Window → Window) (s : State) : State :=
  match kvGet w s.wins with
  | some x => { s with wins := kvSet w (f x) s.wins }
  | none => s

def runRevoke (uid : Nat) (p : Packet) (s : State) : State :=
  match verdict (revokeChecks s p) with
  | some r => answerAtOnce uid p r s
  | none =>
    let w := pf p 4 12 0
    let s := updWindow w (fun x => { x with valid := false }) (addJob (newJob s uid p (.revoke w 0)) s)
    if (windowHeld s w).isEmpty then finish uid okRes s else s

/-- XFR.WINDOW_REVOKE: replies after the requests accepted before it (R342). -/
def execXfrWindowRevoke (p : Packet) (s : State) : Host.Outcome State Fault Refusal := .next (met s (takeUp 0x0321 runRevoke p s))

/-! ## Requests (R343, R344) -/

def isHitchOp (m : Msg) : Bool := m.kind == 0x03
def isWrite (m : Msg) : Bool := m.kind == 0x01

/-- Bytes a request reads or writes. -/
def reqLen (m : Msg) : Nat := m.lenVal.toNat % 2 ^ 32

/-- Where a remote request may land: this module's own memory controllers on the Izette die and the bridge dies (R253, R344). -/
def reachRemote : Reach := reachHN

/-- The checks of R343 in their order: the window, or the code and cause of the first failure. -/
def requestCheck (s : State) (m : Msg) : Except (Nat × Nat) Window :=
  if outOfUse s sIZ then .error (ncFENCED, 0)
  else
    match kvGet (m.winId.toNat % 2 ^ 13) s.wins with
    | none => .error (ncNO_WINDOW, 0)
    | some w =>
      if !w.valid || w.epoch != m.winEpoch || w.dev != m.srcDev.toNat || w.ctx != m.srcCtx.toNat then .error (ncNO_WINDOW, 0)
      else if w.gen != m.srcGen then .error (ncGENERATION, 0)
      else if w.hitchKind != isHitchOp m || (!isHitchOp m && !(if isWrite m then w.write else w.read)) then .error (ncPERMISSION, 0)
      else if (if w.hitchKind then decide (w.length ≤ m.offset.toNat) else decide (w.length < m.offset.toNat + reqLen m)) then .error (ncRANGE, 0)
      else if w.hitchKind then .ok w
      else
        match rangeFault s reachRemote w.owner (w.base + m.offset.toNat) (reqLen m) (isWrite m) with
        | none => .ok w
        | some f => if f.cause = 0 then .error (ncUNBACKED, 0) else .error (ncACCESS, f.cause)

/-- The first fault's table error is reported as for a command of this module (R47). -/
def requestReport (s : State) (m : Msg) : State :=
  match kvGet (m.winId.toNat % 2 ^ 13) s.wins with
  | some w => match rangeFault s reachRemote w.owner (w.base + m.offset.toNat) (reqLen m) (isWrite m) with
    | some f => reportTable f s
    | none => s
  | none => s

/-- Does the request reach a block or unit whose redirection is under way (R246, R248)? -/
def requestHeld (s : State) (w : Window) (m : Msg) : Bool :=
  (pieces (w.base + m.offset.toNat) (reqLen m)).any fun p =>
    match translateFor s reachRemote w.owner p.1 false with
    | .ok l => !l.host && heldByRemap s l.addr p.2
    | .error _ => false

/-- Must a request wait: for the redirection of what it reaches, or, a write, behind a held write of its source (R246, R346)? `before` are the requests that wait ahead of it. -/
def mustWait (s : State) (before : List (Nat × Nat × Msg)) (w : Window) (m : Msg) : Bool :=
  requestHeld s w m || (isWrite m && before.any fun h => isWrite h.2.2 && h.2.2.srcDev == m.srcDev)

/-- Carry out an accepted request and answer it; its unit may have been fenced meanwhile (R344). -/
def performRequest (w : Window) (m : Msg) (s : State) : State :=
  let va := w.base + m.offset.toNat
  if isWrite m then
    match vaCheck s reachRemote w.owner va (reqLen m) true with
    | some _ => sendNeg m ncUNBACKED 0 s
    | none =>
      let s := (vaWrite reachRemote w.owner va (withBitmap (slice 0 (reqLen m) m.data) m.poison) s).1
      answer m (respMsg s m 0x80 0 0) s
  else
    match vaRead s reachRemote w.owner va (reqLen m) with
    | .error _ => sendNeg m ncUNBACKED 0 s
    | .ok bs =>
      let r := { respMsg s m 0x81 0 0 with lenVal := BitVec.ofNat 64 (reqLen m), poison := wordPoison bs, data := bs.map Prod.fst }
      answer m r (detectVa reachRemote w.owner va (reqLen m) s)

/-- A WRITE or READ_REQ: refused, held while its block is being redirected, or carried out. -/
def memoryRequest (l : Nat) (m : Msg) (s : State) : State :=
  match requestCheck s m with
  | .error (code, cause) => sendNeg m code cause (if code = ncACCESS then requestReport s m else s)
  | .ok w =>
    if mustWait s s.lnk.held w m then { s with lnk := { s.lnk with held := s.lnk.held ++ [(m.winId.toNat % 2 ^ 13, l, m)] } }
    else advance (performRequest w m s)

/-- Is a delivered WRITE the oldest of its source that waits (R346)? -/
def oldestWrite (s : State) (l : Nat) (m : Msg) : Bool :=
  match s.lnk.inbox.find? fun a => a.vc == 0 && leAt 0 1 a.bytes == 1 && leAt 2 2 a.bytes == m.srcDev.toNat with
  | some a => a.isFor l 0 (msgBytes m)
  | none => true

/-- MSG_WRITE: writes of one source act in their arrival order (R346). -/
def execMsgWrite (l : Nat) (m : Msg) (s : State) : Host.Outcome State Fault Refusal :=
  let m := { m with kind := 0x01 }
  .next (if oldestWrite s l m then onArrival l 0 0x01 m (fun _ => memoryRequest l m) s else s)

/-- MSG_READ_REQ (R346). -/
def execMsgReadReq (l : Nat) (m : Msg) (s : State) : Host.Outcome State Fault Refusal :=
  .next (onArrival l 0 0x02 m (fun _ => memoryRequest l { m with kind := 0x02 }) s)

/-- HITCH_OP applied through its window, and answered ACK (R347). -/
def hitchRequest (m : Msg) (s : State) : State :=
  match requestCheck s m with
  | .error (code, cause) => sendNeg m code cause s
  | .ok w =>
    let h := w.base + m.offset.toNat
    let s := if m.code = 0 then hitchPut h m.lenVal s else hitchAdd h m.lenVal s
    answer m (respMsg s m 0x80 0 0) s

/-- MSG_HITCH_OP (R347). -/
def execMsgHitchOp (l : Nat) (m : Msg) (s : State) : Host.Outcome State Fault Refusal :=
  .next (met s (onArrival l 0 0x03 m (fun _ => hitchRequest { m with kind := 0x03 }) s))

/-- MSG_WINDOW_REVOKE: every window held for that device, context and generation becomes invalid; no answer (R350). -/
def execMsgWindowRevoke (l : Nat) (m : Msg) (s : State) : Host.Outcome State Fault Refusal :=
  .next (onArrival l 0 0x04 m (fun _ s =>
    { s with wins := kvMap (fun _ w =>
        if w.dev = m.srcDev.toNat ∧ w.ctx = m.srcCtx.toNat ∧ w.gen = m.srcGen then { w with valid := false } else w) s.wins }) s)

/-! ## Requests that a redirection held (R246, R342, R344) -/

/-- A window's answer to one of its held requests, counted by a revoke that waits for it. -/
def heldAnswered (w : Nat) (s : State) : State :=
  { s with jobs := s.jobs.map fun (j : Job) => match j.work with
      | .revoke v n => if v = w ∧ j.res.isNone then { j with work := .revoke v (n + 1) } else j
      | _ => j }

/-- A revoke whose window owes no more answers is done. -/
def endRevokes (s : State) : State :=
  s.jobs.foldl (fun s j => match j.work with
    | .revoke w n => if (windowHeld s w).isEmpty then finish j.uid (okCnt (BitVec.ofNat 32 n) 0 0 0) s else s
    | _ => s) s

/-- Carry out, in arrival order, the held requests that nothing holds any longer (R246, R346). -/
def retryHeld (s : State) : State :=
  endRevokes (s.lnk.held.foldl (fun s h =>
    match kvGet h.1 s.wins with
    | none => s
    | some w =>
      if mustWait s (s.lnk.held.takeWhile (· != h)) w h.2.2 then s
      else
        let s := { s with lnk := { s.lnk with held := eraseFirst (· == h) s.lnk.held } }
        heldAnswered h.1 (performRequest w h.2.2 s)) s)

/-- Answer every accepted request that has not been carried out with ERR_RESET (R417). -/
def resetHeld (s : State) : State :=
  endRevokes (s.lnk.held.foldl (fun s h => heldAnswered h.1 (sendNeg h.2.2 ncRESET 0 s)) { s with lnk := { s.lnk with held := [] } })

/-! ## Responses (R348, R349) -/

/-- The entry a response's tag names. -/
def respTid (m : Msg) : Nat := m.xferTag.toNat % 2 ^ 18
def respEpoch (m : Msg) : Byte := BitVec.ofNat 8 (fld m.xferTag.toNat 25 18)

/-- Use a response under R229: only for a current entry that waits for a peer. -/
def onResponse (m : Msg) (act : Nat → Entry → State → State) (s : State) : State :=
  match entryFor s (respTid m) (respEpoch m) with
  | none => lateDrop none s
  | some e =>
    match e.req with
    | .peer _ => if entryCurrent s e then advance (act (respTid m) e s) else dropStale (respTid m) e s
    | _ => lateDrop none s

/-- Does the entry wait for read data: the source of its transfer is a window? -/
def awaitsData (s : State) (e : Entry) : Bool :=
  match (jobOf s e.uid).map Job.work with
  | some (.xfer x) => (match x.src with
    | .window _ _ _ _ => true
    | _ => false)
  | _ => false

/-- ACK: a remote write or signal has been accepted. -/
def ackEntry (tid : Nat) (e : Entry) (s : State) : State :=
  if awaitsData s e then lateDrop none s
  else match (jobOf s e.uid).map Job.work with
    | some (.remoteSignal _) => finish e.uid okRes (freeEntry tid s)
    | _ => match flightOf s tid e with
      | none => freeEntry tid s
      | some (j, n) => match xferOf j with
        | none => s
        | some x => endTransfer j.uid n (some tid) (endAddr x.dst x.dstStride e.row e.off) e.len (entryData e) s

/-- MSG_ACK. -/
def execMsgAck (l : Nat) (m : Msg) (s : State) : Host.Outcome State Fault Refusal :=
  .next (onArrival l 1 0x80 m (fun _ => onResponse m ackEntry) s)

/-- READ_DATA: the data go on to the local destination. -/
def dataEntry (m : Msg) (tid : Nat) (e : Entry) (s : State) : State :=
  if !awaitsData s e || decide (reqLen m ≠ e.len) then lateDrop none s
  else match flightOf s tid e with
    | none => freeEntry tid s
    | some (j, n) => deliver j n (some tid) e.row e.off (withBitmap (slice 0 e.len m.data) m.poison) s

/-- MSG_READ_DATA. -/
def execMsgReadData (l : Nat) (m : Msg) (s : State) : Host.Outcome State Fault Refusal :=
  .next (onArrival l 1 0x81 m (fun _ => onResponse m (dataEntry { m with kind := 0x81 })) s)

/-- The status of a response code, for a transfer or a remote signal (R348). -/
def codeResult (signal : Bool) (code cause off : Nat) : Option Result :=
  if code = ncFENCED then some (if signal then windowRes stFLT_ACCESS 0xB off else resOf stFLT_FENCED)
  else if code = ncRESET then some (resOf stABT_RESET)
  else if code = ncNO_WINDOW then some (windowRes stFLT_ACCESS 7 off)
  else if code = ncGENERATION then some (if signal then windowRes stFLT_ACCESS 0xA off else resOf stABT_GENERATION)
  else if code = ncPERMISSION then some (windowRes stFLT_ACCESS (if signal then 7 else 2) off)
  else if code = ncRANGE then some (windowRes stFLT_ACCESS 8 off)
  else if code = ncACCESS then some (windowRes stFLT_ACCESS cause off)
  else if code = ncUNBACKED then some (if signal then windowRes stFLT_ACCESS 0xB off else resOf stFLT_FENCED)
  else if code = ncUNREACHABLE then some (windowRes stFLT_ACCESS 9 off)
  else none

def negEntry (m : Msg) (tid : Nat) (e : Entry) (s : State) : State :=
  let signal : Bool := match (jobOf s e.uid).map Job.work with
    | some (.remoteSignal _) => true
    | _ => false
  match codeResult signal m.code.toNat (m.cause.toNat % 16) e.pa with
  | some r => failEntry tid e r s
  | none => lateDrop none s

/-- MSG_NEG. -/
def execMsgNeg (l : Nat) (m : Msg) (s : State) : Host.Outcome State Fault Refusal :=
  .next (onArrival l 1 0x82 m (fun _ => onResponse m (negEntry m)) s)

/-! ## Management messages (R351, R352; the body's form is log 19) -/

/-- What an MGT_REQ carries. -/
inductive MgtBody where
  | routeRead (first n : Nat)
  | routeWrite (first : Nat) (entries : List (BitVec 16))
  | idWrite (id : BitVec 14)
  | idRead
  | packet (tag : Byte) (words : List Word)
  | malformed
  deriving DecidableEq, Repr

def mgtBody (b : List Byte) : MgtBody :=
  let first := leAt 2 2 b
  let n := leAt 4 2 b
  match (b.getD 0 0).toNat with
  | 0x01 => if 1 ≤ n ∧ n ≤ 64 ∧ first + n ≤ 16384 then .routeRead first n else .malformed
  | 0x02 => if 1 ≤ n ∧ n ≤ 64 ∧ first + n ≤ 16384 then
      .routeWrite first ((List.range n).map fun i => BitVec.ofNat 16 (leAt (8 + 2 * i) 2 b)) else .malformed
  | 0x03 => .idWrite (BitVec.ofNat 14 (leAt 4 2 b))
  | 0x04 => .idRead
  | 0x7E =>
    if leAt 1 2 b = 0x1F6E ∧ b.getD 3 0 = 0 ∧ leAt 5 3 b = 0 ∧ 24 ≤ b.length then
      .packet (b.getD 4 0) ((List.range ((b.length - 8) / 4)).map fun w => BitVec.ofNat 32 (leAt (8 + 4 * w) 4 b))
    else .malformed
  | _ => .malformed

/-- Packets that only read: STR.QUERY, STR.SERVICE, LOG.READ, SEC.IDENT and SEC.ATTEST. -/
def readOnlyOps : List Nat := [0x0A01, 0x0A07, 0x0B02, 0x0C01, 0x0C02]

/-- Is the sender one of FMGR_ID0 to FMGR_ID3? -/
def isFabricManager (s : State) (dev : Nat) : Bool := s.lnk.fmgr.any fun r => r.getLsbD 31 && r.toNat % 2 ^ 14 == dev

/-- Which MGT_REQ messages the module accepts (R352). -/
def mgtAllowed (s : State) (localOnly : Bool) (dev : Nat) (b : MgtBody) : Bool :=
  isFabricManager s dev || (localOnly && (match b with
    | .idWrite _ => true
    | .idRead => true
    | .routeRead _ _ => true
    | .packet _ ws => readOnlyOps.contains ((ws.headD 0).toNat % 2 ^ 16)
    | _ => false))

/-- Answer a management message: on the link it came on when it was sent LOCAL_ONLY, else by routing. -/
def mgtAnswer (a : Arrival) (v : Nat) (m r : Msg) (s : State) : State :=
  let dev := m.srcDev.toNat % 2 ^ 14
  if a.localOnly && decide (a.link < 32) then
    enqueue a.link v { dest := dev, hops := 1, localOnly := true, bytes := msgBytes r, origin := none } s
  else (sendMsg v dev r s).1

def mgtRsp (s : State) (m : Msg) (data : List Byte) : Msg := { respMsg s m 0x85 0 0 with data := data }

/-- The effect of an accepted MGT_REQ; a packet waits for the management core as a packet from the port does. -/
def mgtRequest (a : Arrival) (m : Msg) (s : State) : State :=
  let b := mgtBody m.data
  if !alive s then s
  else if !mgtAllowed s a.localOnly (m.srcDev.toNat % 2 ^ 14) b then mgtAnswer a 1 m (respMsg s m 0x82 ncPERMISSION 0) s
  else match b with
    | .routeRead f n =>
      let rs := (List.range n).flatMap fun i => leBytes 2 (kvGetD (f + i) 0 s.lnk.routing).toNat
      mgtAnswer a 3 m (mgtRsp s m ([1, 0] ++ leBytes 2 f ++ leBytes 2 n ++ zeros 2 ++ rs)) s
    | .routeWrite f es =>
      let s := (List.range es.length).foldl (fun s i => writeRoute (f + i) (es.getD i 0) s) s
      mgtAnswer a 3 m (mgtRsp s m ([2, 0] ++ leBytes 2 f ++ leBytes 2 es.length ++ zeros 2)) s
    | .idWrite id =>
      let s := setDeviceId id s
      mgtAnswer a 3 m (mgtRsp s m ([3] ++ zeros 3 ++ leBytes 4 (barRead s 0x8000).toNat)) s
    | .idRead => mgtAnswer a 3 m (mgtRsp s m ([4] ++ zeros 3 ++ leBytes 4 (barRead s 0x8000).toNat)) s
    | .packet tag ws =>
      let back := if a.localOnly && decide (a.link < 32) then some a.link else none
      let p := packetOfWords (.link (m.srcDev.setWidth 14) m.srcCtx m.srcGen m.xferTag tag back) ws
      answerBad { s with fetched := s.fetched ++ [(s.nextUid, p)], nextUid := s.nextUid + 1 }
    | .malformed => mgtAnswer a 1 m (respMsg s m 0x82 ncPERMISSION 0) s

/-- MSG_MGT_REQ (R352). -/
def execMsgMgtReq (l : Nat) (localOnly : Bool) (m : Msg) (s : State) : Host.Outcome State Fault Refusal :=
  .next (onArrival l 3 0x05 m (fun a s => if a.localOnly = localOnly then mgtRequest a m s else s) s)

/-- MSG_MGT_RSP: this module asks nothing of a peer's management core, so a response is only taken out of the receiver (R333, R352). -/
def execMsgMgtRsp (l : Nat) (m : Msg) (s : State) : Host.Outcome State Fault Refusal :=
  .next (onArrival l 3 0x85 m (fun _ s => s) s)

end Sys2Proof.Machine
end

