-- ==== Sys2Proof/Machine/Links.lean ====
section
/-! DEFINITION. The links: flits, sequence and replay, credits, training and audits, reassembly and forwarding (R324 to R339, R353). -/

namespace Sys2Proof.Machine

/-! ## Flits (R328) -/

/-- Field [hi:lo] of a flit's header. -/
def flitField (f : List Byte) (hi lo : Nat) : Nat := fld (leNat (f.take 14)) hi lo

def flitOk (f : List Byte) : Bool := f.length == 256 && crc32 (f.take 252) == leAt 252 4 f

/-- Take an armed injection of the link's own strand. -/
def takeArmed (l src : Nat) (s : State) : State × Bool :=
  if armedOn s (sL l) src then
    ({ s with str := { s.str with armed := s.str.armed.filter (· != (strandId (sL l), src)) } }, true)
  else (s, false)

/-- Send a sequenced flit: it is kept in the replay buffer until an ACK passes it (R330). An armed injection corrupts the CRC of a DATA flit on the wire. -/
def sendSequenced (l ftype vc : Nat) (start : Option FlitStart) (payload : List Byte) (s : State) : State :=
  let seq := (linkOf s l).txSeq
  let f := makeFlit s l ftype seq vc start payload
  let s := updLink l (fun k => { k with txSeq := (k.txSeq + 1) % 4096, replay := k.replay ++ [(seq, f)] }) s
  let (s, bad) := if ftype = 0 then takeArmed l 0 s else (s, false)
  wire l (if bad then setAt 252 (fun b => b ^^^ 1) f else f) s

/-- A NAK names the next SEQ expected in its ACK field (R330). -/
def sendNak (l : Nat) (s : State) : State := wire l (makeFlit s l 2 0 0 none []) s

/-! ## Training and audits (R331, R335) -/

/-- The link takes flits: in service, and trained or training. -/
def linkOpen (s : State) (l : Nat) : Bool := !linkShut s l && ((linkOf s l).state == .up || (linkOf s l).state == .training)

/-- The CREDIT_AUDIT of a side, and the IDLE flits that repeat its values (R335). An armed injection adds 1 to RX_HELD of VC 0. -/
def sendAudit (l : Nat) (s : State) : State :=
  let (s, bad) := takeArmed l 1 s
  let body := (List.range 4).flatMap fun v =>
    let c := (linkOf s l).vcs.getD v Vc.initial
    leBytes 4 ((c.rxHeld + (if bad ∧ v = 0 then 1 else 0)) % 512 + 2 ^ 16 * (c.crTotal % 4096))
  let s := updLink l (fun k => { k with auditSent := true, auditCr := k.vcs.map Vc.crTotal }) s
  sendIdles l 4 (sendSequenced l 3 0 none body s)

/-- Once nothing is unacknowledged in a training, the audit goes out. -/
def auditIfReady (l : Nat) (s : State) : State :=
  let k := linkOf s l
  if k.state == .training && !k.auditSent && k.replay.isEmpty then sendAudit l s else s

/-- Both audits are through: the link is UP. -/
def upIfAudited (l : Nat) (s : State) : State :=
  let k := linkOf s l
  if k.state == .training && k.auditSent && k.audited then
    evalLevels (updLink l (fun k => { k with state := .up, attempts := 0, trained := true }) s)
  else s

/-- The lanes are locked: unacknowledged flits are replayed, then the audit follows (R335). -/
def lanesLocked (l : Nat) (s : State) : State :=
  auditIfReady l ((linkOf s l).replay.foldl (fun s r => wire l r.2 s) s)

/-- A link error of class UNIT: the link is fenced (R331, R335, R384, R396). -/
def fenceLink (l : Nat) (s : State) : State := raiseEvent (sL l) 1 .none false false s

/-- A rule broken in a flit that passes its CRC: the link retrains, and the UNIT error charged to it fences it (R331, R384; log 38). -/
def protocolError (l : Nat) (s : State) : State := fenceLink l (retrain l s)

/-- A fresh start of a link: the books of a first training (R335). -/
def firstBooks (k : Link) : Link :=
  { k with txSeq := 0, rxSeq := 0, nakSeq := 0, nakRun := 0, dropping := false, replay := []
           vcs := List.replicate 4 { Vc.initial with txAvail := 256 } }

/-- The link may train: phase 5 of start-up has begun, and it is not fenced. -/
def mayTrain (s : State) (l : Nat) : Bool :=
  (decide (5 ≤ s.str.phasesDone) || s.pwr.phase == .starting 5) && !linkShut s l && (linkOf s l).state != .fenced

/-- This side's TRAIN flit: its device ID and link number, laid out as LNK_PEER holds them (R327; log 138). -/
def sendTrain (l : Nat) (s : State) : State :=
  let id := if s.lnk.deviceIdValid then 2 ^ 30 + 2 ^ 5 * s.lnk.deviceId.toNat else 0
  wire l (makeFlit s l 4 0 0 none (leBytes 4 (2 ^ 31 + id + l % 32))) s

/-- FLIT_TRAIN: this side reports itself, lanes that fail to lock are fenced, what the peer reports is recorded, and the audit follows (R326, R327, R335, R353). -/
def execFlitTrain (l : Nat) (peerDev : Option (BitVec 14)) (peerLink : BitVec 5) (badLanes : List Nat) (rtt : BitVec 10) (s : State) :
    Host.Outcome State Fault Refusal :=
  .next (if !mayTrain s l then s
    else
      let s := updLink l (fun k => if k.state = .down then { firstBooks k with state := .training } else k) s
      if (linkOf s l).state != .training then s
      else
        let s := badLanes.foldl (fun s k => raiseEvent (sLANE l k) 1 .none false false s) s
        if fenced s (sL l) then s
        else
          lanesLocked l <| sendTrain l (updLink l (fun k => { k with peerValid := true, peerDev := peerDev, peerLink := peerLink, rtt := rtt }) s))

/-- LINK_RETRAIN_END: an attempt ends; the third failure fences the link (R331). -/
def execLinkRetrainEnd (l : Nat) (ok : Bool) (s : State) : Host.Outcome State Fault Refusal :=
  .next (if (linkOf s l).state != .training || fenced s (sL l) then s
    else if ok then lanesLocked l s
    else if 3 ≤ (linkOf s l).attempts + 1 then fenceLink l s
    else updLink l (fun k => { k with attempts := k.attempts + 1 }) s)

/-- LANE_SYMBOL_LIMIT: more than 2^20 corrected symbols within one second fence the lane (R326). -/
def execLaneSymbolLimit (l lane : Nat) (s : State) : Host.Outcome State Fault Refusal :=
  .next (if lane < 5 ∧ l < 32 ∧ (linkOf s l).state ≠ .down then raiseEvent (sLANE l lane) 1 .none false false s else s)

/-- FRAME_ALIGNMENT_LOSS: the link retrains (R331). -/
def execFrameAlignmentLoss (l : Nat) (s : State) : Host.Outcome State Fault Refusal :=
  .next (if (linkOf s l).state = .up then evalLevels (retrain l s) else s)

/-! ## Sending (R329, R330, R333) -/

/-- A RUN packet with one check field altered by an armed injection (R396). -/
def alterRun (l v : Nat) (b : List Byte) (s : State) : State × List Byte :=
  if v = 2 ∧ b.getD 0 1 = 0 then
    let (s, bad) := takeArmed l 2 s
    (s, if bad then setAt 1088 (fun x => x ^^^ 1) b else b)
  else (s, b)

/-- May DATA flits leave: the link is UP, and its replay buffer holds fewer than 512 flits (R330, R331). -/
def mayFlit (s : State) (l : Nat) : Bool :=
  !linkShut s l && (linkOf s l).state == .up && decide ((linkOf s l).replay.length < 512)

/-- May the head of a queue start on its link (R330, R333, R351)? -/
def maySend (s : State) (l v : Nat) (o : Outbound) : Bool :=
  mayFlit s l && (s.lnk.deviceIdValid || o.localOnly)
    && decide (msgUnits o.bytes.length ≤ ((linkOf s l).vcs.getD v Vc.initial).txAvail)

/-- Has the virtual channel a message under way, or one ready with enough credits (R329)? -/
def vcReady (s : State) (l v : Nat) : Bool :=
  let c := (linkOf s l).vcs.getD v Vc.initial
  c.tx.isSome || (match c.txq with
    | o :: _ => maySend s l v o
    | [] => false)

/-- The head of a queue is under way: its units are deducted (R333). -/
def startSend (l v : Nat) (s : State) : State :=
  match ((linkOf s l).vcs.getD v Vc.initial).txq with
  | [] => s
  | o :: rest =>
    let r := alterRun l v o.bytes s
    updVc l v (fun c => { c with txq := rest, txAvail := c.txAvail - msgUnits o.bytes.length, tx := some ({ o with bytes := r.2 }, 0) }) r.1

/-- One DATA flit of the message under way; a message starts in a flit of its own (log 20). With its last byte it has left, and so have its units where it arrived (R333). -/
def sendFlit (l v : Nat) (s : State) : State :=
  match ((linkOf s l).vcs.getD v Vc.initial).tx with
  | none => s
  | some (o, sent) =>
    let start : FlitStart := { dest := o.dest, hops := o.hops, len := o.bytes.length, localOnly := o.localOnly }
    let s := sendSequenced l 0 v (if sent = 0 then some start else none) ((o.bytes.drop sent).take 238) s
    if o.bytes.length ≤ sent + 238 then freeOrigin v o (updVc l v (fun c => { c with tx := none }) s)
    else updVc l v (fun c => { c with tx := some (o, sent + 238) }) s

/-- The virtual channel whose turn it is (R329). -/
def nextVc (s : State) (l : Nat) : Option Nat := ((List.range 4).map fun i => ((linkOf s l).turn + i) % 4).find? (vcReady s l)

/-- One turn of the round-robin: a flit of one virtual channel (R329). -/
def flitTurn (l v : Nat) (s : State) : State :=
  let s := if (((linkOf s l).vcs.getD v Vc.initial).tx).isNone then startSend l v s else s
  updLink l (fun k => { k with turn := (v + 1) % 4 }) (sendFlit l v s)

/-- Turns of the round-robin until a test holds, nothing is ready, or flits may not leave. -/
def sendUntil : Nat → (State → Bool) → Nat → State → State
  | 0, _, _, s => s
  | n + 1, done, l, s =>
    if done s || !mayFlit s l then s
    else match nextVc s l with
      | none => s
      | some v => sendUntil n done l (flitTurn l v s)

/-- Messages under way go on once a full replay buffer or a training no longer holds them. -/
def resume (l : Nat) (s : State) : State := sendUntil 512 (fun s => (linkOf s l).vcs.all fun c => c.tx.isNone) l s

/-! ## What every received flit carries (R330, R333) -/

/-- ACK: the replay buffer lets go of what it passes; a NAK run of such a SEQ is over. -/
def takeAck (l ack : Nat) (s : State) : State :=
  let passed := fun seq => decide (1 ≤ (ack + 4096 - seq) % 4096) && decide ((ack + 4096 - seq) % 4096 ≤ 2048)
  auditIfReady l (updLink l (fun k => { k with replay := k.replay.filter fun r => !passed r.1
                                               nakRun := if passed k.nakSeq then 0 else k.nakRun }) s)

/-- CR_TOTAL: units come back; frozen in a training (R333, R335). A value behind the last one seen is that of a flit sent again: more than 256 units can never come back at once (R334; log 139). -/
def takeCredit (l : Nat) (f : List Byte) (s : State) : State :=
  if (linkOf s l).state != .up then s
  else updVc l (flitField f 33 32) (fun c =>
    let back := (flitField f 31 20 + 4096 - c.crSeen) % 4096
    if back ≤ 256 then { c with txAvail := c.txAvail + back, crSeen := flitField f 31 20 } else c) s

/-- Do the fields keep the rules of R328, R329 and R331? Reserved bits are ignored (R8). -/
def flitRules (f : List Byte) : Bool :=
  let used := flitField f 82 75
  let start := flitField f 74 74 == 1
  let len := flitField f 47 35
  decide (flitField f 87 85 < 5) && decide (used ≤ 238)
    && (if start then decide (flitField f 73 66 < used) && decide (32 ≤ len) && decide (len ≤ 4192) else decide (flitField f 74 35 = 0))

/-- A received flit of one type: dropped and NAKed when its CRC fails, else its ACK and credits are taken before its own effect, and what waited for them goes on. -/
def onFlit (l ftype : Nat) (f : List Byte) (body : State → State) (s : State) : State :=
  if !linkOpen s l then s
  else if !flitOk f then
    sendNak l (updLink l (fun k => { k with dropping := true }) (raiseEvent (sL l) 0 .none false false s))
  else if !flitRules f then evalLevels (protocolError l s)
  else if flitField f 87 85 ≠ ftype then s
  else resume l (body (takeCredit l f (takeAck l (flitField f 99 88) s)))

/-- Sequence check of a DATA or CREDIT_AUDIT flit: run the body on the next SEQ expected, which an IDLE acknowledges; drop and count a duplicate, NAK a gap (R330). -/
def inSequence (l : Nat) (f : List Byte) (body : State → State) (s : State) : State :=
  let k := linkOf s l
  let ahead := (flitField f 111 100 + 4096 - k.rxSeq) % 4096
  if ahead = 0 then sendIdles l 1 (body (updLink l (fun k => { k with rxSeq := (k.rxSeq + 1) % 4096, dropping := false }) s))
  else if 2048 ≤ ahead then updLink l (fun k => { k with duplicates := k.duplicates + 1 }) s
  else if k.dropping then s
  else sendNak l (updLink l (fun k => { k with dropping := true }) s)

/-- FLIT_IDLE: ACK and credits only. -/
def execFlitIdle (l : Nat) (f : List Byte) (s : State) : Host.Outcome State Fault Refusal := .next (onFlit l 1 f id s)

/-- The flits from a SEQ on are sent again; the eighth NAK in a row of one SEQ retrains the link (R330, R331). -/
def nakBody (l : Nat) (f : List Byte) (s : State) : State :=
  let seq := flitField f 99 88
  let k := linkOf s l
  let run := if k.nakSeq = seq then k.nakRun + 1 else 1
  let s := updLink l (fun k => { k with nakSeq := seq, nakRun := run }) s
  if 8 ≤ run then evalLevels (retrain l s) else k.replay.foldl (fun s r => wire l r.2 s) s

/-- FLIT_NAK. -/
def execFlitNak (l : Nat) (f : List Byte) (s : State) : Host.Outcome State Fault Refusal := .next (onFlit l 2 f (nakBody l f) s)

/-- One VC of the peer's audit balances (R335 step 4): what came back, and whether the sum is 256. -/
def auditVc (k : Link) (payload : List Byte) (v : Nat) : Nat × Nat × Nat × Bool :=
  let c := k.vcs.getD v Vc.initial
  let w := leAt (4 * v) 4 payload
  let back := (fld w 27 16 + 4096 - c.crSeen) % 4096
  (fld w 8 0, fld w 27 16, back, decide (c.txAvail + back + fld w 8 0 = 256))

/-- The peer's audit: adopted when every VC checks, else the mismatch is recorded and the link fenced. -/
def auditBody (l : Nat) (f : List Byte) (s : State) : State :=
  let k := linkOf s l
  let payload := (f.drop 14).take 16
  if k.state != .training then evalLevels (protocolError l s)
  else
    match (List.range 4).find? fun v => !(auditVc k payload v).2.2.2 with
    | some v =>
      let a := auditVc k payload v
      let p1 := v + (k.vcs.getD v Vc.initial).txAvail * 2 ^ 4 + 2 ^ 16 * a.1
      fenceLink l (logRec (mkRec 0x0500 2 (strandId (sL l)) (BitVec.ofNat 32 p1) a.2.2.1) s)
    | none =>
      let s := (List.range 4).foldl (fun s v =>
        let a := auditVc k payload v
        updVc l v (fun c => { c with txAvail := c.txAvail + a.2.2.1, crSeen := a.2.1 }) s) s
      upIfAudited l (updLink l (fun k => { k with audited := true }) s)

/-- FLIT_CREDIT_AUDIT (R335). -/
def execFlitCreditAudit (l : Nat) (f : List Byte) (s : State) : Host.Outcome State Fault Refusal :=
  .next (onFlit l 3 f (fun s => upIfAudited l (inSequence l f (auditBody l f) s)) s)

/-! ## Messages out of a link's stream (R329, R337, R338, R345) -/

/-- Does a message for this module keep its layout: a defined KIND, reserved fields 0, and the length that its KIND and LENGTH say (R273, R345)? -/
def layoutOk (v : Nat) (b : List Byte) : Bool :=
  let n := b.length
  let kind := leAt 0 1 b
  let len := leAt 24 4 b
  let header := decide (leAt 2 2 b < 2 ^ 14) && decide (leAt 4 2 b < 2 ^ 12) && decide (leAt 8 4 b < 2 ^ 26) && decide (leAt 12 2 b < 2 ^ 13)
    && (kind == 0x82 || leAt 15 1 b == 0) && (kind == 0x82 || kind == 0x03 || leAt 1 1 b == 0)
  let ranged := decide (1 ≤ len) && decide (len ≤ 4096) && leAt 28 4 b == 0 && decide (leAt 16 8 b < 2 ^ 48)
  if v = 2 then decide (kind < 4) && n == (if kind < 2 then 1280 else 64)
  else if v = 0 then
    header && (if kind = 1 then ranged && n == 96 + len
      else if kind = 2 then ranged && n == 32
      else if kind = 3 then decide (leAt 1 1 b < 2) && n == 32
      else kind == 4 && leAt 24 8 b == 0 && n == 32)
  else if v = 1 then
    header && (if kind = 0x81 then ranged && n == 96 + len else (kind == 0x80 || kind == 0x82) && leAt 24 8 b == 0 && n == 32)
  else header && (kind == 5 || kind == 0x85) && leAt 24 8 b == 0 && decide (32 ≤ n)

/-- A message that arrived on a link and is unroutable leaves its buffer (R333, R338). -/
def unroutable (l v : Nat) (b : List Byte) (s : State) : State := dropUnroutable (l / 8) v b (freeUnits l v b.length s)

/-- A whole message has arrived on a link: delivered here, forwarded, or unroutable. -/
def arrived (l v : Nat) (o : Outbound) (s : State) : State :=
  let n := o.bytes.length
  if !s.lnk.deviceIdValid ∧ !(o.localOnly ∧ v = 3) then freeUnits l v n s
  else
    let hop := if o.localOnly then Hop.here else route s o.dest
    match hop with
    | .here =>
      if layoutOk v o.bytes then
        { s with lnk := { s.lnk with inbox := s.lnk.inbox ++ [{ link := l, vc := v, localOnly := o.localOnly, bytes := o.bytes }] } }
      else evalLevels (protocolError l (freeUnits l v n s))
    | .link k => if 15 ≤ o.hops then unroutable l v o.bytes s else enqueue k v { o with hops := o.hops + 1, origin := some l } s
    | .nowhere => unroutable l v o.bytes s

/-- Add stream bytes to the message under reassembly; a complete one has arrived. -/
def addBytes (l v : Nat) (bs : List Byte) (s : State) : State :=
  match ((linkOf s l).vcs.getD v Vc.initial).rx with
  | none => s
  | some (o, left) =>
    let o := { o with bytes := o.bytes ++ bs.take left }
    if left ≤ bs.length then arrived l v o (updVc l v (fun c => { c with rx := none }) s)
    else updVc l v (fun c => { c with rx := some (o, left - bs.length) }) s

/-- A message starts: its units are held from now on. -/
def startMessage (l v : Nat) (f : List Byte) (s : State) : State :=
  let len := flitField f 47 35
  let o : Outbound := { dest := flitField f 65 52, hops := flitField f 51 48, localOnly := flitField f 34 34 == 1, bytes := [], origin := none }
  updVc l v (fun c => { c with rx := some (o, len), rxHeld := c.rxHeld + msgUnits len }) s

/-- A DATA flit that may not come now: before the audit of a first training, or between the peer's audit and ours (R331, R335). -/
def dataTooEarly (k : Link) : Bool := k.state == .training && (!k.trained || k.audited)

/-- The payload of a DATA flit in sequence. -/
def dataBody (l : Nat) (f : List Byte) (s : State) : State :=
  if dataTooEarly (linkOf s l) then evalLevels (protocolError l s)
  else
    let v := flitField f 84 83
    let bs := (f.drop 14).take (flitField f 82 75)
    if flitField f 74 74 = 1 then
      let off := flitField f 73 66
      addBytes l v (bs.drop off) (startMessage l v f (addBytes l v (bs.take off) s))
    else addBytes l v bs s

/-- FLIT_DATA (R329, R330). -/
def execFlitData (l : Nat) (f : List Byte) (s : State) : Host.Outcome State Fault Refusal :=
  .next (onFlit l 0 f (inSequence l f (dataBody l f)) s)

/-- MSG_SEND: the oldest message of a virtual channel starts on its link, its units are deducted, and the link sends until that message has left (R329, R333; log 140). -/
def execMsgSend (l v : Nat) (s : State) : Host.Outcome State Fault Refusal :=
  .next (if vcReady s l v then
      let s := if (((linkOf s l).vcs.getD v Vc.initial).tx).isNone then startSend l v s else s
      sendUntil 512 (fun s => (((linkOf s l).vcs.getD v Vc.initial).tx).isNone) l s
    else s)

end Sys2Proof.Machine
end

