-- ==== Sys2Proof/Machine/Service.lean ====
section
/-! DEFINITION. Faults as they arrive, the root's scan, memory repair, and the STR and LOG commands (R26 to R33, R241 to R252, R381 to R412, R443 to R450, R519). -/

namespace Sys2Proof.Machine

/-- The module has power and its collectors run: start-up has begun (R446, R462). -/
def powered (s : State) : Bool :=
  match s.pwr.phase with
  | .starting _ => true
  | .running => true
  | _ => false

/-! ## Events -/

/-- ERROR_EVENT: a detector fires (R384 to R396). -/
def execErrorEvent (p : Strand) (src : Nat) (obj : ErrObj) (s : State) : Host.Outcome State Fault Refusal :=
  .next (if powered s && strandOk p then advance (raiseEvent p src obj false false s) else s)

/-- Records of stoppers that no source's event explains; those of the time before Logline runs wait for the root's first scan (R446). -/
def recordStops (sev : Nat) (stops : List (Nat × StopKind)) (s : State) : State :=
  if s.log.booted then (sortBy Prod.fst stops).foldl (fun s st => recordStop sev 0 15 st s) s
  else
    let wait := fun (st : Nat × StopKind) =>
      { strand := st.1, src := 15, cls := 2, injected := false, rail := false, fresh := false, device := sev == 3, stops := [st] : NewEvent }
    { s with str := { s.str with newEvents := s.str.newEvents ++ stops.map wait } }

/-- A rail fault on the summary pair of a depth-1 collector fences the subtree below it (R386, R394). -/
def summaryFault (p : Strand) (s : State) : State :=
  if fenced s p then s
  else if neededByH s p then
    let r := deviceReaction [] false s
    recordService (recordStops 3 r.2 (afterStoppers r.1))
  else
    let r := setStopper stopFuel p .fault false s
    let s := fndRequest { target := p, cause := 5, escalated := false, uid := none } r.1
    recordService (recordStops 2 r.2 (afterStoppers s))

/-- RAIL_FAULT: on a detector's pair, an event of its source; on a collector's summary pair, the loss of its subtree (R386). -/
def execRailFault (p : Strand) (src : Nat) (onSummary : Bool) (s : State) : Host.Outcome State Fault Refusal :=
  .next (if !powered s || !strandOk p then s
    else if onSummary then (if p.length = 1 then advance (summaryFault p s) else s)
    else advance (raiseEvent p src .none false true s))

/-- CLOCK_LOSS: source 15 on every strand that the island holds, and on IZ/ARR and IZ/SPILL for the array loop (R17, R519). -/
def execClockLoss (what : ClockFault) (s : State) : Host.Outcome State Fault Refusal :=
  .next (if powered s then advance ((clockStrands what).foldl (fun s p => raiseEvent p 15 .none false false s) s) else s)

/-- SYS_REFCLK_LOSS: the DEVICE event of the root; every island loses lock, and no record of it is left in this power cycle (R17, R396, R403, R507). -/
def execSysRefclkLoss (s : State) : Host.Outcome State Fault Refusal :=
  .next (if !powered s || !s.pwr.refclk then s
    else
      evalLevels (raiseEvent [] 0 .none false false { s with pwr := { s.pwr with refclk := false } }))

/-- WATCHDOG_EXPIRY (R403). -/
def execWatchdogExpiry (s : State) : Host.Outcome State Fault Refusal :=
  .next (if powered s then evalLevels (stopManagement s) else s)

/-! ## The root's scan (R390, R391) -/

/-- One event's records: ERR_NEW, then the stoppers its reaction set. -/
def recordEvent (e : NewEvent) (s : State) : State :=
  let x := kvGetD e.strand noSources s.str.sources
  let p1 := e.src + e.cls * 2 ^ 4 + bnat e.injected * 2 ^ 6 + bnat e.rail * 2 ^ 7 + kvGetD e.src 0 x.counts % 2 ^ 24 * 2 ^ 8
  let s :=
    if e.fresh then
      let s := logRec (mkRec 0x0100 (max 1 e.cls) e.strand (BitVec.ofNat 32 p1) s.str.scanNo.toNat) s
      let s := if 2 ≤ e.cls then setIrq irqERR_UNIT s else s
      if e.cls < 2 then { s with str := { s.str with recorded := s.str.recorded ++ [(e.strand, e.src, s.clk.uptimeMs)] } } else s
    else s
  (sortBy Prod.fst e.stops).foldl (fun s st => recordStop (if e.device then 3 else 2) (bnat e.injected) e.src st s) s

/-- ROOT_SCAN: the records of what has happened since the last scan, in ascending strand ID, closed by SERVICE. -/
def execRootScan (s : State) : Host.Outcome State Fault Refusal :=
  .next (if !logAlive s then s
    else
      let evs := sortBy NewEvent.strand s.str.newEvents
      let s := evs.foldl (fun s e => recordEvent e s) { s with str := { s.str with newEvents := [] } }
      let s := recordService (evalLevels s)
      { s with str := { s.str with scanNo := s.str.scanNo + 1 } })

/-- STICKY_REARM: 60 s after its record, the sticky bit of a CORRECTED or CONTAINED source is cleared (R391). -/
def execStickyRearm (p : Strand) (src : Nat) (s : State) : Host.Outcome State Fault Refusal :=
  let id := strandId p
  .next (match s.str.recorded.find? fun r => r.1 == id && r.2.1 == src with
    | none => s
    | some r =>
      if (s.clk.uptimeMs - r.2.2).toNat < 60000 then s
      else
        let x := sourcesOf s p
        { s with str := { s.str with
            sources := kvSet id { x with sticky := x.sticky &&& ~~~ BitVec.ofNat 16 (2 ^ src) } s.str.sources
            recorded := s.str.recorded.filter (· != r) } })

/-! ## Memory repair (R244 to R248) -/

/-- BLOCK_REMAP_DONE: the accesses that the remap held go on (R246). -/
def execBlockRemapDone (u : Strand) (b : Nat) (s : State) : Host.Outcome State Fault Refusal :=
  .next (advance (retryHeld { s with mem := { s.mem with busyBlocks := s.mem.busyBlocks.filter (· != (strandId u, b)) } }))

/-- UNIT_REDIRECT_DONE: the accesses that the redirection held go on (R248). -/
def execUnitRedirectDone (u : Strand) (s : State) : Host.Outcome State Fault Refusal :=
  .next (advance (retryHeld { s with mem := { s.mem with busyUnits := s.mem.busyUnits.filter (· != strandId u) } }))

/-- Words of what a physical block holds that an injection has corrupted. -/
def damagedIn (s : State) (u : Strand) (b : Nat) : List (Nat × Bool) :=
  match holderOf s u b with
  | some t => s.mem.damaged.filter fun d => (blockKeys t.1 t.2).any fun k => decide (k.1 ≤ d.1) && decide (d.1 < k.2)
  | none => []

/-- PATROL_SCRUB: the controller of a working unit reads one word of it, at an offset in the unit's own blocks (R244, R521). -/
def execPatrolScrub (u : Strand) (addr : Nat) (found : Ecc) (s : State) : Host.Outcome State Fault Refusal :=
  let b := addr / 65536
  .next (if !strandOk u || fenced s u || !admitted s u || underReset s u then s
    else
      let s := (damagedIn s u b).foldl (fun s d =>
        raiseEvent u (bnat d.2) (.block b) true false { s with mem := { s.mem with damaged := s.mem.damaged.filter (· != d) } }) s
      match found with
      | .clean => s
      | .corrected => raiseEvent u 0 (.block b) false false s
      | .uncorrectable => raiseEvent u 1 (.block b) false false s)

/-! ## STR commands (R26 to R33, R381 to R383) -/

/-- The strand that words 4 and 5 name. -/
def strandArg (p : Packet) : Option Strand := strandOf (dw p 4)

def strandBad (p : Packet) : List Nat := badIf (strandArg p).isNone 4

/-- The reply of STR.QUERY, STR.FENCE and STR.UNFENCE (R27, R383). -/
def queryRes (s : State) (q : Strand) : Result :=
  let ds := descendants q
  let f := (ds.filter (fenced s)).length
  let b := (ds.filter (standby s)).length
  { okRes with
    detail := BitVec.ofNat 24 (summary s q * 4 + strandState s q)
    cnt0 := BitVec.ofNat 32 (ds.length - f - b), cnt1 := BitVec.ofNat 32 f, cnt2 := BitVec.ofNat 32 b, cnt3 := sat32 (fenceEvents s q) }

def queryChecks (_ : State) (p : Packet) : Checks := { noChecks with param := strandBad p ++ zeroWords p [6, 7] }

/-- STR.QUERY (R27). -/
def execStrQuery (p : Packet) (s : State) : Host.Outcome State Fault Refusal :=
  .next (met s (takeUp 0x0A01 (runNow queryChecks fun p s => (s, queryRes s ((strandArg p).getD []))) p s))

/-- Does the subtree hold a strand that service level H needs (R29)? -/
def holdsNeeded (s : State) (q : Strand) : Bool := neededByH s q

def fenceChecks (s : State) (p : Packet) : Checks :=
  { noChecks with
    param := strandBad p ++ zeroWords p [6, 7]
    permission := ctx0Only s p
    conflict := badIf (holdsNeeded s ((strandArg p).getD [])) 4 }

/-- STR.FENCE: an operator stopper, with its records; on a strand already FENCED nothing changes (R28, R397). -/
def fenceEffect (p : Packet) (s : State) : State × Result :=
  let q := (strandArg p).getD []
  if fenced s q then (s, { queryRes s q with detail := (queryRes s q).detail ||| dfOp 46 })
  else
    let r := setStopper stopFuel q .operator false s
    let s := recordService (recordStops 0 r.2 (afterStoppers r.1))
    let s := advance s
    (s, queryRes s q)

def execStrFence (p : Packet) (s : State) : Host.Outcome State Fault Refusal :=
  .next (met s (takeUp 0x0A02 (runNow fenceChecks fenceEffect) p s))

/-- A stopper that STR.UNFENCE cannot release: one on an ancestor, or of another kind than OPERATOR (R32, R398). -/
def cannotUnfence (s : State) (q : Strand) : Bool :=
  ancestorFenced s q || (match stopperOf s q with
    | some x => x.kind != .operator
    | none => false)

def unfenceChecks (s : State) (p : Packet) : Checks :=
  { noChecks with
    param := strandBad p ++ zeroWords p [6, 7]
    permission := ctx0Only s p
    conflict := badIf (cannotUnfence s ((strandArg p).getD [])) 4 }

/-- Release an operator stopper, and the derived ones above it; a strand all of whose children are FENCED takes a derived one in its place (R28). -/
def unfence (q : Strand) (s : State) : State :=
  let s := { s with str := { s.str with stoppers := kvErase (strandId q) s.str.stoppers } }
  let s := logRec (mkRec 0x0102 0 (strandId q) 0 0) s
  let r := if (kids q).isEmpty then (s, []) else deriveUp 7 (q ++ [0]) s
  recordService (afterStoppers (recordStops 0 r.2 (unitBack q (releaseUp 7 q r.1))))

/-- STR.UNFENCE; a fault found in the same cycle keeps the strand fenced (R32). -/
def unfenceEffect (refault : Bool) (p : Packet) (s : State) : State × Result :=
  let q := (strandArg p).getD []
  if (stopperOf s q).isNone then (s, queryRes s q)
  else if refault then
    let r := fenceUnit .fault q s
    let s := recordService (recordStops 2 r.2 (afterStoppers r.1))
    (s, { queryRes s q with status := stFLAGGED, detail := (queryRes s q).detail ||| dfOp 47 })
  else
    let s := advance (unfence q s)
    (s, queryRes s q)

def execStrUnfence (p : Packet) (refault : Bool) (s : State) : Host.Outcome State Fault Refusal :=
  .next (met s (takeUp 0x0A03 (runNow unfenceChecks (unfenceEffect refault)) p s))

def injMode (p : Packet) : Nat := pf p 6 15 12
def injSrc (p : Packet) : Nat := pf p 6 3 0

def injectChecks (s : State) (p : Packet) : Checks :=
  let q := (strandArg p).getD []
  { noChecks with
    param := strandBad p ++ resv p 6 0xF00F ++ zeroWords p [7]
      ++ badIf (decide (2 < injMode p) || (sourceClass q (injSrc p)).isNone || (injMode p == 1 && !hasDataMode q (injSrc p))) 6
    permission := ctx0Only s p
    conflict := badIf (fenced s q) 4 }

/-- STR.INJECT: the source fires, its pair is held wrong, or the next operation of its kind is corrupted (R407, R408). -/
def injectEffect (p : Packet) (s : State) : State × Result :=
  let q := (strandArg p).getD []
  let r := okCnt (BitVec.ofNat 32 (wd p 6)) 0 0 0
  match injMode p with
  | 0 => (advance (raiseEvent q (injSrc p) .none true false s), r)
  | 1 => ({ s with str := { s.str with armed := s.str.armed ++ [(strandId q, injSrc p)] } }, r)
  | _ => (advance (raiseEvent q (injSrc p) .none true true s), r)

def execStrInject (p : Packet) (s : State) : Host.Outcome State Fault Refusal :=
  .next (met s (takeUp 0x0A05 (runNow injectChecks injectEffect) p s))

/-- Links whose STATE is UP (R382). -/
def linksUp (s : State) : Nat := ((List.range 32).map fun l => if linkStateCode s l = 2 then 2 ^ l else 0).sum

/-- STR.SERVICE (R382). -/
def execStrService (p : Packet) (s : State) : Host.Outcome State Fault Refusal :=
  .next (met s (takeUp 0x0A07 (runNow (fun s p => { noChecks with permission := ctx0Only s p }) fun _ s =>
    (s, okCnt (s.str.held.setWidth 32) s.arr.shapeReg (BitVec.ofNat 32 (memStatus s)) (BitVec.ofNat 32 (linksUp s)))) p s))

/-! ## STR.REPAIR_COMMIT (R252, R405) -/

/-- The fuse bit of a strand: splice adders and checkers share their lane's. -/
def fuseOf : Strand → Option Strand
  | [0, 0, 0, n] => some [0, 0, 0, n]
  | [0, 0, 1, n] => some [0, 0, 1, n]
  | [0, 2, c, 0, g] => some [0, 2, c, 0, g]
  | [0, 3, n] => some [0, 3, n]
  | [0, 4, n] => some [0, 4, n]
  | [0, 7, n] => some [0, 7, n]
  | [0, 9, n] => if n < 64 then some [0, 9, n] else none
  | [0, 9, n, _] => some [0, 9, n]
  | [m, x, y] => if 1 ≤ m ∧ m ≤ 4 ∧ x = 0x20 then some [m, x, y] else none
  | [m, x, 0, k] => if 1 ≤ m ∧ m ≤ 4 ∧ 0x10 ≤ x ∧ x < 0x18 then some [m, x, 0, k] else none
  | _ => none

/-- Strands of a subtree whose stopper is of kind FAULT or OPERATOR, ascending. -/
def committable (s : State) (q : Strand) : List Nat :=
  s.str.stoppers.filterMap fun (kv : Nat × Stopper) =>
    if below q (strandAt kv.1) && (kv.2.kind == .fault || kv.2.kind == .operator) then some kv.1 else none

/-- Fenced blocks of a subtree: the physical blocks that faults have struck, usable and reserve (R252). -/
def fencedBlocks (s : State) (q : Strand) : List (Nat × Nat) :=
  s.mem.struck.foldl (fun acc x => if below q (strandAt x.1) && !acc.contains (x.1, x.2.1) then acc ++ [(x.1, x.2.1)] else acc) []

/-- What a commit adds: fuse strands, fuse bits, map strands, map blocks. -/
def commitPlan (s : State) (q : Strand) : List Nat × List Nat × List Nat × List (Nat × Nat) :=
  let ids := committable s q
  let fuse := ids.filter fun i => ((fuseOf (strandAt i)).map fun f => !s.fw.fuseRemoved.contains (strandId f)).getD false
  let bits := fuse.foldl (fun acc i => match fuseOf (strandAt i) with
    | some f => insNat (strandId f) acc
    | none => acc) []
  let strands := ids.filter fun i => (fuseOf (strandAt i)).isNone && !s.fw.stagedMap.contains (i, 0xFFFFFFFF)
  let blocks := (fencedBlocks s q).filter fun b => !s.fw.stagedMap.contains b
  (fuse, bits, strands, blocks)

def commitChecks (s : State) (p : Packet) : Checks :=
  let c := commitPlan s ((strandArg p).getD [])
  { noChecks with
    param := strandBad p ++ zeroWords p [6, 7]
    permission := ctx0Only s p
    conflict := badIf (decide (16384 < s.fw.stagedMap.length + c.2.2.1.length + c.2.2.2.length)) 4 }

/-- STR.REPAIR_COMMIT: fuse bits are burnt, map entries written, and each is recorded. -/
def commitEffect (p : Packet) (s : State) : State × Result :=
  let (fuse, bits, strands, blocks) := commitPlan s ((strandArg p).getD [])
  let s := { s with fw := { s.fw with
    fuseRemoved := bits.foldl (fun l b => insNat b l) s.fw.fuseRemoved
    stagedMap := s.fw.stagedMap ++ (strands.map fun i => (i, 0xFFFFFFFF)) ++ blocks } }
  let rec1 := fun (kind : Nat) (s : State) (i : Nat) => logRec (mkRec 0x0105 0 i (BitVec.ofNat 32 kind) 0) s
  let s := strands.foldl (rec1 1) (fuse.foldl (rec1 0) s)
  let s := blocks.foldl (fun s b => logRec (mkRec 0x0105 0 b.1 (BitVec.ofNat 32 (2 + b.2 * 2 ^ 8)) 0) s) s
  (s, okCnt (BitVec.ofNat 32 bits.length) (BitVec.ofNat 32 (strands.length + blocks.length)) 0 0)

def execStrRepairCommit (p : Packet) (s : State) : Host.Outcome State Fault Refusal :=
  .next (met s (takeUp 0x0A06 (runNow commitChecks commitEffect) p s))

/-! ## LOG commands (R434, R447 to R450) -/

/-- A virtual address field of the classes 0x0A to 0x0C: aligned and mapped whole from a queue, 0 elsewhere (R358, R381). -/
def dataField (s : State) (p : Packet) (w align n : Nat) (write : Bool) : List Nat :=
  if isQueueIssue p then
    vaRange p w n ++ badIf (decide (dw p w % align ≠ 0) || !vaMapped s reachQueue (issuerCtx s p.issuer) (dw p w) n write) w
  else badIf (decide (dw p w ≠ 0)) w

/-- The pin serves as the snapshot trigger, or not as the marker (R434). -/
def pinTaken (s : State) : Bool := s.capt.ctl.getLsbD 0 || s.capt.ctl.getLsbD 1 || !s.capt.ctl.getLsbD 2

def markChecks (s : State) (p : Packet) : Checks :=
  { noChecks with param := resv p 5 0x1FFFF ++ zeroWords p [6, 7], conflict := badIf (pb p 5 16 && pinTaken s) 5 }

/-- LOG.MARK: a HOST_MARK record, or OK_FLAGGED with the stamps alone where its bucket is empty, and a pulse on SB_TRIG with PIN (R434, R454). -/
def markEffect (p : Packet) (s : State) : State × Result :=
  let st := if (bucketOf s 0x0004).tokens = 0 then stFLAGGED else stOK
  let s := logRec { mkRec 0x0004 0 0 (BitVec.ofNat 32 (wd p 4)) (pf p 5 15 0) with mark := true } s
  let s := if pb p 5 16 then { s with pwr := { s.pwr with trigPulses := s.pwr.trigPulses + 1 } } else s
  (s, { okCnt s.clk.powerCycles s.clk.opSeconds 0 0 with status := st })

def execLogMark (p : Packet) (s : State) : Host.Outcome State Fault Refusal :=
  .next (met s (takeUp 0x0B01 (runNow markChecks markEffect) p s))

def readLogChecks (s : State) (p : Packet) : Checks :=
  let n := wd p 5
  { noChecks with param := badIf (n == 0 || decide (16384 < n)) 5 ++ dataField s p 6 32 (32 * min n 16384) true }

/-- LOG.READ: records present, oldest first; outside a queue at most 128 of them follow the reply (R450, R457, R492). Memory that is no longer backed ends it, CNT0 counting the records written (R381). -/
def readLogEffect (p : Packet) (s : State) : State × Result × List Byte :=
  let all := recordsPresent s
  let n := if isQueueIssue p then wd p 5 else min 128 (wd p 5)
  let rs := (all.drop (wd p 4)).take n
  let bytes := rs.flatten
  let r := okCnt (BitVec.ofNat 32 rs.length) (BitVec.ofNat 32 all.length) 0 0
  if isQueueIssue p then
    match vaWrite reachQueue (issuerCtx s p.issuer) (dw p 6) (bytes.map fun b => (b, false)) s with
    | (s, some f) => (s, { r with status := stFLT_FENCED, cnt0 := BitVec.ofNat 32 ((f.va - dw p 6) / 32) }, [])
    | (s, none) => (s, r, [])
  else (s, r, bytes)

def execLogRead (p : Packet) (s : State) : Host.Outcome State Fault Refusal :=
  .next (met s (takeUp 0x0B02 (runNowData readLogChecks readLogEffect) p s))

def limitChecks (s : State) (p : Packet) : Checks :=
  let code := pf p 4 15 0
  { noChecks with
    param := resv p 4 0xFFFFFF ++ badIf (pf p 4 23 16 == 0 || exemptCodes.contains code || !definedCodes.contains code) 4
      ++ badIf (wd p 5 == 0 || decide (86400 < wd p 5)) 5 ++ zeroWords p [6, 7]
    permission := ctx0Only s p }

/-- LOG.LIMIT: the new BURST applies at once, tokens above it are discarded, and the refill period restarts (R449). -/
def limitEffect (p : Packet) (s : State) : State × Result :=
  let code := pf p 4 15 0
  let b := bucketOf s code
  let b' := { b with burst := pf p 4 23 16, refill := wd p 5, tokens := min b.tokens (pf p 4 23 16), since := s.clk.uptimeMs }
  ({ s with log := { s.log with buckets := kvSet code b' s.log.buckets } }, okCnt (BitVec.ofNat 32 b.burst) (BitVec.ofNat 32 b.refill) 0 0)

def execLogLimit (p : Packet) (s : State) : Host.Outcome State Fault Refusal :=
  .next (met s (takeUp 0x0B03 (runNow limitChecks limitEffect) p s))

/-- LOG_PROGRAM: the oldest buffered record goes to flash (R443, R444). -/
def execLogProgram (s : State) : Host.Outcome State Fault Refusal :=
  .next (if logAlive s && !s.log.buffer.isEmpty then programOne s else s)

/-- LOG_TOKEN_REFILL: a refill period of a code has passed (R447, R448). -/
def execLogTokenRefill (code : BitVec 16) (s : State) : Host.Outcome State Fault Refusal :=
  let b := bucketOf s code.toNat
  .next (if logAlive s && definedCodes.contains code.toNat && !exemptCodes.contains code.toNat && decide (refillMs b ≤ refillAge s b)
    then refillBucket code.toNat s else s)

end Sys2Proof.Machine
end

