-- ==== Sys2Proof/Machine/Resets.lean ====
section
/-! DEFINITION. Resets by generation tag, the phases of a fence-and-drain, and what it keeps (R413 to R423, R494, R495). -/

namespace Sys2Proof.Machine

/-! ## STR.RESET (R30, R413) -/

/-- How a strand is reset: by generation tag, or by fence-and-drain of a target. -/
inductive ResetKind where
  | genTag
  | fnd (target : Strand) (escalated : Bool)
  deriving DecidableEq, Repr

/-- Is it, or does it hold, the last working control core? -/
def lastCore (s : State) (q : Strand) : Bool := !(workingCores s).isEmpty && (workingCores s).all fun n => below q (sCC n)

def resetKind (s : State) (q : Strand) : ResetKind :=
  match q with
  | [] => .fnd [] false
  | 6 :: _ => .fnd [] true
  | [i] => .fnd [i] false
  | _ =>
    if below sMG q || below sBOOT q then .fnd [] true
    else if [sDSP, sTRK, sPCI].contains q || lastCore s q then .fnd sIZ true
    else .genTag

/-- Commands that a generation-tag reset of a subtree cuts off (R415): their number, and the state without them. -/
def cutWork (q : Strand) (s : State) : State × Nat :=
  let arrHit := below sARR q || below q sARR || below q sSPILL
  let n1 := if arrHit then ((s.arr.run.toList ++ s.arr.next.toList).filter fun r => r.stop.isNone).flatMap ArrRun.uids |>.length else 0
  let s := if arrHit then endCutTest (stopArray stABT_GENERATION { s with arr := { s.arr with rebuild := true } }) else s
  let hit := fun (j : Job) => match xferOf j with
    | some x => x.engines.any fun e => below q (sXE e.no)
    | none => false
  let n2 := (s.jobs.filter hit).length
  let s := s.jobs.foldl (fun s j => if hit j then finishCut j.uid (resOf stABT_GENERATION) s else s) s
  let splHit := below sSPL q || below q sSPL
  let open3 := s.jobs.filter fun j => j.res.isNone && (match j.work with
    | .splClose _ _ => true
    | .splContrib _ _ => true
    | _ => false)
  let n3 := if splHit then open3.length else 0
  let s := if splHit then dropAllPlans stABT_GENERATION s else s
  let tkHit := [sTCTL, sTX, sTL].any (below q)
  let n4 := bnat (tkHit && s.tkl.run.isSome)
  let s := if tkHit then tklInterrupt (stepCut stABT_GENERATION) s else s
  let s := (List.range 32).foldl (fun s l => if below q (sL l) || below (sL l) q then retrain l s else s) s
  -- the error table of a memory controller is as at the end of start-up
  let s := { s with mem := { s.mem with corrected := s.mem.corrected.filter fun c => !below q (strandAt c.1) } }
  (evalLevels s, n1 + n2 + n3 + n4)

/-- Every strand of the subtree takes its next generation in one step (R414). -/
def bumpStrands (q : Strand) (s : State) : State :=
  { s with str := { s.str with gens := (q :: descendants q).foldl (fun g p => kvSet (strandId p) (strandGen s p + 1) g) s.str.gens } }

def resetChecks (s : State) (p : Packet) : Checks :=
  { noChecks with param := strandBad p ++ zeroWords p [6, 7], permission := ctx0Only s p }

/-- STR.RESET: a strand inside a running fence-and-drain completes with it (R419). -/
def runReset (uid : Nat) (p : Packet) (s : State) : State :=
  match verdict (resetChecks s p) with
  | some r => answerAtOnce uid p r s
  | none =>
    let q := (strandArg p).getD []
    let inside := (s.rst.run.map fun r => r.target != [] && below r.target q).getD false || (underReset s q && q != [])
    match resetKind s q with
    | .fnd t e => fndRequest { target := t, cause := 0, escalated := e, uid := some uid } (addJob (newJob s uid p .fnd) s)
    | .genTag =>
      if inside then
        let s := addJob (newJob s uid p .fnd) s
        { s with rst := { s.rst with run := s.rst.run.map fun r => { r with uids := r.uids ++ [uid] } } }
      else
        let s := addJob (newJob s uid p (.genReset q s.clk.uptimeMs 0)) s
        let r := cutWork q s
        advance (setWork uid (.genReset q s.clk.uptimeMs r.2) (bumpStrands q r.1))

def execStrReset (p : Packet) (s : State) : Host.Outcome State Fault Refusal := .next (met s (takeUp 0x0A04 runReset p s))

/-- Entries stamped with an earlier generation of the subtree (R416). -/
def earlierEntries (s : State) (q : Strand) (e : Entry) : Bool := below q e.strand && strandGen s e.strand != e.sgen

def genResult (s : State) (q : Strand) (forced cut : Nat) (byForce : Bool) : Result :=
  { okCnt (BitVec.ofNat 32 (strandGen s q).toNat) (sat32 forced) (sat32 cut) 0 with detail := dIf byForce (dfOp 40) }

/-- GEN_RESET_DONE: no entry of an earlier generation remains (R416). -/
def execGenResetDone (uid : Nat) (s : State) : Host.Outcome State Fault Refusal :=
  .next (match workOf s uid with
    | some (.genReset q _ cut) =>
      if s.trk.entries.any fun kv => earlierEntries s q kv.2 then s else finish uid (genResult s q 0 cut false) s
    | _ => s)

/-- GEN_RESET_FORCE: 50 ms after the increment the remaining entries are freed by force (R416). -/
def execGenResetForce (uid : Nat) (s : State) : Host.Outcome State Fault Refusal :=
  .next (match workOf s uid with
    | some (.genReset q start cut) =>
      if (s.clk.uptimeMs - start).toNat < 50 || !(s.trk.entries.any fun kv => earlierEntries s q kv.2) then s
      else
        let r := forceFree (earlierEntries s q) s
        advance (finish uid (genResult r.1 q r.2 cut true) r.1)
    | _ => s)

/-! ## Phases of a fence-and-drain (R417, R418) -/

def setPhase (n : Nat) (s : State) : State :=
  { s with rst := { s.rst with phase := n, run := s.rst.run.map fun r => { r with phaseMs := s.clk.uptimeMs } } }

def updRun (f : FndRun → FndRun) (s : State) : State := { s with rst := { s.rst with run := s.rst.run.map f } }

/-- Does the reset take the Izette die: IZ itself or the root? -/
def takesIz (t : Strand) : Bool := t == [] || t == sIZ

/-- Does the reset take the Tackle chip? -/
def takesTk (t : Strand) : Bool := t == [] || t == sTK

/-- Bridge dies that the reset takes. -/
def takesMb (t : Strand) : List Nat := if t = [] then List.range 4 else (List.range 4).filter fun n => t == sMB n

/-- Packets that an abort ends now. -/
def abortable (s : State) : Nat :=
  (s.jobs.filter fun j => isQueueIssue j.pkt && !survivesAbort j && j.res.isNone).length
    + (s.fetched.filter fun kv => isQueueIssue kv.2).length

/-- An operation that the array has taken ends at once, its tile in progress discarded (R417). -/
def discardRun (st : Byte) (s : State) (r : ArrRun) : State :=
  if r.test then endTest r s
  else r.uids.foldl (fun s u => match jobOf s u with
      | some j => finish u (arrResult j.pkt (arrDetail r.coverage r.latency r.size) (resOf st)) s
      | none => s) (match runOp s r with
        | some o => loosenStage o s
        | none => s)

/-- The array stops at once (R417). -/
def discardTile (st : Byte) (s : State) : State :=
  (s.arr.run.toList ++ s.arr.next.toList).foldl (discardRun st) { s with arr := { s.arr with run := none, next := none } }

/-- Had the strand passed this phase before the reset was widened (R419)? -/
def passed (r : FndRun) (p : Strand) (phase : Nat) : Bool :=
  match r.past with
  | some (t, n) => below t p && decide (phase ≤ n)
  | none => false

/-- STOP (R417): ABANDON goes out for every active bucket (R420), the contexts are aborted, the array ends at its next drain, or at once in a reset of the host link. -/
def stopPhase (r : FndRun) (s : State) : State :=
  let s := if takesTk r.target && !passed r sTK 3 then tklInterrupt (stepCut stFLT_FENCED) s else s
  if takesIz r.target && !passed r sIZ 3 then
    let s := dropAllPlans stABT_RESET s
    let before := abortable s
    let s := stopArray stABT_RESET s
    let s := if r.hostLink then discardTile stABT_RESET s else s
    let s := endCutTest (s.ctxs.foldl (fun s (kv : Nat × Ctx) => abortCtx kv.1 stABT_RESET s) s)
    updRun (fun x => { x with aborted := x.aborted + before }) s
  else s

/-- FND_CAPTURE_DONE: CAPTURE has ended, and STOP begins (R417, R430). -/
def execFndCaptureDone (s : State) : Host.Outcome State Fault Refusal :=
  .next (match s.rst.run with
    | some r => if s.rst.phase = 2 ∧ s.capt.cur.isNone then advance (stopPhase r (setPhase 3 s)) else s
    | none => s)

/-- Entries of the reset's target that are outstanding (R417). -/
def outstandingFor (s : State) (t : Strand) (e : Entry) : Bool :=
  takesIz t || (match destStrand s e with
    | some p => below t p
    | none => false)

/-- DRAIN begins: accepted requests of peers are answered, and with the host link down its reads end at once. -/
def drainPhase (r : FndRun) (s : State) : State :=
  let s := if takesIz r.target && !passed r sIZ 4 then resetHeld s else s
  if r.hostLink && !passed r sIZ 4 then
    s.trk.entries.foldl (fun s (kv : Nat × Entry) =>
      if kv.2.req = .hostRead then failEntry kv.1 kv.2 (resOf stFLT_TIMEOUT) s else s) s
  else s

/-- FND_STOP_DONE: what ran on the target has stopped (R417). -/
def execFndStopDone (s : State) : Host.Outcome State Fault Refusal :=
  .next (match s.rst.run with
    | some r => if s.rst.phase = 3 ∧ (takesIz r.target = false ∨ takenUids s = []) then drainPhase r (setPhase 4 s) else s
    | none => s)

/-- Tier S is undefined after its chip's reset: its bytes are left open (R254, R418, log 2). -/
def clearTierS (s : State) : State :=
  { s with freeCtr := s.freeCtr + 1, mem := { s.mem with
      cells := s.mem.cells.filter fun c => !(decide (paS ≤ c.1) && decide (c.1 < paSEnd))
      poison := ivClear paS paSEnd s.mem.poison
      loose := (paS, paSEnd, s.freeCtr) :: looseClear paS paSEnd s.mem.loose
      damaged := s.mem.damaged.filter fun d => !(decide (paS ≤ d.1) && decide (d.1 < paSEnd)) } }

/-- The endpoint is reset first: BAR assignments, APERTURE, IRQ_VECTOR and what configuration space holds return to their reset values (R495). -/
def resetEndpoint (s : State) : State :=
  { s with pci := { s.pci with inReset := true, crs := true, base := 0, bar4Log := 6, cplTimeoutMs := 50, irqVector := 0, msix := [], pending := [], d3hot := false } }

/-- Change the image, the CONFIRMED bit or the verified mark of a slot. -/
def setSlot (b : Bool) (img : List Byte) (fw : Fw) : Fw := if b then { fw with slotB := img } else { fw with slotA := img }
def setConfirmed (b v : Bool) (fw : Fw) : Fw := if b then { fw with confB := v } else { fw with confA := v }
def setVerified (b v : Bool) (fw : Fw) : Fw := if b then { fw with verB := v } else { fw with verA := v }

/-- The slot that is not running. -/
def spareSlot (fw : Fw) : Bool := !fw.runB

/-- A root reset or the loss of power in a staging leaves the slot without a valid image (R473). -/
def interruptStaging (s : State) : State :=
  let hit : Bool := match s.fw.staging with
    | .none => false
    | .fwStage uid => (jobOf s uid).isSome
    | .pldm => s.mgt.pldm == .apply
  if hit then { s with fw := setVerified (spareSlot s.fw) false (setSlot (spareSlot s.fw) [] s.fw) } else s

/-- RESET (R418): tracker and merge slots are empty, tier S is undefined. -/
def resetPhase (r : FndRun) (s : State) : State :=
  let s := if takesIz r.target && !passed r sIZ 5 then
      { s with trk := { s.trk with entries := [] }, arr := { s.arr with ready := [], batches := [], run := none, next := none, unjudged := [] }
               fetched := s.fetched.filter fun kv => !isQueueIssue kv.2 }
    else s
  let s := if takesTk r.target && !passed r sTK 5 then clearTierS s else s
  let s := if r.target = [] then
      let s := interruptStaging s
      { s with fw := { s.fw with staging := .none }, mgt := { s.mgt with pldm := .idle, image := [] } }
    else s
  if r.hostLink && !passed r sIZ 5 then resetEndpoint s else s

/-- The bound of DRAIN (R417): 50 ms or the PCIe completion timeout in force, the longer; 50 ms where the host link started the reset. -/
def drainBound (r : FndRun) (s : State) : Nat := if r.hostLink then 50 else max 50 s.pci.cplTimeoutMs

/-- FND_DRAIN_DONE: nothing of the target is outstanding, or the bound has passed and the rest is freed by force (R417, R421). -/
def execFndDrainDone (s : State) : Host.Outcome State Fault Refusal :=
  .next (match s.rst.run with
    | none => s
    | some r =>
      let left := (s.trk.entries.filter fun kv => outstandingFor s r.target kv.2).length
      if s.rst.phase ≠ 4 || (decide (0 < left) && decide ((s.clk.uptimeMs - r.phaseMs).toNat < drainBound r s)) then s
      else
        let f := forceFree (outstandingFor s r.target) s
        resetPhase r (setPhase 5 (updRun (fun x => { x with forced := x.forced + f.2 }) f.1)))

/-- FND_RESET_DONE: RESTORE begins, for the root not before SYS_RESET_N is high; the endpoint is ready again once PERST_N is (R417, R495, R503). -/
def execFndResetDone (s : State) : Host.Outcome State Fault Refusal :=
  .next (match s.rst.run with
    | none => s
    | some r =>
      if s.rst.phase ≠ 5 || (r.target == [] && s.pwr.sysResetLow) then s
      else
        let s := setPhase 6 s
        if r.hostLink && !s.pwr.perstLow then { s with pci := { s.pci with inReset := false, crs := false } } else s)

/-- What a queue of context 0 was sent during the reset and the dispatcher had not read ends with it: dispatch resumes at LAST_TAIL (R418). -/
def flushZero (s : State) : State :=
  let s := (queuesOf s 0).foldl (fun s g => drainRing g 65536 s) s
  abortFetched 0 stABT_RESET s

/-- Contexts at RESTORE: those other than 0 are FREE, and context 0 is LIVE under its new generation (R418). -/
def restoreContexts (s : State) : State :=
  let others := s.ctxs.filterMap fun (kv : Nat × Ctx) => if kv.1 ≠ 0 ∧ kv.2.state ≠ .free then some kv.1 else none
  let s := others.foldl (fun s c => freeCtx c (bumpGen c s)) s
  let s := flushZero s
  setCtx 0 { ctxOf s 0 with state := .live, bumped := false } s

/-- Links of the bridge dies that were reset retrain and audit (R335, R417). -/
def restoreLinks (ns : List Nat) (s : State) : State :=
  ns.foldl (fun s n => (List.range 8).foldl (fun s k => retrain (n * 8 + k) s) s) s

/-- The reply of a STR.RESET that performed or joined a fence-and-drain (R421). -/
def fndResult (r : FndRun) (ms : Nat) (p : Packet) : Result :=
  { okCnt (sat32 ms) (sat32 r.forced) (sat32 r.aborted) (BitVec.ofNat 32 r.captureNo) with
    detail := dIf (decide (0 < r.forced)) (dfOp 40) ||| dIf (strandArg p != some r.target) (dfOp 41) }

/-- FND_RESTORE_DONE: contexts and links as R418 states, RESET_END, the replies, and the next request that waited (R417 to R421). -/
def execFndRestoreDone (s : State) : Host.Outcome State Fault Refusal :=
  .next (match s.rst.run with
    | none => s
    | some r =>
      if s.rst.phase ≠ 6 then s
      else
        let ms := (s.clk.uptimeMs - r.beginMs).toNat
        let s := if takesIz r.target then restoreContexts s else s
        let s := { s with rst := { s.rst with phase := 0, target := 7, done := true, resets := satAdd 65535 s.rst.resets 1, run := none } }
        let s := if r.restart then { s with log := { s.log with fenceCounts := buildFenceCounts (s.log.area.map Prod.snd ++ s.log.buffer) } } else s
        let s := restoreLinks (takesMb r.target) s
        let s := logRec (mkRec 0x0204 0 (strandId r.target) (sat32 ms) (min 65535 r.forced)) s
        let s := setIrq irqRESET_DONE s
        let s := r.uids.foldl (fun s u => match jobOf s u with
          | some j => finish u (fndResult r ms j.pkt) s
          | none => s) s
        let s := match s.rst.waiting with
          | [] => s
          | w :: rest => fndBegin w { s with rst := { s.rst with waiting := rest } }
        advance (evalLevels s))

end Sys2Proof.Machine
end

