-- ==== Sys2Proof/Machine/Captures.lean ====
section
/-! DEFINITION. The Snarl detector and captures: blocked queues, snarls and stalls, and what a capture writes (R425 to R436). -/

namespace Sys2Proof.Machine

/-! ## Queues as the detector judges them (R425) -/

def queueJobs (s : State) (g : Nat) : List Job := s.jobs.filter fun j => j.pkt.issuer == .queue g

def hasWork (s : State) (g : Nat) : Bool :=
  !(queueJobs s g).isEmpty || (s.fetched.any fun kv => kv.2.issuer == .queue g)
    || ((queueOf s g).map fun q => q.lastTail != q.consumed).getD false

/-- A pending HCH.WAIT, CTL.BARRIER or SPL.CLOSE. -/
def isBlocker (j : Job) : Bool := j.res.isNone && (match j.work with
  | .wait _ _ _ _ => true
  | .barrier _ _ => true
  | .splClose _ _ => true
  | _ => false)

def queueBlocked (s : State) (g : Nat) : Bool :=
  hasWork s g && !(queueJobs s g).isEmpty && (queueJobs s g).all isBlocker

/-- What produces for a blocked queue: another queue, or something outside the queues. -/
inductive Source where
  | queue (g : Nat)
  | remote
  | host
  deriving DecidableEq, Repr

def Producer.source : Producer → Source
  | .queue g => .queue g
  | .remote _ => .remote
  | .host => .host

/-- The queues that hold the packets. -/
def holders (s : State) (uids : List Nat) : List Source :=
  uids.filterMap fun u => (jobOf s u).bind fun j => (fromQueue j.pkt.issuer).map Source.queue

def jobProducers (s : State) (g : Nat) (j : Job) : List Source :=
  match j.work with
  | .wait h _ _ _ => if (hitchOf s h).regs.isEmpty then [.host] else (hitchOf s h).regs.map Producer.source
  | .barrier true _ => [.queue g]
  | .barrier false waits => holders s waits
  | .splClose _ _ => [.remote]
  | _ => []

def queueProducers (s : State) (g : Nat) : List Source := (queueJobs s g).flatMap (jobProducers s g)

/-- A queue of an ABORTED or DRAINING context counts as a blocked producer. -/
def endedQueue (s : State) (g : Nat) : Bool :=
  match queueOf s g with
  | some q => (ctxOf s q.ctx).state == .aborted || (ctxOf s q.ctx).state == .draining
  | none => false

def liveQueues (s : State) : List Nat := (s.queues.map Prod.fst).filter fun g => !endedQueue s g

def ctxOfQueue (s : State) (g : Nat) : Nat := ((queueOf s g).map Queue.ctx).getD 0

/-- Queues with work of a context. -/
def workQueues (s : State) (c : Nat) : List Nat := (queuesOf s c).filter (hasWork s)

/-- Drop from a set the queues that break a condition of R426, until none does. -/
def snarlCore (s : State) : Nat → List Nat → List Nat
  | 0, set => set
  | fuel + 1, set =>
    let ok := fun (g : Nat) =>
      (queueProducers s g).all (fun p => match p with
        | .queue h => set.contains h || endedQueue s h
        | _ => false)
      && (workQueues s (ctxOfQueue s g)).all set.contains
    let next := set.filter ok
    if next.length = set.length then set else snarlCore s fuel next

/-- The queues that a set draws in: producers, and every queue with work of its contexts. -/
def snarlClosure (s : State) : Nat → List Nat → List Nat
  | 0, set => set
  | fuel + 1, set =>
    let more := set.flatMap fun g =>
      (queueProducers s g).filterMap (fun p => match p with
        | .queue h => if endedQueue s h then none else some h
        | _ => none) ++ workQueues s (ctxOfQueue s g)
    let next := more.foldl (fun acc g => insNat g acc) set
    if next.length = set.length then set else snarlClosure s fuel next

/-- The sets that meet the first two conditions, each the least around a queue of it, in ascending context ID (R426). -/
def candidateSets (s : State) : List (List Nat) :=
  let blocked := (liveQueues s).filter (queueBlocked s)
  let core := snarlCore s (blocked.length + 1) blocked
  (sortBy (ctxOfQueue s) core).foldl (fun acc g =>
    let set := snarlClosure s (core.length + 1) (insNat g [])
    if acc.contains set then acc else acc ++ [set]) []

/-- Hitches that the members wait on, with their values. -/
def waitedValues (s : State) (set : List Nat) : List (Nat × DWord) :=
  set.flatMap fun g => (queueJobs s g).filterMap fun j => match j.work with
    | .wait h _ _ _ => some (h, (hitchOf s h).value)
    | _ => none

/-- Pending waits of a set, oldest first, the lower global queue ID first on a tie: the packet, its queue and hitch (R427). -/
def pendingWaits (s : State) (set : List Nat) : List (Nat × Nat × Nat) :=
  let waits := s.jobs.filterMap fun j => match j.work, fromQueue j.pkt.issuer with
    | .wait h _ _ _, some g =>
      if set.contains g && j.res.isNone then some ((2 ^ 32 - (s.clk.uptimeMs - j.startMs).toNat) * 2 ^ 14 + g, j.uid, g, h) else none
    | _, _ => none
  (sortBy Prod.fst waits).map Prod.snd

/-- The named context and the oldest hitch of a snarl (R427). -/
def snarlName (s : State) (set : List Nat) : Nat × Nat :=
  match pendingWaits s set with
  | (_, g, h) :: _ => ((hitchOf s h).owner.getD (ctxOfQueue s g), h)
  | [] => ((set.map (ctxOfQueue s)).foldl min 4095, 0xFFFF)

def spansContexts (s : State) (set : List Nat) : Bool :=
  match set with
  | [] => false
  | g :: t => t.any fun h => ctxOfQueue s h != ctxOfQueue s g

/-- What follows the capture of a snarl: the record, IZ/DSP source 4, and the abort, or the root's reset, which the same capture serves (R396, R428, R436). -/
def endSnarl (named : Nat) (set : List Nat) (s : State) : State :=
  let zero := set.any fun g => ctxOfQueue s g == 0
  let p1 := named + bnat (spansContexts s set) * 2 ^ 12 + bnat zero * 2 ^ 13 + 2 ^ 16 * (snarlName s set).2
  let s := logRec (mkRec 0x0200 1 (strandId sDSP) (BitVec.ofNat 32 p1) (min 65535 set.length)) s
  let s := setIrq irqSNARL (raiseEvent sDSP 4 .none false false s)
  let s := { s with snarl := { s.snarl with declared := none } }
  if named = 0 || zero then fndRequest { target := [], cause := 1, escalated := false, uid := none, captured := true } s
  else endCutTest (abortCtx named stABT_SNARL s)

/-- Declare a snarl: its capture starts; when none can, the abort follows at once (R428, R430). -/
def declareSnarl (set : List Nat) (s : State) : State :=
  let n := snarlName s set
  let c : Capture := { cause := 1, named := n.1, spans := spansContexts s set, oldest := n.2, target := 0, trigMs := 0, inSnarl := set }
  let s := startCapture c { s with snarl := { s.snarl with declared := some (n.1, set) } }
  if s.capt.cur.isNone then endSnarl n.1 set s else s

/-! ## Stalls (R429) -/

/-- The hitch of the oldest pending wait that a remote module or the host produces for. -/
def externalWait (s : State) (set : List Nat) : Option Nat :=
  ((pendingWaits s set).find? fun w =>
    let rs := (hitchOf s w.2.2).regs
    rs.isEmpty || rs.any fun p => match p with
      | .queue _ => false
      | _ => true).map fun w => w.2.2

def recordStall (c : Nat) (set : List Nat) (s : State) : State :=
  let p1 := match externalWait s set with
    | some h => c + 2 ^ 16 * h
    | none => c + bnat (set.any fun g => (queueJobs s g).any fun j => match j.work with
        | .splClose _ _ => true
        | _ => false) * 2 ^ 12 + 0xFFFF * 2 ^ 16
  setIrq irqSTALL (logRec (mkRec 0x0201 0 (strandId sDSP) (BitVec.ofNat 32 p1) (min 65535 set.length)) s)

/-- One context at an evaluation: recorded once it has stayed blocked for 1 s without a change. -/
def stallCheck (snarled : List Nat) (c : Nat) (s : State) : State :=
  let set := workQueues s c
  if set.isEmpty || !set.all (queueBlocked s) then { s with snarl := { s.snarl with stalls := kvErase c s.snarl.stalls } }
  else
    let values := waitedValues s set
    let uids := set.flatMap fun g => (queueJobs s g).map Job.uid
    let put := fun (x : Stall) (s : State) => { s with snarl := { s.snarl with stalls := kvSet c x s.snarl.stalls } }
    match kvGet c s.snarl.stalls with
    | some x =>
      if x.uids != uids then put { since := s.clk.uptimeMs, values := values, uids := uids, recorded := false } s
      else if x.values != values then put { x with since := s.clk.uptimeMs, values := values } s
      else if !x.recorded && decide (1000 ≤ (s.clk.uptimeMs - x.since).toNat) && !set.any snarled.contains then
        put { x with recorded := true } (recordStall c set s)
      else s
    | none => put { since := s.clk.uptimeMs, values := values, uids := uids, recorded := false } s

/-- The candidate sets with the values waited on. -/
def snarlCandidates (s : State) : List (List Nat × List (Nat × DWord)) := (candidateSets s).map fun set => (set, waitedValues s set)

/-- The stall checks of one evaluation, over the LIVE contexts. -/
def stallChecks (s : State) : State :=
  let live := s.ctxs.filterMap fun (kv : Nat × Ctx) => if kv.2.state = .live then some kv.1 else none
  let inSnarl := (candidateSets s).flatten
  live.foldl (fun s c => stallCheck inSnarl c s) s

/-- One evaluation: of the sets that the last one found too, unchanged, the first is declared (R426). -/
def evalSnarl (s : State) : State :=
  let found := snarlCandidates s
  let s' := stallChecks s
  let t := { s' with snarl := { s'.snarl with last := found } }
  match found.find? s.snarl.last.contains with
  | some x => advance (declareSnarl x.1 t)
  | none => t

/-- SNARL_EVAL: the evaluation every 10 ms (R426 to R429), none during a reset of IZ or the root (R419) or while a snarl's capture runs. -/
def execSnarlEval (s : State) : Host.Outcome State Fault Refusal :=
  .next (if !alive s || s.snarl.declared.isSome then s
    else if dispatcherReset s then { s with snarl := { s.snarl with last := [] } }
    else evalSnarl s)

/-! ## What a capture writes (R431 to R433) -/

/-- The engine strands that a capture asks. -/
def captureEngines : List Strand :=
  [sARR] ++ (List.range 4).map sVEC ++ [sGSX] ++ (List.range 34).map sXE ++ [sSPL] ++ (List.range 5).map sCC ++ [sTK]

/-- The packet that an engine works on. -/
def enginePacket (s : State) (p : Strand) : Option Job :=
  if p = sARR then (s.arr.run.bind fun r => r.uids.head?).bind (jobOf s)
  else if p = sTK then (s.tkl.run.map TklRun.uid).bind (jobOf s)
  else if p = sSPL then s.jobs.find? fun j => j.res.isNone && (match j.work with
    | .splContrib _ _ => true
    | .splClose _ _ => true
    | _ => false)
  else s.jobs.find? fun j => match xferOf j with
    | some x => x.engines.any fun e => sXE e.no == p
    | none => false

/-- The bytes of a packet, as its slots hold it. -/
def packetBytes (p : Packet) : List Byte :=
  leBytes 2 p.opcode.toNat ++ leBytes 2 p.flags.toNat ++ leBytes 1 p.length.toNat ++ leBytes 3 p.rsvd.toNat
    ++ leBytes 4 p.seq.toNat ++ leBytes 4 p.cookie.toNat ++ p.params.flatMap fun w => leBytes 4 w.toNat

/-- The bytes of the engine's packet, 256 of them. -/
def packetCopy (s : State) (p : Strand) : List Byte := slice 0 256 (((enginePacket s p).map fun j => packetBytes j.pkt).getD [])

/-- The first 320 bytes of the block of an engine that answers; the others are 0 (R432). -/
def engineHead (s : State) (p : Strand) : List Byte :=
  leBytes 8 (strandId p) ++ (match enginePacket s p with
    | some j => leBytes 2 j.ctx ++ leBytes 2 j.gen.toNat ++ leBytes 2 ((fromQueue j.pkt.issuer).getD 0)
    | none => zeros 6) ++ zeros 50 ++ packetCopy s p

/-- The 4 KiB of a logical scratchpad bank at a line; nothing is read of a MISSING bank. -/
def sampleBytes (s : State) (x : Nat × Nat) : List PByte :=
  if bankBacked s x.1 then physRead s (paScratch + 2 ^ 22 * x.1 + 4096 * x.2) 4096 else List.replicate 4096 (0, false)

/-- The banks that a capture samples for an engine: those of one that does not answer. -/
def samplesOf (silent : List SilentEngine) (p : Strand) : List (Nat × Nat) :=
  ((silent.find? fun e => e.strand == p).map SilentEngine.samples).getD []

/-- An engine block (R432): 4 KiB of an engine that answers; of a silent one its packet, the directory at byte 320 and its samples from byte 4,096. -/
def engineBlock (s : State) (silent : List SilentEngine) (p : Strand) : List PByte :=
  if silent.any fun e => e.strand == p then
    let dir := (samplesOf silent p).flatMap fun x => leBytes 8 (x.1 + x.2 * 2 ^ 8)
    (slice 0 4096 (leBytes 8 (strandId p) ++ zeros 56 ++ packetCopy s p ++ dir)).map (fun b => (b, false))
      ++ (samplesOf silent p).flatMap (sampleBytes s)
  else (slice 0 4096 (engineHead s p)).map fun b => (b, false)

/-- Bytes of an engine's block. -/
def blockSize (silent : List SilentEngine) (p : Strand) : Nat := 4096 * (1 + (samplesOf silent p).length)

/-- The oldest packet of a queue that has not completed. -/
def oldestPacket (s : State) (g : Nat) : Option Packet :=
  let open1 := (queueJobs s g).map fun j => (j.uid, j.pkt)
  let open2 := s.fetched.filter fun kv => kv.2.issuer == .queue g
  ((sortBy Prod.fst (open1 ++ open2)).head?).map Prod.snd

/-- The pending wait of a queue. -/
def pendingWait (s : State) (g : Nat) : Option (Job × Nat × Bool × DWord) :=
  (queueJobs s g).findSome? fun j => match j.work with
    | .wait h eq v _ => if j.res.isNone then some (j, h, eq, v) else none
    | _ => none

/-- A queue record of 64 bytes (R431). -/
def queueRecord (s : State) (inSnarl : List Nat) (g : Nat) : List Byte :=
  match queueOf s g with
  | none => leBytes 2 g ++ leBytes 2 0xFFFF ++ zeros 16 ++ leBytes 2 0xFFFF ++ zeros 42
  | some q =>
    let js := queueJobs s g
    let barrier := js.any fun j => j.res.isNone && (match j.work with
      | .barrier _ _ => true
      | _ => false)
    let running := js.any fun j => !isBlocker j
    let w := pendingWait s g
    let st := bnat (hasWork s g) + bnat (queueBlocked s g) * 2 + bnat w.isSome * 4 + bnat barrier * 8 + bnat running * 16
      + bnat (inSnarl.contains g) * 32
    let tail := match w with
      | some (j, h, eq, v) => leBytes 2 h ++ [BitVec.ofNat 8 (bnat eq), 0] ++ leBytes 8 v.toNat ++ leBytes 4 j.startMs.toNat
      | none => leBytes 2 0xFFFF ++ zeros 14
    leBytes 2 g ++ leBytes 2 q.ctx ++ leBytes 2 (ctxOf s q.ctx).gen.toNat ++ [BitVec.ofNat 8 st, BitVec.ofNat 8 q.qindex]
      ++ leBytes 4 q.consumed.toNat ++ leBytes 4 q.done.toNat ++ leBytes 4 q.lastTail.toNat ++ tail
      ++ leBytes 4 (js.filter fun j => !awaitsArray s j).length
      ++ slice 0 16 ((oldestPacket s g).map packetBytes |>.getD []) ++ zeros 8

/-- A registration in a hitch record. -/
def regField : Producer → Nat
  | .queue g => g
  | .remote d => 2 ^ 14 + d
  | .host => 2 ^ 15

/-- A hitch record of 32 bytes (R431). -/
def hitchRecord (s : State) (h : Nat) : List Byte :=
  let x := hitchOf s h
  let waiters := (s.jobs.filter fun j => match j.work with
    | .wait k _ _ _ => k == h && j.res.isNone
    | _ => false).length
  leBytes 8 x.value.toNat ++ leBytes 2 (x.owner.getD 0xFFFF) ++ [BitVec.ofNat 8 x.regs.length, 0]
    ++ slice 0 16 (x.regs.flatMap fun p => leBytes 2 (regField p)) ++ leBytes 2 (min 65535 waiters) ++ zeros 2

/-- Bytes at an offset as cells, zeros left out. -/
def cellsAt (base : Nat) (bs : List Byte) : List Host.Cell :=
  ((List.range bs.length).map fun i => (base + i, bs.getD i 0)).filter fun c => c.2 != 0

/-- Engines that are asked: those not fenced. -/
def askedEngines (s : State) : List Strand := captureEngines.filter fun p => !fenced s p

/-- Where the block of an engine begins: the blocks stand in the order of the engines (log 21). -/
def blockOffset (s : State) (silent : List SilentEngine) (p : Strand) : Nat :=
  0x1000000 + (((askedEngines s).takeWhile fun q => q != p).map (blockSize silent)).sum

/-- The answer table (R431); in the summary it names no blocks and no samples (R433). -/
def answerTable (s : State) (silent : List SilentEngine) (blocks : Bool) : List Byte :=
  captureEngines.flatMap fun p =>
    let res := if fenced s p then 2 else if silent.any fun e => e.strand == p then 1 else 0
    let put := blocks && res != 2
    leBytes 8 (strandId p) ++ leBytes 1 res ++ leBytes 1 (if put then (samplesOf silent p).length else 0) ++ zeros 2
      ++ leBytes 4 (if put then blockOffset s silent p else 0)

/-- Has an engine that was asked given no answer? -/
def anySilent (s : State) (silent : List SilentEngine) : Bool := (askedEngines s).any fun p => silent.any fun e => e.strand == p

/-- The snapshot header, COMPLETE set (R431). -/
def captureHeader (s : State) (c : Capture) (noAnswer truncated : Bool) (nBlocks : Nat) : List Byte :=
  leBytes 4 s.capt.no.toNat ++ [BitVec.ofNat 8 c.cause, BitVec.ofNat 8 (1 + bnat noAnswer * 2 + bnat c.spans * 4 + bnat truncated * 8)]
    ++ leBytes 2 c.named ++ leBytes 4 s.clk.powerCycles.toNat ++ leBytes 4 s.clk.opSeconds.toNat ++ leBytes 4 c.trigMs.toNat
    ++ leBytes 4 s.clk.uptimeMs.toNat ++ leBytes 8 c.target ++ leBytes 2 c.oldest ++ leBytes 2 nBlocks

/-- Replace the cells of [lo, hi) by new ones of that range. -/
def spliceCells (lo hi : Nat) (new old : List Host.Cell) : List Host.Cell :=
  old.filter (fun c => decide (c.1 < lo)) ++ new ++ old.filter (fun c => decide (hi ≤ c.1))

/-- The tier N snapshot (R431). -/
def writeSnapshot (c : Capture) (silent : List SilentEngine) (s : State) : State :=
  let asked := askedEngines s
  let blocks := asked.map fun p => (paSnap + blockOffset s silent p, engineBlock s silent p)
  let new := cellsAt paSnap (captureHeader s c (anySilent s silent) false asked.length)
    ++ cellsAt (paSnap + 0x1000) (answerTable s silent true)
    ++ cellsAt (paSnap + 0x100000) ((List.range 16384).flatMap (queueRecord s c.inSnarl))
    ++ cellsAt (paSnap + 0x200000) ((List.range 65536).flatMap (hitchRecord s))
    ++ blocks.flatMap fun b => cellsAt b.1 (b.2.map Prod.fst)
  { s with mem := { s.mem with
      cells := spliceCells paSnap paNEnd new s.mem.cells
      poison := blocks.foldl (fun ps b => (granulesOf b.1 b.2.length).foldl (fun ps g =>
        if anyPoison ((b.2.drop (g - b.1)).take (granule g)) then ivAdd g (g + granule g) ps else ps) ps) (ivClear paSnap paNEnd s.mem.poison)
      damaged := s.mem.damaged.filter fun d => !(decide (paSnap ≤ d.1) && decide (d.1 < paNEnd)) } }

/-- Hitches that queues wait on: by age of the wait until 512 are held, then in ascending order (R433). -/
def summaryHitches (s : State) (qs : List Nat) : List Nat × Bool :=
  let hs := (pendingWaits s qs).foldl (fun (acc : List Nat) w => if acc.contains w.2.2 then acc else acc ++ [w.2.2]) []
  ((hs.take 512).foldl (fun l h => insNat h l) [], decide (512 < hs.length))

/-- The summary in the capture SRAM (R433). -/
def writeSummary (c : Capture) (silent : List SilentEngine) (s : State) : State :=
  let all := (s.queues.map Prod.fst).filter (hasWork s)
  let qs := all.take 3840
  let hs := summaryHitches s qs
  let sram := cellsAt 0 (captureHeader s c (anySilent s silent) (decide (3840 < all.length) || hs.2) 0)
    ++ cellsAt 0x1000 (answerTable s silent false)
    ++ cellsAt 0x2000 (qs.flatMap (queueRecord s c.inSnarl))
    ++ cellsAt 0x3E000 (hs.1.flatMap fun h =>
        leBytes 2 h ++ leBytes 2 ((hitchOf s h).owner.getD 0xFFFF) ++ zeros 4 ++ leBytes 8 (hitchOf s h).value.toNat)
  { s with capt := { s.capt with sram := sram } }

/-- The snapshot area can be used (R431). -/
def snapUsable (s : State) : Bool := s.mem.ready && snapOk s && (List.range 16).all fun n => !fenced s (sTN n)

/-- CAPTURE_DONE: the capture is written, recorded and announced; a snarl that waited for it goes on (R428, R430 to R436). -/
def execCaptureDone (silent : List SilentEngine) (s : State) : Host.Outcome State Fault Refusal :=
  .next (match s.capt.cur with
    | none => s
    | some c =>
      let tierN := snapUsable s
      let unheard := anySilent s silent
      let s := if tierN then writeSnapshot c silent s else writeSummary c silent s
      let s := { s with capt := { s.capt with cur := none, inSram := !tierN, held := s.capt.held || s.capt.ctl.getLsbD 3 } }
      let s := logRec (mkRec 0x0202 0 0 s.capt.no (c.cause + bnat (!tierN) * 8 + bnat unheard * 16)) s
      let s := setIrq irqCAPTURE_DONE s
      match s.snarl.declared with
      | some (n, set) => advance (endSnarl n set s)
      | none => s)

/-- CAPT_TRIGGER: a write of 1 to CAPT_CTL.TRIGGER (R430, R434). -/
def execCaptTrigger (s : State) : Host.Outcome State Fault Refusal :=
  .next (if barUp s then barWrite 0x3004 (s.capt.ctl.setWidth 32 ||| 0x10) s else s)

/-- SB_TRIG_LOW: a low level on the pin while it serves as the snapshot trigger (R430, R434). -/
def execSbTrigLow (s : State) : Host.Outcome State Fault Refusal :=
  .next (if alive s && s.capt.ctl.getLsbD 0 then startCapture (plainCapture 3 0) s else s)

end Sys2Proof.Machine
end

