-- ==== Sys2Proof/Machine/Host.lean ====
section
/-! DEFINITION. What the host does to the function: registers, routing window, aperture, mailbox, MSI-X, power states, and the resets of the host link (R464, R481 to R496). -/

namespace Sys2Proof.Machine

/-! ## BAR0 (R482 to R488, R493) -/

/-- REG_WRITE: a write to BAR0 (R482). -/
def execRegWrite (offset size : Nat) (value : DWord) (s : State) : Host.Outcome State Fault Refusal :=
  .next (hostAccess (fun s => sentTlp s (barStore offset size value s)) s)

/-- IRQ_ENABLE_WRITE (R488). -/
def execIrqEnableWrite (value : Word) (s : State) : Host.Outcome State Fault Refusal :=
  .next (hostAccess (fun s => sentTlp s (barWrite 0x1004 value s)) s)

/-- DEVICE_ID_WRITE (R351). -/
def execDeviceIdWrite (value : Word) (s : State) : Host.Outcome State Fault Refusal :=
  .next (hostAccess (barWrite 0x8000 value) s)

/-- SPILL_SPLIT_WRITE (R170). -/
def execSpillSplitWrite (value : Word) (s : State) : Host.Outcome State Fault Refusal :=
  .next (hostAccess (barWrite 0x4004 value) s)

/-- ROUTING_WRITE: 4 or 8 bytes of the routing table window, two or four entries as one step (R336, R493). -/
def execRoutingWrite (offset size : Nat) (value : DWord) (s : State) : Host.Outcome State Fault Refusal :=
  .next (if routeBase ≤ offset ∧ offset < routeBase + 0x8000 then met s (hostAccess (barStore offset size value) s) else s)

/-! ## The aperture (R490, R491, R494) -/

/-- APERTURE_WRITE: BASE, whole or by halves (R491). -/
def execApertureWrite (offset size : Nat) (value : DWord) (s : State) : Host.Outcome State Fault Refusal :=
  .next (if offset / 8 * 8 = 0xA000 then hostAccess (barStore offset size value) s else s)

/-- APERTURE_READ: every BAR4 write before it has been accepted, since each is whole in its own step (R491). -/
def execApertureRead (s : State) : Host.Outcome State Fault Refusal :=
  .next (hostAccess (fun s =>
    sentTlp s (pciOut (.completion (leBytes 4 (barRead s 0xA000).toNat ++ leBytes 4 (barRead s 0xA004).toNat) false) s)) s)

/-- From STOP to RESTORE of a reset that takes IZ the aperture is shut (R494). -/
def apertureShut (s : State) : Bool :=
  decide (3 ≤ phaseAt s sIZ)

/-- The device physical address behind a BAR4 offset. -/
def aperturePa (s : State) (offset : Nat) : Nat := 2 ^ 30 * s.pci.base + offset

/-- Does [offset, offset + n) lie in the BAR? -/
def inBar4 (s : State) (offset n : Nat) : Bool := decide (offset + n ≤ 2 ^ (30 + s.pci.bar4Log))

/-- Data and EP of a read through the aperture: 0 with EP where nothing backs the address, EP with poisoned words (R490). -/
def apertureBytes (s : State) (pa n : Nat) : List PByte :=
  (backPieces pa n).flatMap fun p => if backed s p.1 then physRead s p.1 p.2 else List.replicate p.2 (0, true)

/-- BAR4_READ. -/
def execBar4Read (offset len : Nat) (s : State) : Host.Outcome State Fault Refusal :=
  .next (hostAccess (fun s =>
    if !inBar4 s offset len then s
    else if apertureShut s then sentTlp s (pciOut (.completion (zeros len) true) s)
    else
      let bs := apertureBytes s (aperturePa s offset) len
      sentTlp s (pciOut (.completion (bs.map Prod.fst) (anyPoison bs)) (detectRead (aperturePa s offset) len s))) s)

/-- Write what can be written; answers whether a part was discarded. -/
def apertureStore (pa : Nat) (bs : List PByte) (s : State) : State × Bool :=
  (backPieces pa bs.length).foldl (fun (acc : State × Bool) p =>
    if backed acc.1 p.1 && region p.1 != .snapshot then (physWrite p.1 ((bs.drop (p.1 - pa)).take p.2) acc.1, acc.2)
    else (acc.1, true)) (s, false)

/-- BAR4_WRITE: with EP the words it covers are poisoned; what cannot be written is discarded and counted once (R231, R490). -/
def execBar4Write (offset : Nat) (data : List Byte) (ep : Bool) (s : State) : Host.Outcome State Fault Refusal :=
  .next (hostAccess (fun s =>
    if !inBar4 s offset data.length then s
    else if apertureShut s then apertureDrop s
    else
      let s := if ep then pciOut (.aer "poisoned TLP, advisory non-fatal") s else s
      let r := apertureStore (aperturePa s offset) (data.map fun b => (b, ep)) s
      if r.2 then apertureDrop r.1 else r.1) s)

/-- REBAR_SIZE_WRITE: a size of 1 GiB to 64 GiB; BASE is rounded down to a multiple of it (R480, R491). -/
def execRebarSizeWrite (log2GiB : Nat) (s : State) : Host.Outcome State Fault Refusal :=
  .next (if s.pci.inReset || s.pci.crs || decide (6 < log2GiB) then s
    else { s with pci := { s.pci with bar4Log := log2GiB, base := s.pci.base / 2 ^ log2GiB * 2 ^ log2GiB } })

/-! ## The mailbox (R492) -/

/-- MBOX_GO. -/
def execMboxGo (s : State) : Host.Outcome State Fault Refusal := .next (hostAccess (barWrite mboxBase 1) s)

/-- The mailbox packet's work is done: reply and data into mailbox memory, BUSY cleared, DONE set. -/
def mboxFinish (j : Job) (r : Result) (s : State) : State :=
  let mbox := cellWrite 0x1000 (slice 0 4096 j.data) (cellWrite 0x200 (replyBytes s j r) s.pci.mbox)
  let s := { s with pci := { s.pci with mbox := mbox, mboxBusy := false, mboxDone := true, mboxUid := none } }
  setIrq irqMBOX_DONE (releaseWaits (dropJob j.uid s))

/-- MBOX_DONE. -/
def execMboxDone (s : State) : Host.Outcome State Fault Refusal :=
  .next (match s.pci.mboxUid.bind (jobOf s) with
    | some j => match j.res with
      | some r => if alive s then sentTlp s (mboxFinish j r s) else s
      | none => s
    | none => s)

/-! ## MSI-X and power states (R489, R494) -/

/-- MSIX_UNMASK: the vector's mask clears, and its pending message is sent once. -/
def execMsixUnmask (vector : Nat) (s : State) : Host.Outcome State Fault Refusal :=
  .next (hostAccess (fun s => sentTlp s (unmaskMsix vector s)) s)

/-- Messages kept back by D3hot alone are sent once (R489). -/
def sendPending (s : State) : State :=
  let now := s.pci.pending.filter fun v => !(kvGetD v msixDefault s.pci.msix).masked
  now.foldl (fun s v => raiseMsix v { s with pci := { s.pci with pending := s.pci.pending.filter (· != v) } }) s

/-- PCIE_PM_STATE_WRITE: D0 or D3hot; back in D0 the requests held back are issued (R494). -/
def execPciePmStateWrite (d3hot : Bool) (s : State) : Host.Outcome State Fault Refusal :=
  .next (if s.pci.inReset || s.pci.crs then s
    else if d3hot then { s with pci := { s.pci with d3hot := true } }
    else if s.pci.d3hot then issueHeld (sendPending { s with pci := { s.pci with d3hot := false } })
    else s)

/-! ## Resets of the host link (R464, R495) -/

/-- Once control cores and context 0 are up, the host link's fall resets IZ. -/
def linkResetDue (s : State) : Bool := decide (4 ≤ s.str.phasesDone) && powered s

/-- The fence-and-drain of IZ with cause 3; a reset past its RESET phase has the endpoint reset at once (R417, R419, R495). -/
def linkReset (s : State) : State :=
  let s := fndRequest { target := sIZ, cause := 3, escalated := false, uid := none } { s with pci := { s.pci with crs := true } }
  if 5 ≤ phaseAt s sIZ then resetEndpoint s else s

/-- PCIE_HOT_RESET: a hot reset or a link-down reset. -/
def execPcieHotReset (s : State) : Host.Outcome State Fault Refusal :=
  .next (if s.pci.inReset || !linkResetDue s then s
    else
      let s := linkReset s
      if phaseAt s sIZ = 6 then { s with pci := { s.pci with inReset := false, crs := false } } else s)

/-- PERST_N_ASSERT: the endpoint is held in reset, and IZ is reset (R464, R495). -/
def execPerstNAssert (s : State) : Host.Outcome State Fault Refusal :=
  let s' := { s with pwr := { s.pwr with perstLow := true }, pci := { s.pci with inReset := true, crs := true } }
  .next (if s.pwr.perstLow then s else if linkResetDue s then linkReset s' else s')

/-- The endpoint waits for nothing but PERST_N: PWRGD_OD has been released, and no reset of the host link has still to reset it. -/
def endpointFree (s : State) : Bool :=
  powered s && decide (2 ≤ s.str.phasesDone) && !((s.rst.run.map fun r => r.hostLink).getD false && decide (phaseAt s sIZ < 6))

/-- PERST_N_RELEASE: the link may train; configuration requests get their answer from the end of phase 3 on (R464, R495). -/
def execPerstNRelease (s : State) : Host.Outcome State Fault Refusal :=
  let s := { s with pwr := { s.pwr with perstLow := false } }
  .next (if endpointFree s then { s with pci := { s.pci with inReset := false, crs := decide (s.str.phasesDone < 4) } } else s)

/-- PCIE_CORRECTABLE: reported through AER and counted as source 0 of IZ/PCI (R496). -/
def execPcieCorrectable (s : State) : Host.Outcome State Fault Refusal :=
  .next (if !powered s || s.pci.inReset then s else raiseEvent sPCI 0 .none false false (pciOut (.aer "correctable") s))

end Sys2Proof.Machine
end

