-- ==== Sys2Proof/Machine/Firmware.lean ====
section
/-! DEFINITION. Firmware images, their verification and slots, staging and activation, the identity block and the signed report (R461, R468 to R476, R478). -/

namespace Sys2Proof.Machine

/-! ## Images (R468, R469) -/

def imageLength (img : List Byte) : Nat := leAt 8 4 img
def imageSvn (img : List Byte) : Nat := leAt 16 1 img
def imageKeySlot (img : List Byte) : Nat := leAt 17 1 img

/-- The region the signature covers: bytes 0 to IMAGE_LENGTH − 97. -/
def signedRegion (img : List Byte) : List Byte := img.take (imageLength img - 96)

/-- Check 1 of R469: the header fields are as R468 requires. -/
def headerGood (img : List Byte) : Bool :=
  decide (leAt 0 4 img = 0x46345A49) && decide (leAt 4 4 img = 1) && decide (imageLength img % 16 = 0)
    && decide (1024 ≤ imageLength img) && decide (imageLength img ≤ 2 ^ 24) && decide (imageLength img ≤ img.length)
    && decide (imageSvn img ≤ 64) && decide (imageKeySlot img < 4) && decide (leAt 18 1 img < 2) && decide (leAt 19 1 img < 16)
    && decide (leAt 20 4 img = 0xB0) && (slice 120 392 img).all (· == 0)

inductive ImageCheck where
  | good
  | sigBad
  | rollback
  deriving DecidableEq, Repr

/-- The five checks, the first failure deciding (R469). -/
def verifyImage (fw : Fw) (img : List Byte) : ImageCheck :=
  if !headerGood img || fw.keyRevoked.getLsbD (imageKeySlot img)
      || shaBits (slice 24 96 img) != fw.keyHash.getD (imageKeySlot img) 0 then .sigBad
  else if imageSvn img < fw.rollback then .rollback
  else
    let n := imageLength img
    if ecdsaVerify (beNat (slice 24 48 img)) (beNat (slice 72 48 img)) (shaBits (signedRegion img)).toNat
        (beNat (slice (n - 96) 48 img)) (beNat (slice (n - 48) 48 img)) then .good else .sigBad

/-! ## Slots (R472, R473) -/

def slotOf (fw : Fw) (b : Bool) : List Byte := if b then fw.slotB else fw.slotA
def slotConfirmed (fw : Fw) (b : Bool) : Bool := if b then fw.confB else fw.confA
def slotVerified (fw : Fw) (b : Bool) : Bool := if b then fw.verB else fw.verA

/-- A staging runs, by SEC.FW_STAGE until its packet completes, or by PLDM (R473). -/
def stagingBusy (s : State) : Bool :=
  match s.fw.staging with
  | .none => false
  | .fwStage uid => (jobOf s uid).isSome
  | .pldm => true

/-- Erase, write and read back the slot that is not running; a slot that was preferred is so no longer (R473). -/
def writeSlot (img : List Byte) (readBackOk : Bool) (s : State) : State :=
  let b := spareSlot s.fw
  let fw := setVerified b readBackOk (setConfirmed b false (setSlot b (if readBackOk then img else []) s.fw))
  let s := { s with fw := { fw with prefB := if fw.prefB = b then fw.runB else fw.prefB } }
  if readBackOk then
    logRec (mkRec 0x0602 0 0 (BitVec.ofNat 32 (imageVersion img)) (bnat b + imageSvn img * 2 ^ 8)) s
  else s

/-- Prefer a slot; one that is not running gets three tries and must be confirmed anew (R473). -/
def activateSlot (b : Bool) (s : State) : State :=
  let fw := { s.fw with prefB := b }
  let fw := if b = fw.runB then fw else { setConfirmed b false fw with tries := 3 }
  logRec (mkRec 0x0603 0 0 (BitVec.ofNat 32 (imageVersion (slotOf fw b))) (bnat b)) { s with fw := fw }

/-! ## SEC.FW_STAGE and SEC.FW_ACTIVATE (R381, R383, R473) -/

/-- The image that a packet names, where its range can be read. -/
def stageImage (s : State) (p : Packet) : Option (List PByte) :=
  match vaRead s reachQueue (issuerCtx s p.issuer) (dw p 4) (wd p 6) with
  | .ok bs => some bs
  | .error _ => none

def stageChecks (s : State) (p : Packet) : Checks :=
  let n := wd p 6
  let field := badIf (n == 0 || decide (2 ^ 24 < n)) 6 ++ dataField s p 4 1 (min n (2 ^ 24)) false ++ zeroWords p [7]
  let common := { noChecks with permission := ctx0Only s p, conflict := badIf (stagingBusy s) 0 }
  if !field.isEmpty then { common with param := field }
  else match stageImage s p with
    | none => common
    | some bs =>
      -- a poisoned image does not verify (R82, log 53)
      if anyPoison bs then { common with param := [4], detail := dfOp 40 ||| dfPOISON }
      else
        let img := bs.map Prod.fst
        if imageLength img ≠ n then { common with param := [6] }
        else match verifyImage s.fw img with
          | .good => common
          | .sigBad => { common with param := [4], detail := dfOp 40 }
          | .rollback => { common with param := [4], detail := dfOp 41 }

def runStage (readBackOk : Bool) (uid : Nat) (p : Packet) (s : State) : State :=
  match verdict (stageChecks s p) with
  | some r => answerAtOnce uid p r s
  | none =>
    let j := newJob s uid p .finished
    match stageImage s p with
    | none => addJob { j with res := some (resOf stFLT_FENCED) } s
    | some bs =>
      let img := bs.map Prod.fst
      let slot := spareSlot s.fw
      let s := writeSlot img readBackOk { s with fw := { s.fw with staging := .fwStage uid } }
      let r := if readBackOk then okCnt (BitVec.ofNat 32 (bnat slot)) (BitVec.ofNat 32 (imageVersion img)) 0 0 else resOf stFLT_CHECK
      addJob { j with res := some r } s

/-- SEC.FW_STAGE: verified before any write, and again as it reads back. -/
def execSecFwStage (p : Packet) (readBackOk : Bool) (s : State) : Host.Outcome State Fault Refusal :=
  .next (met s (takeUp 0x0C03 (runStage readBackOk) p s))

def activateChecks (s : State) (p : Packet) : Checks :=
  { noChecks with
    param := resv p 4 1 ++ zeroWords p [5, 6, 7]
    permission := ctx0Only s p
    conflict := badIf (stagingBusy s || !slotVerified s.fw (pb p 4 0)) 4 }

/-- SEC.FW_ACTIVATE: the slot is booted from the next power-up on. -/
def execSecFwActivate (p : Packet) (s : State) : Host.Outcome State Fault Refusal :=
  .next (met s (takeUp 0x0C04 (runNow activateChecks fun p s => (activateSlot (pb p 4 0) s, okCnt (BitVec.ofNat 32 (wd p 4)) 0 0 0)) p s))

/-! ## SEC.IDENT and SEC.ATTEST (R474 to R476) -/

/-- The identity private key: derived from UNIQUE_SECRET, deterministically. -/
def identityKey (s : State) : Nat := 1 + Config.identityPrivate s.fw.uniqueSecret % (ecN - 1)

def serialBytes (s : State) : List Byte := leBytes 16 s.fw.serial.toNat

/-- VERSION of the image in a slot, 0 where none was verified in this power cycle. -/
def slotVersion (s : State) (b : Bool) : Nat := if slotVerified s.fw b then imageVersion (slotOf s.fw b) else 0

/-- The identity block (R475). -/
def identityBlock (s : State) : List Byte :=
  let pub := ecPublic (identityKey s)
  let body := serialBytes s ++ [0xB0] ++ leBytes 1 (bnat s.fw.runB) ++ leBytes 1 s.fw.rollback ++ leBytes 1 s.fw.keyRevoked.toNat
    ++ leBytes 4 (slotVersion s false) ++ leBytes 4 (slotVersion s true)
    ++ beBytes 48 pub.1 ++ beBytes 48 pub.2 ++ leBytes 4 s.fw.cert.length ++ s.fw.cert
  leBytes 4 (body.length + 4) ++ body

def runningVersion (s : State) : Nat := imageVersion (runningImage s)

/-- Give bytes to the issuer: at its virtual address, or after the reply outside a queue (R358). Answers the status. -/
def giveBytes (p : Packet) (w : Nat) (bs : List Byte) (s : State) : State × Byte × List Byte :=
  if isQueueIssue p then
    let r := vaWrite reachQueue (issuerCtx s p.issuer) (dw p w) (bs.map fun b => (b, false)) s
    (r.1, (if r.2.isSome then stFLT_FENCED else stOK), [])
  else (s, stOK, bs)

def identChecks (s : State) (p : Packet) : Checks :=
  { noChecks with param := dataField s p 4 1 (identityBlock s).length true ++ zeroWords p [6, 7], permission := ctx0Only s p }

def identEffect (p : Packet) (s : State) : State × Result × List Byte :=
  let r := giveBytes p 4 (identityBlock s) s
  (r.1, { okCnt (BitVec.ofNat 32 (bnat s.fw.runB)) (BitVec.ofNat 32 (runningVersion s)) (BitVec.ofNat 32 s.fw.rollback) 0 with status := r.2.1 }, r.2.2)

/-- SEC.IDENT. -/
def execSecIdent (p : Packet) (s : State) : Host.Outcome State Fault Refusal :=
  .next (met s (takeUp 0x0C01 (runNowData identChecks identEffect) p s))

/-- Bytes 0 to 255 of the report (R476). -/
def reportBody (s : State) (nonce : List Byte) : List Byte :=
  leBytes 4 0x41345A49 ++ nonce ++ serialBytes s ++ leBytes 4 s.clk.powerCycles.toNat ++ leBytes 4 s.clk.opSeconds.toNat
    ++ leBytes 4 s.clk.uptimeMs.toNat ++ beBytes 48 s.fw.mImage.toNat ++ beBytes 48 s.fw.mFuses.toNat ++ beBytes 48 s.fw.mRepair.toNat
    ++ leBytes 4 (runningVersion s) ++ leBytes 1 (imageSvn (runningImage s)) ++ leBytes 1 s.fw.rollback
    ++ leBytes 1 (bnat s.fw.runB + imageKeySlot (runningImage s) * 2) ++ leBytes 1 s.str.held.toNat ++ zeros 40

/-- The signed report; the signature's own number is a free value (log 5). -/
def signedReport (s : State) (nonce : List Byte) : List Byte :=
  let body := reportBody s nonce
  let sig := ecdsaSign (identityKey s) (Config.signatureNonce s.freeCtr) (shaBits body).toNat
  body ++ beBytes 48 sig.1 ++ beBytes 48 sig.2

/-- The nonce of the command: words 4 to 11. -/
def nonceOf (p : Packet) : List Byte := (List.range 8).flatMap fun i => leBytes 4 (wd p (4 + i))

def attestChecks (s : State) (p : Packet) : Checks :=
  { noChecks with param := dataField s p 12 1 352 true ++ zeroWords p [14, 15], permission := ctx0Only s p }

def attestEffect (p : Packet) (s : State) : State × Result × List Byte :=
  let r := giveBytes p 12 (signedReport s (nonceOf p)) { s with freeCtr := s.freeCtr + 1 }
  (r.1, { okCnt (if r.2.1 = stOK then 352 else 0) 0 0 0 with status := r.2.1 }, r.2.2)

/-- SEC.ATTEST. -/
def execSecAttest (p : Packet) (s : State) : Host.Outcome State Fault Refusal :=
  .next (met s (takeUp 0x0C02 (runNowData attestChecks attestEffect) p s))

end Sys2Proof.Machine
end

