-- ==== Sys2Proof/Machine/ArrayMap.lean ====
section
/-! DEFINITION. The array's logical map, its whipping lanes and ARR_SHAPE (R138 to R142, R150, R152). -/

namespace Sys2Proof.Machine

/-- The two highest spare-band lines outside the map: checksum lane, then magnitude lane (R142). -/
def whipLanes (lines map : List Nat) : List Nat :=
  match (lines.filter fun n => decide (192 ≤ n) && !map.contains n).reverse with
  | a :: b :: _ => [a, b]
  | _ => []

/-- Spare-band lines in a map. -/
def sparesUsed (map : List Nat) : Nat := (map.filter fun n => decide (192 ≤ n)).length

/-- WHIP_COVERAGE of the lanes: column lanes are rows, row lanes are columns (R150). -/
def coverageOf (rowLanes colLanes : List Nat) : Nat :=
  (if rowLanes.isEmpty then 2 else 0) + (if colLanes.isEmpty then 1 else 0)

/-- ARR_SHAPE (R152). -/
def shapeWord (rows cols rowMap colMap rowLanes colLanes : List Nat) (size : Nat) : Nat :=
  2 ^ 24 * cols.length + 2 ^ 16 * rows.length + sparesUsed colMap * 2 ^ 12 + sparesUsed rowMap * 2 ^ 8
    + (if size = 0 then 3 else coverageOf rowLanes colLanes) * 2 ^ 3
    + (if sparesUsed rowMap + sparesUsed colMap = 0 then 0 else 4)
    + (if size = 192 then 0 else if size = 160 then 1 else if size = 128 then 2 else 3)

/-- Rebuild the map from the working lists, and record a change of SHAPE, WHIP_COVERAGE or REPAIR_LATENCY (R140, R152). -/
def rebuildMap (s : State) : State :=
  let rows := workingRows s
  let cols := workingCols s
  let size := mapSize s
  let rowMap := rows.take size
  let colMap := cols.take size
  let rowLanes := if size = 0 then [] else whipLanes rows rowMap
  let colLanes := if size = 0 then [] else whipLanes cols colMap
  let w := shapeWord rows cols rowMap colMap rowLanes colLanes size
  let old := s.arr.shapeReg.toNat
  let s := { s with arr := { s.arr with
    rowMap := rowMap, colMap := colMap, rowLanes := rowLanes, colLanes := colLanes, shapeReg := BitVec.ofNat 32 w, rebuild := false } }
  if w % 32 = old % 32 then s
  else logRec (mkRec 0x0400 0 (strandId sARR) (BitVec.ofNat 32 w) (old % 65536)) s

/-- ARR_MAP_REBUILD: between operations, when the working lists have changed (R140). -/
def execArrMapRebuild (s : State) : Host.Outcome State Fault Refusal :=
  .next (if s.arr.rebuild && s.arr.run.isNone && decide (7 ≤ s.str.phasesDone) then evalLevels (rebuildMap s) else s)

end Sys2Proof.Machine
end

