-- ==== Sys2Proof/Machine/Functions.lean ====
section
/-! DEFINITION. The correctly rounded functions of R212: intervals of exact dyadics are narrowed until both ends round alike. -/

namespace Sys2Proof.Machine

/-- An interval [lo × 2^e, hi × 2^e] of non-negative reals. -/
structure Iv where
  lo : Nat
  hi : Nat
  e : Int
  deriving DecidableEq, Repr

/-- The quotient rounded up. -/
def cdiv (a b : Nat) : Nat := (a + (b - 1)) / b

/-- A non-negative m × 2^e as an interval with f fraction bits. -/
def ivFix (f : Nat) (m : Nat) (e : Int) : Iv :=
  let sh : Int := e + f
  if 0 ≤ sh then { lo := m * 2 ^ sh.toNat, hi := m * 2 ^ sh.toNat, e := -(f : Int) }
  else { lo := m / 2 ^ (-sh).toNat, hi := cdiv m (2 ^ (-sh).toNat), e := -(f : Int) }

/-- 1 / [lo, hi] with w bits more than the interval's own. -/
def ivRecip (w : Nat) (a : Iv) : Iv :=
  let k := w + Nat.log2 a.hi + 1
  { lo := 2 ^ k / a.hi, hi := cdiv (2 ^ k) (max a.lo 1), e := -(k : Int) - a.e }

/-- The product. -/
def ivMul (a b : Iv) : Iv := { lo := a.lo * b.lo, hi := a.hi * b.hi, e := a.e + b.e }

/-- Both ends at a common lower exponent. -/
def ivAt (a : Iv) (q : Int) : Nat × Nat := (a.lo * 2 ^ (a.e - q).toNat, a.hi * 2 ^ (a.e - q).toNat)

def ivAdd2 (a b : Iv) : Iv :=
  let q := min a.e b.e
  { lo := (ivAt a q).1 + (ivAt b q).1, hi := (ivAt a q).2 + (ivAt b q).2, e := q }

/-- The difference, held to 0 from below. -/
def ivSub (a b : Iv) : Iv :=
  let q := min a.e b.e
  { lo := (ivAt a q).1 - (ivAt b q).2, hi := (ivAt a q).2 - (ivAt b q).1, e := q }

/-- 1 as an interval. -/
def ivOne : Iv := { lo := 1, hi := 1, e := 0 }

/-! ## The exponential -/

/-- Ends of Σ y^n / n! by Horner's rule from term n down, f fraction bits, for y below 1/2: (lower, upper). -/
def expHorner (f ylo yhi : Nat) : Nat → Nat × Nat
  | 0 => (2 ^ f, 2 ^ f)
  | n + 1 => expStep f ylo yhi 1 n (2 ^ f, 2 ^ (f + 1))
where
  /-- 1 + (y / k) s, with k falling from the last term to 1. -/
  expStep (f ylo yhi : Nat) (k : Nat) : Nat → Nat × Nat → Nat × Nat
    | 0, s => (2 ^ f + ylo * s.1 / (k * 2 ^ f), 2 ^ f + cdiv (yhi * s.2) (k * 2 ^ f))
    | n + 1, s => expStep f ylo yhi k n
        (2 ^ f + ylo * s.1 / ((k + n + 1) * 2 ^ f), 2 ^ f + cdiv (yhi * s.2) ((k + n + 1) * 2 ^ f))

/-- Square j times at f fraction bits. -/
def squareTimes (f : Nat) : Nat → Nat × Nat → Nat × Nat
  | 0, s => s
  | j + 1, s => squareTimes f j (s.1 * s.1 / 2 ^ f, cdiv (s.2 * s.2) (2 ^ f))

/-- e^a for a = m × 2^e ≥ 0, with w bits asked for. -/
def ivExp (w m : Nat) (e : Int) : Iv :=
  let j := ((Nat.log2 m : Nat) + e + 5).toNat
  let f := w + 2 * j + 16
  let y := ivFix f m (e - j)
  let s := squareTimes f j (expHorner f y.lo y.hi (f / 4 + 2))
  { lo := s.1, hi := s.2, e := -(f : Int) }

/-- e^x for a signed x. -/
def ivExpS (w : Nat) (neg : Bool) (m : Nat) (e : Int) : Iv :=
  if neg then ivRecip w (ivExp w m e) else ivExp w m e

/-! ## The logarithm -/

/-- Ends of Σ z^(2n) / (2n + 1) from term n down, for z² ≤ 1/4. -/
def atanhHorner (f z2lo z2hi : Nat) : Nat → Nat × Nat → Nat × Nat
  | 0, s => (2 ^ f + z2lo * s.1 / 2 ^ f, 2 ^ f + cdiv (z2hi * s.2) (2 ^ f))
  | n + 1, s => atanhHorner f z2lo z2hi n
      (2 ^ f / (2 * n + 3) + z2lo * s.1 / 2 ^ f, cdiv (2 ^ f) (2 * n + 3) + cdiv (z2hi * s.2) (2 ^ f))

/-- 2 atanh(a / b) for 0 ≤ a / b ≤ 1/2, f fraction bits. -/
def ivAtanh2 (f a b : Nat) : Iv :=
  let zlo := a * 2 ^ f / b
  let zhi := cdiv (a * 2 ^ f) b
  let s := atanhHorner f (zlo * zlo / 2 ^ f) (cdiv (zhi * zhi) (2 ^ f)) (f / 2 + 2) (0, 2 ^ (f + 1))
  { lo := zlo * s.1 / 2 ^ f * 2, hi := cdiv (zhi * s.2) (2 ^ f) * 2, e := -(f : Int) }

/-- ln of m × 2^e > 0: whether it is negative, and its magnitude. -/
def ivLog (w m : Nat) (e : Int) : Bool × Iv :=
  let f := w + 16
  let l := Nat.log2 m
  -- m = g × 2^l with 1 ≤ g < 2, halved where 2 m² ≥ 2^(2l + 2), so that g lies between 1/√2 and √2
  let big := decide (2 ^ (2 * l + 1) ≤ m * m)
  let d := if big then 2 ^ (l + 1) else 2 ^ l
  let k : Int := e + (l : Nat) + (if big then 1 else 0)
  let fneg := decide (m < d)
  let lf := ivAtanh2 f (if fneg then d - m else m - d) (m + d)
  let ln2 := ivAtanh2 f 1 3
  let lk : Iv := { lo := ln2.lo * k.natAbs, hi := ln2.hi * k.natAbs, e := ln2.e }
  if k = 0 then (fneg, lf)
  else if decide (k < 0) = fneg then (fneg, ivAdd2 lk lf)
  else (decide (k < 0), ivSub lk lf)

/-! ## The normal distribution -/

/-- Σ of floor(2^f / ((2n + 1) k^(2n + 1))) with alternating signs: within n + 2 units of 2^f atan(1/k). -/
def atanSum (f k : Nat) : Nat → Int
  | 0 => (2 ^ f / k : Nat)
  | n + 1 =>
    let t : Int := (2 ^ f / ((2 * n + 3) * k ^ (2 * n + 3)) : Nat)
    atanSum f k n + (if n % 2 = 0 then -t else t)

/-- π by Machin's formula, f fraction bits. -/
def ivPi (f : Nat) : Iv :=
  let n := f / 4 + 2
  let v := 16 * atanSum f 5 n - 4 * atanSum f 239 n
  let err : Int := 20 * ((n : Int) + 3)
  { lo := (v - err).toNat, hi := (v + err).toNat, e := -(f : Int) }

/-- Ends of Σ a^(2n) / (3 × 5 × … × (2n + 1)) from term n down. -/
def millsHorner (f alo ahi : Nat) : Nat → Nat × Nat → Nat × Nat
  | 0, s => s
  | n + 1, s => millsHorner f alo ahi n
      (2 ^ f + alo * s.1 / ((2 * n + 3) * 2 ^ f), 2 ^ f + cdiv (ahi * s.2) ((2 * n + 3) * 2 ^ f))

/-- Φ(a) − 1/2 for a = m × 2^e, 0 < a < 64. -/
def ivPhi (w m : Nat) (e : Int) : Iv :=
  let f := w + 32
  let a2 := ivFix f (m * m) (2 * e)
  let n := 3 * (a2.hi / 2 ^ f + 1) + w + 16
  let s := millsHorner f a2.lo a2.hi n (2 ^ f, 2 ^ (f + 1))
  let series : Iv := { lo := s.1, hi := s.2, e := -(f : Int) }
  let ex := ivExpS f true (m * m) (2 * e - 1)
  let pi := ivPi f
  -- √(2π) with f fraction bits: √(2π 2^(2f))
  let r : Iv := { lo := isqrt (pi.lo * 2 ^ (f + 1)), hi := isqrt (pi.hi * 2 ^ (f + 1)) + 1, e := -(f : Int) }
  ivMul { lo := m, hi := m, e := e } (ivMul (ivMul ex series) (ivRecip f r))

/-! ## Rounding an interval -/

/-- Both ends round to one value. -/
def roundIv (f : Fp) (neg : Bool) (a : Iv) : Option FV :=
  let x := rneFin f neg a.lo a.e false
  let y := rneFin f neg a.hi a.e false
  if x == y then some x else none

/-- Working precisions tried in turn: the last settles every binary64 argument. -/
def precisions : List Nat := [96, 320, 1280, 2560, 5120]

/-- The correctly rounded value that a family of ever narrower intervals holds; the fallback is never needed. -/
def settle (f : Fp) (fallback : FV) (g : Nat → Bool × Iv) : FV :=
  (precisions.findSome? fun w => roundIv f (g w).1 (g w).2).getD fallback

/-- A value the spec leaves open, in the format of the command (log 2). -/
def openFn (f : Fp) (code : Nat) : FV :=
  if f = fpB64 then b64 (Config.functionValue code true) else b32 ((Config.functionValue code false).setWidth 32)

/-- Is |x| above 2^k? -/
def tooBig (m : Nat) (e k : Int) : Bool := decide (k ≤ (Nat.log2 m : Nat) + e)

/-- e^x of an exact x, rounded once: vec_exp of R212. -/
def fexp (f : Fp) : FV → FV
  | .nan => .nan
  | .inf n => if n then fv0 else .inf false
  | .fin n m e =>
    if m = 0 then .fin false 1 0
    else if tooBig m e 11 then (if n then fv0 else .inf false)
    else settle f (openFn f 0x09) fun w => (false, ivExpS w n m e)

/-- ln x, rounded once. -/
def flog (f : Fp) : FV → FV
  | .nan => .nan
  | .inf n => if n then .nan else .inf false
  | .fin n m e =>
    if m = 0 then .inf true
    else if n then .nan
    else if m = 2 ^ Nat.log2 m ∧ (Nat.log2 m : Nat) + e = 0 then fv0
    else settle f (openFn f 0x0A) fun w => ivLog w m e

/-- tanh x, rounded once: (1 − u) / (1 + u) with u = e^(−2|x|). -/
def ftanh (f : Fp) : FV → FV
  | .nan => .nan
  | .inf n => .fin n 1 0
  | .fin n m e =>
    if m = 0 then .fin n 0 0
    else if tooBig m e 10 then .fin n 1 0
    else settle f (openFn f 0x0E) fun w =>
      let u := ivExpS w true m (e + 1)
      (n, ivMul (ivSub ivOne u) (ivRecip w (ivAdd2 ivOne u)))

/-- 1/(1 + e^(−x)) as an interval. -/
def ivSigmoid (w : Nat) (n : Bool) (m : Nat) (e : Int) : Iv := ivRecip w (ivAdd2 ivOne (ivExpS w (!n) m e))

/-- The sigmoid, rounded once. -/
def fsigmoid (f : Fp) : FV → FV
  | .nan => .nan
  | .inf n => if n then fv0 else .fin false 1 0
  | .fin n m e =>
    if m = 0 then .fin false 1 (-1)
    else if tooBig m e 11 then (if n then fv0 else .fin false 1 0)
    else settle f (openFn f 0x0F) fun w => (false, ivSigmoid w n m e)

/-- x/(1 + e^(−x)), rounded once; at −∞ the spec states no value. -/
def fsilu (f : Fp) : FV → FV
  | .nan => .nan
  | .inf n => if n then openFn f 0x10 else .inf false
  | .fin n m e =>
    if m = 0 then .fin n 0 0
    else if tooBig m e 12 then (if n then .fin true 0 0 else rneFin f false m e false)
    else settle f (openFn f 0x10) fun w => (n, ivMul { lo := m, hi := m, e := e } (ivSigmoid w n m e))

/-- x Φ(x), rounded once; at −∞ the spec states no value. -/
def fgelu (f : Fp) : FV → FV
  | .nan => .nan
  | .inf n => if n then openFn f 0x11 else .inf false
  | .fin n m e =>
    if m = 0 then .fin n 0 0
    else if tooBig m e 6 then (if n then .fin true 0 0 else rneFin f false m e false)
    else settle f (openFn f 0x11) fun w =>
      let half : Iv := { lo := 1, hi := 1, e := -1 }
      let c := ivPhi w m e
      (n, ivMul { lo := m, hi := m, e := e } (if n then ivSub half c else ivAdd2 half c))

/-- The functions of one argument of R212, and those of two and three: code, x, y, z. -/
def mapFn (f : Fp) (code : Nat) (x y z : FV) : FV :=
  if code = 0x00 then x
  else if code = 0x01 then rne f (x.add y)
  else if code = 0x02 then rne f (x.sub y)
  else if code = 0x03 then rne f (x.mul y)
  else if code = 0x04 then rne f ((x.mul y).add z)
  else if code = 0x05 then x.max y
  else if code = 0x06 then x.min y
  else if code = 0x07 then x.abs
  else if code = 0x08 then x.neg
  else if code = 0x09 then fexp f x
  else if code = 0x0A then flog f x
  else if code = 0x0B then fsqrt f x
  else if code = 0x0C then frsqrt f x
  else if code = 0x0D then fdiv f (fvOfNat 1) x
  else if code = 0x0E then ftanh f x
  else if code = 0x0F then fsigmoid f x
  else if code = 0x10 then fsilu f x
  else fgelu f x

end Sys2Proof.Machine
end

