-- ==== Sys2Proof/Machine/Vector.lean ====
section
/-! DEFINITION. The vector engine: VEC.MAP, REDUCE, SOFTMAX, NORM, CONVERT, QUANT, ORTHO and SUMMARY (R209 to R220, R370, R371). -/

namespace Sys2Proof.Machine

/-! ## Parameter words -/

def vR (p : Packet) : Nat := wd p 4
def vC (p : Packet) : Nat := wd p 5
def vOp (p : Packet) : Nat := pf p 6 7 0
def vF64 (p : Packet) : Bool := pb p 6 8
def vSlot (p : Packet) : Option Nat := if pb p 6 9 then some (pf p 6 21 10) else none
def vYScalar (p : Packet) : Bool := pb p 6 22
def vZScalar (p : Packet) : Bool := pb p 6 23
def vZmap (p : Packet) : Bool := pb p 6 24

/-- The format arithmetic rounds to (R211). -/
def vFp (p : Packet) : Fp := if vF64 p then fpB64 else fpB32

/-- Formats the engine reads, and those it writes outside ARGMAX and ARGMIN (R84). -/
def vecIn : List Nat := [fmtB32, fmtB16, fmtBF16, fmtE4M3, fmtE5M2, fmtE2M1, fmtI8, fmtI4, fmtB64, fmtI32]
def vecOut : List Nat := [fmtB32, fmtB16, fmtBF16, fmtE4M3, fmtE5M2, fmtE2M1, fmtI8, fmtI4, fmtB64]

def posIn (fmts : List Nat) : Pos := { fmts := fmts, out := false, array := false, jitCol := true }
def posOut (fmts : List Nat) : Pos := { fmts := fmts, out := true, array := false, jitCol := true }

/-- At least one cluster is in service (R209). -/
def vecServes (s : State) : Bool := (List.range 4).any fun n => !outOfUse s (sVEC n)

/-- Word 0, where the engine cannot run: level C is lost, or no cluster is left (R209, R400). -/
def vecDegraded (s : State) : List Nat := badIf (!levelC s || !vecServes s) 0

/-- A slot that is not named must be 0; a slot named must be bound to the context (R232). -/
def slotBad (s : State) (p : Packet) (w : Nat) (valid : Bool) (n : Nat) : List Nat :=
  badIf (if valid then !slotBound s (issuerCtx s p.issuer) n else n != 0) w

/-- What every vector command checks: sizes, the operation, the options it may set, the slot, the descriptor of X and that of the output, and words 34 and 35. -/
def vecCommon (s : State) (p : Packet) (ops : Nat) (opts : Nat) (xf of : List Nat) (orows : Nat) (ocols : Nat) : List Nat :=
  let v := envHN s p
  badIf (vR p = 0 || decide (2 ^ 24 < vR p)) 4 ++ badIf (vC p = 0 || decide (2 ^ 24 < vC p)) 5
    ++ resv p 6 (0x3FFFFF ||| opts) ++ badIf (decide (ops ≤ vOp p)) 6
    ++ slotBad s p 6 (pb p 6 9) (pf p 6 21 10)
    ++ descBad v (posIn xf) 10 (vR p) (vC p) (descAt p 10)
    ++ descBad v (posOut of) 28 orows ocols (descAt p 28)
    ++ zeroWords p [34, 35]

/-! ## Values -/

/-- Inputs are widened to the precision of the command; a value it does not hold follows R92 (R95, R211). -/
def widen (p : Packet) (v : PEl) : PEl := ((cvtFp (vFp p) v.1).1, v.2)

def rowPoison (r : List PEl) : Bool := r.any Prod.snd

/-- One chunk, or the chunks' sums, from +0 (R213). -/
def addUp (vs : List FV) : FV := vs.foldl (fun a v => rne64 (a.add v)) fv0

/-- sum64 of R213. -/
def sum64 (vs : List FV) : FV := addUp ((chunks 256 vs).map addUp)

/-- Does entry a rank before entry b (R184)? Index and value. -/
def ranksBefore (largest : Bool) (a b : Nat × FV) : Bool :=
  if a.2.isNan != b.2.isNan then b.2.isNan
  else if !a.2.isNan && (if largest then b.2.lt a.2 else a.2.lt b.2) then true
  else if !a.2.isNan && (if largest then a.2.lt b.2 else b.2.lt a.2) then false
  else decide (a.1 < b.1)

/-- The entry that ranks first. -/
def firstRanked (largest : Bool) : List (Nat × FV) → Nat
  | [] => 0
  | e :: t => (t.foldl (fun m x => if ranksBefore largest x m then x else m) e).1

/-- The maximum or minimum of a row (R181). -/
def foldMax : List FV → FV
  | [] => .nan
  | v :: t => t.foldl FV.max v

def foldMin : List FV → FV
  | [] => .nan
  | v :: t => t.foldl FV.min v

/-! ## Running -/

/-- Does an operand or the output of a vector command lie in virtual memory (R210)? -/
def vecVirtual (p : Packet) : Bool := [10, 16, 22, 28].any fun w => (descAt p w).present && !(descAt p w).grant

/-- Read X, and say so to its detectors. -/
def vecRead (p : Packet) (s : State) : Except AFault (List (List PEl)) :=
  match readT s (envHN s p) (descAt p 10) (vR p) (vC p) with
  | .error f => .error f
  | .ok rows => .ok (rows.map fun r => r.map (widen p))

/-- The reply of a vector command from what its write came to (R217, R371). -/
def vecResult (w : WOut) (detail : BitVec 24) (c3 : Nat) : Result :=
  ranResult w.fault (decide (0 < w.tally.poison)) (decide (0 < w.tally.nonfin + w.tally.sat)) detail
    w.tally.nonfin w.tally.sat w.tally.poison c3

/-- Report a fault's poisoned table entry, where the write met one. -/
def afterWrite (r : State × WOut) : State :=
  match r.2.fault with
  | some f => reportTable f r.1
  | none => r.1

/-- A command that turns the rows of X into the rows of the output. -/
def vecRows (p : Packet) (cols : Nat) (f : List (List PEl) → List (List PEl)) (s : State) : State × Result :=
  match vecRead p s with
  | .error e => faulted e s
  | .ok rows =>
    let s := detectT (envHN s p) (descAt p 10) (vR p) (vC p) s
    let r := writeT (envHN s p) (descAt p 28) cols (vSlot p) (f rows) s
    (afterWrite r, vecResult r.2 0 0)

/-! ## VEC.MAP (R212) -/

def usesY (op : Nat) : Bool := decide (1 ≤ op) && decide (op ≤ 6)
def usesZ (op : Nat) : Bool := op == 4

/-- A second or third operand: a tensor or a scalar where the function uses it, else nothing. -/
def mapOperand (s : State) (p : Packet) (used scalar : Bool) (w sw : Nat) : List Nat :=
  badIf (scalar && !used) 6
    ++ (if used && !scalar then descBad (envHN s p) (posIn vecIn) w (vR p) (vC p) (descAt p w) else descAbsent p w)
    ++ (if used && scalar then [] else zeroWords p [sw])

def vecMapChecks (s : State) (p : Packet) : Checks :=
  { noChecks with
    param := vecCommon s p 0x12 0xC00000 vecIn vecOut (vR p) (vC p)
      ++ mapOperand s p (usesY (vOp p)) (vYScalar p) 16 7 ++ mapOperand s p (usesZ (vOp p)) (vZScalar p) 22 8
      ++ zeroWords p [9]
    degraded := vecDegraded s }

/-- The operand's rows: the tensor, or the scalar broadcast; +0 where it is not used. -/
def mapRows (s : State) (p : Packet) (used scalar : Bool) (w sw : Nat) : Except AFault (List (List PEl)) :=
  if used && !scalar then
    match readT s (envHN s p) (descAt p w) (vR p) (vC p) with
    | .error f => .error f
    | .ok rows => .ok (rows.map fun r => r.map (widen p))
  else
    let k : PEl := if used then (fpValue fpB32 (wd p sw), false) else (fv0, false)
    .ok (List.replicate (vR p) (List.replicate (vC p) k))

def map3 (op : Nat) (fp : Fp) (x y z : List PEl) : List PEl :=
  List.zipWith (fun (a : PEl × PEl) (c : PEl) => (mapFn fp op a.1.1 a.2.1 c.1, a.1.2 || a.2.2 || c.2)) (List.zip x y) z

def vecMapEffect (p : Packet) (s : State) : State × Result :=
  match mapRows s p (usesY (vOp p)) (vYScalar p) 16 7, mapRows s p (usesZ (vOp p)) (vZScalar p) 22 8 with
  | .ok ys, .ok zs =>
    let seen := fun (used : Bool) (w : Nat) (s : State) => if used then detectT (envHN s p) (descAt p w) (vR p) (vC p) s else s
    vecRows p (vC p) (fun rows =>
      List.zipWith (fun (xy : List PEl × List PEl) (z : List PEl) => map3 (vOp p) (vFp p) xy.1 xy.2 z) (List.zip rows ys) zs)
      (seen (usesZ (vOp p) && !vZScalar p) 22 (seen (usesY (vOp p) && !vYScalar p) 16 s))
  | .error f, _ => faulted f s
  | _, .error f => faulted f s

def execVecMap (p : Packet) (s : State) : Host.Outcome State Fault Refusal :=
  .next (met s (takeUp 0x0501 (runTracked [0, 2] vecVirtual vecMapChecks vecMapEffect) p s))

/-! ## VEC.REDUCE (R213) -/

def unused (p : Packet) : List Nat := descAbsent p 16 ++ descAbsent p 22

def reduceChecks (s : State) (p : Packet) : Checks :=
  { noChecks with
    param := vecCommon s p 6 0 vecIn (if 4 ≤ vOp p then [fmtI32] else vecOut) (vR p) 1 ++ unused p ++ zeroWords p [7, 8, 9]
    degraded := vecDegraded s }

def reduceRow (op : Nat) (r : List PEl) : List PEl :=
  let vs := r.map Prod.fst
  let v : FV :=
    if op = 0 then sum64 vs
    else if op = 1 then sum64 (vs.map fun x => rne64 (x.mul x))
    else if op = 2 then foldMax vs
    else if op = 3 then foldMin vs
    else fvOfNat (firstRanked (op == 4) ((List.range vs.length).zip vs))
  [(v, rowPoison r)]

def execVecReduce (p : Packet) (s : State) : Host.Outcome State Fault Refusal :=
  .next (met s (takeUp 0x0502 (runTracked [0, 2] vecVirtual reduceChecks fun p s => vecRows p 1 (fun rows => rows.map (reduceRow (vOp p))) s) p s))

/-! ## VEC.SOFTMAX (R214) -/

def softmaxChecks (s : State) (p : Packet) : Checks :=
  { noChecks with
    param := vecCommon s p 1 0 vecIn vecOut (vR p) (vC p) ++ unused p ++ zeroWords p [7, 8, 9]
    degraded := vecDegraded s }

/-- The steps of R214: the exponential rounded to the precision of the command (R212), sum and reciprocal to binary32, the product to binary64. -/
def softmaxRow (fp : Fp) (r : List PEl) : List PEl :=
  let m := foldMax (r.map Prod.fst)
  let es := r.map fun x => fexp fp (x.1.sub m)
  let l := es.foldl (fun a e => rne32 (a.add e)) fv0
  let k := fdiv fpB32 (fvOfNat 1) l
  es.map fun e => (rne64 (e.mul k), rowPoison r)

def execVecSoftmax (p : Packet) (s : State) : Host.Outcome State Fault Refusal :=
  .next (met s (takeUp 0x0503 (runTracked [0, 2] vecVirtual softmaxChecks fun p s => vecRows p (vC p) (fun rows => rows.map (softmaxRow (vFp p))) s) p s))

/-! ## VEC.NORM (R215) -/

def normChecks (s : State) (p : Packet) : Checks :=
  { noChecks with
    param := vecCommon s p 2 0 vecIn vecOut (vR p) (vC p)
      ++ descBad (envHN s p) (posIn [fmtB32]) 16 1 (vC p) (descAt p 16)
      ++ descMaybe (envHN s p) (posIn [fmtB32]) p 22 1 (vC p) ++ zeroWords p [8, 9]
    degraded := vecDegraded s }

def normRow (layer : Bool) (eps : FV) (g b : List PEl) (r : List PEl) : List PEl :=
  let n := fvOfNat r.length
  let vs := r.map Prod.fst
  let mu := fdiv fpB64 (sum64 vs) n
  let d := if layer then vs.map fun x => rne64 (x.sub mu) else vs
  let var := fdiv fpB64 (sum64 (d.map fun x => rne64 (x.mul x))) n
  let k := fdiv fpB64 (fvOfNat 1) (fsqrt fpB64 (rne64 (var.add eps)))
  List.zipWith (fun (x : FV) (gb : PEl × PEl) =>
    (rne64 ((rne64 ((rne64 (x.mul k)).mul gb.1.1)).add gb.2.1), rowPoison r || gb.1.2 || gb.2.2)) d (List.zip g b)

def normEffect (p : Packet) (s : State) : State × Result :=
  let v := envHN s p
  let bias : Except AFault (List PEl) :=
    if (descAt p 22).present then readRow s v (descAt p 22) (vC p) 0 else .ok (List.replicate (vC p) (fv0, false))
  match readRow s v (descAt p 16) (vC p) 0, bias with
  | .ok g, .ok b =>
    let s := detectT v (descAt p 16) 1 (vC p) s
    let s := if (descAt p 22).present then detectT v (descAt p 22) 1 (vC p) s else s
    vecRows p (vC p) (fun rows => rows.map (normRow (vOp p == 0) (fpValue fpB32 (wd p 7)) g b)) s
  | .error f, _ => faulted f s
  | _, .error f => faulted f s

def execVecNorm (p : Packet) (s : State) : Host.Outcome State Fault Refusal :=
  .next (met s (takeUp 0x0504 (runTracked [0, 2] vecVirtual normChecks normEffect) p s))

/-! ## VEC.CONVERT and VEC.QUANT (R216) -/

/-- Bytes of a zero map of R129: a row of blocks of eight, in 64-bit words. -/
def zmapRowBytes (cols : Nat) : Nat := ceilDiv (ceilDiv cols 8) 64 * 8

def zmapBytes (rows cols : Nat) : Nat := rows * zmapRowBytes cols

/-- The map's bytes of one row: a bit for each block whose elements were all written as ±0. -/
def zmapRow (flags : List Bool) : List Byte :=
  let bits := (chunks 8 flags).map fun g => g.all id
  let bytes := (chunks 8 bits).map fun g => BitVec.ofNat 8 (g.foldr (fun b n => bnat b + 2 * n) 0)
  bytes ++ zeros (zmapRowBytes flags.length - bytes.length)

def convertChecks (quant : Bool) (s : State) (p : Packet) : Checks :=
  let o := descAt p 28
  { noChecks with
    param := vecCommon s p 1 0x1000000 vecIn vecOut (vR p) (vC p) ++ unused p ++ zeroWords p [7, 8]
      ++ badIf (o.block == 0 && quant || o.block != 0 && !quant) 28
      ++ badIf (if vZmap p then !inGrant (envHN s p).x (wd p 9) (zmapBytes (vR p) (vC p)) else decide (wd p 9 ≠ 0)) 9
    degraded := vecDegraded s }

def convertEffect (p : Packet) (s : State) : State × Result :=
  match vecRead p s with
  | .error e => faulted e s
  | .ok rows =>
    let v := envHN s p
    let s := detectT v (descAt p 10) (vR p) (vC p) s
    let r := writeT v (descAt p 28) (vC p) (vSlot p) rows s
    if vZmap p && r.2.fault.isNone then
      let m := grantWrite v.x (wd p 9) ((r.2.zeroFlags.flatMap fun x => zmapRow x.2).map fun b => (b, false)) r.1
      (m.1, vecResult { r.2 with fault := m.2 } 0 0)
    else (afterWrite r, vecResult r.2 0 0)

def execVecConvert (p : Packet) (s : State) : Host.Outcome State Fault Refusal :=
  .next (met s (takeUp 0x0505 (runTracked [0, 2] vecVirtual (convertChecks false) convertEffect) p s))

def execVecQuant (p : Packet) (s : State) : Host.Outcome State Fault Refusal :=
  .next (met s (takeUp 0x0506 (runTracked [0, 2] vecVirtual (convertChecks true) convertEffect) p s))

/-! ## VEC.ORTHO (R218, R219) -/

def norm2 (v : List FV) : FV := fsqrt fpB64 (sum64 (v.map fun x => rne64 (x.mul x)))

/-- One projection of v on a column q. -/
def projectOff (v q : List FV) : List FV :=
  let c := sum64 (List.zipWith (fun (a b : FV) => rne64 (a.mul b)) q v)
  List.zipWith (fun (x y : FV) => rne64 (x.sub (rne64 (c.mul y)))) v q

/-- The next orthonormal column, and whether it was deficient. -/
def orthoColumn (qs : List (List FV)) (v : List FV) : List FV × Bool :=
  let a := norm2 v
  let w := qs.foldl projectOff (qs.foldl projectOff v)
  let b := norm2 w
  if b.isZero || b.lt (a.scale (-40)) then (w.map fun _ => fv0, true) else (w.map fun x => fdiv fpB64 x b, false)

/-- ortho of R218 over columns: the orthonormal columns, and the number of deficient ones. -/
def ortho (cols : List (List FV)) : List (List FV) × Nat :=
  cols.foldl (fun (acc : List (List FV) × Nat) v =>
    let r := orthoColumn acc.1 v
    (acc.1 ++ [r.1], acc.2 + bnat r.2)) ([], 0)

def orthoChecks (s : State) (p : Packet) : Checks :=
  { noChecks with
    param := vecCommon s p 1 0 vecIn vecOut (vR p) (vC p) ++ unused p ++ zeroWords p [7, 8]
      ++ badIf (vF64 p) 6 ++ badIf (decide (64 < vC p)) 5 ++ badIf (decide (vR p < vC p) || decide (2 ^ 24 < vR p * vC p)) 4
      ++ badIf (!inGrant (envHN s p).x (wd p 9) (vR p * vC p * 8)) 9
    degraded := vecDegraded s }

/-- The output of VEC.ORTHO: NaN throughout for a non-finite input, poison throughout for a poisoned one. -/
def orthoRows (n r : Nat) (rows : List (List PEl)) : List (List PEl) × Nat × Bool :=
  let bad := rows.any fun x => x.any fun v => !v.1.isFin
  let poison := rows.any rowPoison
  if bad then (List.replicate n (List.replicate r (.nan, poison)), 0, true)
  else
    let q := ortho (transpose r (rows.map fun x => x.map Prod.fst))
    ((transpose n q.1).map fun x => x.map fun v => (v, poison), q.2, false)

def orthoEffect (p : Packet) (s : State) : State × Result :=
  match vecRead p s with
  | .error e => faulted e s
  | .ok rows =>
    let v := envHN s p
    let s := detectT v (descAt p 10) (vR p) (vC p) s
    let q := orthoRows (vR p) (vC p) rows
    -- the working area is left open (log 2)
    let s := loosenGrant v.x (wd p 9) (vR p * vC p * 8) s
    let w := writeT v (descAt p 28) (vC p) (vSlot p) q.1 s
    (afterWrite w, vecResult w.2 (dIf q.2.2 (dfOp 40)) q.2.1)

def execVecOrtho (p : Packet) (s : State) : Host.Outcome State Fault Refusal :=
  .next (met s (takeUp 0x0507 (runTracked [0, 2] vecVirtual orthoChecks orthoEffect) p s))

/-! ## VEC.SUMMARY (R220) -/

def summaryChecks (s : State) (p : Packet) : Checks :=
  { noChecks with
    param := vecCommon s p 2 0 [fmtBF16, fmtE4M3, fmtE5M2] [fmtB32, fmtBF16, fmtE4M3, fmtE5M2] (wd p 7 + wd p 8) (vC p)
      ++ unused p ++ zeroWords p [9] ++ badIf (decide (vR p < (wd p 7 + wd p 8) * 128)) 8
    degraded := vecDegraded s }

/-- The summary of one block from its 128 rows. -/
def summaryRow (mean : Bool) (cols : Nat) (rows : List (List PEl)) : List PEl :=
  (transpose cols rows).map fun c =>
    let vs := c.map Prod.fst
    (if mean then rne64 ((addUp vs).scale (-7)) else foldMax vs, rowPoison c)

def summaryEffect (p : Packet) (s : State) : State × Result :=
  let v := envHN s p
  let blocks := (List.range (wd p 8)).map (· + wd p 7)
  match readAll (fun b => readRows s v (descAt p 10) (vC p) ((List.range 128).map (· + b * 128))) blocks with
  | .error e => faulted e s
  | .ok groups =>
    let s := detectT v (descAt p 10) (vR p) (vC p) s
    let rows := groups.map fun g => summaryRow (vOp p == 0) (vC p) (g.map fun r => r.map (widen p))
    let w := writeRows v (descAt p 28) (vC p) (vSlot p) (blocks.zip rows) s
    (afterWrite w, vecResult w.2 0 0)

def execVecSummary (p : Packet) (s : State) : Host.Outcome State Fault Refusal :=
  .next (met s (takeUp 0x0508 (runTracked [0, 2] vecVirtual summaryChecks summaryEffect) p s))

end Sys2Proof.Machine
end

