-- ==== Sys2Proof/Machine/Gather.lean ====
section
/-! DEFINITION. Gather/scatter engine and ranker: GSX.GATHER, GSX.SCATTER, GSX.ROUTE and RNK.TOPK (R184 to R193, R372, R375). -/

namespace Sys2Proof.Machine

/-- Word 0, where the gather/scatter engine or the ranker cannot run: level C is lost, or IZ/GSX is out of use (R400). -/
def gsxDegraded (s : State) : List Nat := badIf (!levelC s || outOfUse s sGSX) 0

/-- Formats of rows: those every engine reads and writes (R84). -/
def rowFmts : List Nat := [fmtB32, fmtB16, fmtBF16, fmtE4M3, fmtE5M2, fmtE2M1, fmtI8, fmtI4]

/-- An index list entry that names no row. -/
def noRow : Nat := 0xFFFFFFFF

/-- TOKEN and RANK of a row list entry (R189). -/
def tokenOf (e : Nat) : Nat := fld e 23 0
def rankOf (e : Nat) : Nat := fld e 26 24

def tokenAt (list : List (Nat × Bool)) (i : Nat) : Nat × Bool := list.getD i (noRow, false)

/-- The reply of GATHER and SCATTER: rows written, BAD_INDEX, rows poisoned, elements saturated (R375). -/
def gsxResult (w : WOut) (bad : Nat) : Result :=
  ranResult w.fault (decide (0 < w.poisonRows)) (decide (0 < w.tally.nonfin + w.tally.sat + bad)) 0 w.rows bad w.poisonRows w.tally.sat

def zeroRow (cols : Nat) (poison : Bool) : List PEl := List.replicate cols (fv0, poison)

def gsxSlot (p : Packet) : Option Nat := if pb p 6 2 then some (pf p 6 15 4) else none

/-! ## GSX.GATHER (R191, R372) -/

def gGate (p : Packet) : Bool := pb p 6 1
def gRowList (p : Packet) : Bool := pb p 6 0
def gK (p : Packet) : Nat := pf p 7 3 0

/-- Entries of the gate array: one per destination row, or K_R per source row. -/
def gateCount (p : Packet) : Nat := if gRowList p then wd p 24 * gK p else wd p 4

/-- A pointer used only under an option: n 4-byte entries, or 0. -/
def listBad (p : Packet) (w n : Nat) (used : Bool) : List Nat :=
  if used then vaRange p w (4 * n) else zeroWords p [w, w + 1]

def gatherChecks (s : State) (p : Packet) : Checks :=
  let v := envHN s p
  { noChecks with
    param := resv p 6 0xFFF7 ++ slotBad s p 6 (pb p 6 2) (pf p 6 15 4) ++ resv p 7 0xF
      ++ badIf (if gRowList p && gGate p then gK p = 0 || decide (8 < gK p) else gK p != 0) 7
      ++ descBad v (posIn rowFmts) 8 (wd p 24) (wd p 5) (descAt p 8) ++ descBad v (posOut rowFmts) 14 (wd p 4) (wd p 5) (descAt p 14)
      ++ listBad p 20 (wd p 4) true ++ listBad p 22 (gateCount p) (gGate p) ++ zeroWords p [25, 26, 27]
    degraded := gsxDegraded s }

/-- One gathered row, and whether its entry names a row past the source. -/
def gatherRow (p : Packet) (s : State) (gates : List PEl) (i : Nat) (e : Nat × Bool) : Except AFault (List PEl × Bool) :=
  let row := if gRowList p then tokenOf e.1 else e.1
  if e.1 = noRow then .ok (zeroRow (wd p 5) e.2, false)
  else if wd p 24 ≤ row then .ok (zeroRow (wd p 5) e.2, true)
  else
    match readRow s (envHN s p) (descAt p 8) (wd p 5) row with
    | .error f => .error f
    | .ok r =>
      let g := gates.getD (if gRowList p then row * gK p + rankOf e.1 else i) (fvOfNat 1, false)
      .ok (r.map fun x => (if gGate p then rne64 (x.1.mul g.1) else x.1, x.2 || e.2 || (gGate p && g.2)), false)

def gatherEffect (p : Packet) (s : State) : State × Result :=
  let v := envHN s p
  match wordsAt s v false (dw p 20) (wd p 4), (if gGate p then floatsAt s v false (dw p 22) (gateCount p) else .ok []) with
  | .ok list, .ok gates =>
    match readAll (fun (x : Nat × (Nat × Bool)) => gatherRow p s gates x.1 x.2) (numbered list) with
    | .error f => faulted f s
    | .ok rows =>
      let s := locDetect v false (dw p 20) (4 * wd p 4) (detectT v (descAt p 8) (wd p 24) (wd p 5) s)
      let r := writeT v (descAt p 14) (wd p 5) (gsxSlot p) (rows.map Prod.fst) s
      (afterWrite r, gsxResult r.2 (rows.filter Prod.snd).length)
  | .error f, _ => faulted f s
  | _, .error f => faulted f s

def execGsxGather (p : Packet) (s : State) : Host.Outcome State Fault Refusal :=
  .next (met s (takeUp 0x0601 (runTracked sGSX (fun _ => true) gatherChecks gatherEffect) p s))

/-! ## GSX.SCATTER (R192, R372) -/

def sMode (p : Packet) : Nat := pf p 6 1 0

def scatterChecks (s : State) (p : Packet) : Checks :=
  let v := envHN s p
  let combine := sMode p == 1
  { noChecks with
    param := resv p 6 0xFFF7 ++ badIf (sMode p == 3) 6 ++ slotBad s p 6 (pb p 6 2) (pf p 6 15 4) ++ resv p 7 0xF
      ++ badIf (if combine then gK p = 0 || decide (8 < gK p) else gK p != 0) 7
      -- the rows of Y that COMBINE reads are named by the inverse map
      ++ descBad v (posIn rowFmts) 8 (if combine then 0 else wd p 4) (wd p 5) (descAt p 8)
      ++ descBad v (posOut (if sMode p = 2 then [fmtB32] else rowFmts)) 14 (wd p 24) (wd p 5) (descAt p 14)
      ++ listBad p 20 (if combine then wd p 4 * gK p else wd p 4) true ++ listBad p 22 (wd p 4 * gK p) combine ++ zeroWords p [25, 26, 27]
    degraded := gsxDegraded s }

/-- COPY: the rows to write, in buffer order, and the entries that name no destination row. -/
def copyRows (p : Packet) (s : State) (list : List (Nat × Bool)) : Except AFault (List (Nat × List PEl) × Nat) :=
  let used := (numbered list).filter fun x => x.2.1 != noRow && decide (tokenOf x.2.1 < wd p 24)
  let bad := (list.filter fun e => e.1 != noRow && decide (wd p 24 ≤ tokenOf e.1)).length
  match readRows s (envHN s p) (descAt p 8) (wd p 5) (used.map Prod.fst) with
  | .error f => .error f
  | .ok rows =>
    .ok (List.zipWith (fun (x : Nat × (Nat × Bool)) (r : List PEl) => (tokenOf x.2.1, r.map fun e => (e.1, e.2 || x.2.2))) used rows, bad)

/-- COMBINE: one term after another for each element of a token's row (R192). -/
def combineRow (p : Packet) (s : State) (inv : List (Nat × Bool)) (gates : List PEl) (t : Nat) : Except AFault (List PEl) :=
  let picks := (List.range (gK p)).map fun r => (tokenAt inv (t * gK p + r), gates.getD (t * gK p + r) (fv0, false))
  let used := picks.filter fun x => x.1.1 != noRow
  let lost := picks.any fun x => x.1.2
  match readRows s (envHN s p) (descAt p 8) (wd p 5) (used.map fun x => x.1.1) with
  | .error f => .error f
  | .ok rows =>
    .ok ((List.zip (used.map Prod.snd) rows).foldl (fun (acc : List PEl) (x : PEl × List PEl) =>
      List.zipWith (fun (a y : PEl) => (rne32 (a.1.add (rne32 (x.1.1.mul y.1))), a.2 || y.2 || x.1.2)) acc x.2) (zeroRow (wd p 5) lost))

/-- ADD: one buffer row after another into the destination. -/
def addRows (p : Packet) (rows : List (Nat × List PEl)) (s : State) : State × WOut :=
  let v := envHN s p
  rows.foldl (fun (acc : State × WOut) x =>
    match acc.2.fault with
    | some _ => acc
    | none =>
      match readRow acc.1 v (descAt p 14) (wd p 5) x.1 with
      | .error f => (acc.1, { acc.2 with fault := some f })
      | .ok old =>
        let sum := List.zipWith (fun (a b : PEl) => (rne32 (a.1.add b.1), a.2 || b.2)) old x.2
        writeGroup v (descAt p 14) (wd p 5) [(x.1, sum)] acc) (s, noOut)

def scatterEffect (p : Packet) (s : State) : State × Result :=
  let v := envHN s p
  let n := if sMode p = 1 then wd p 4 * gK p else wd p 4
  match wordsAt s v false (dw p 20) n with
  | .error f => faulted f s
  | .ok list =>
    let s' := locDetect v false (dw p 20) (4 * n) s
    if sMode p = 1 then
      match floatsAt s v false (dw p 22) n with
      | .error f => faulted f s
      | .ok gates =>
        let ts := List.range (min (wd p 4) (wd p 24))
        match readAll (combineRow p s list gates) ts with
        | .error f => faulted f s
        | .ok rows =>
          let r := writeT v (descAt p 14) (wd p 5) (gsxSlot p) rows s'
          (afterWrite r, gsxResult r.2 (wd p 4 - wd p 24))
    else
      match copyRows p s list with
      | .error f => faulted f s
      | .ok (rows, bad) =>
        let s' := detectT v (descAt p 8) (wd p 4) (wd p 5) s'
        let r := if sMode p = 0 then writeRows v (descAt p 14) (wd p 5) (gsxSlot p) rows s'
                 else
                   let a := addRows p rows s'
                   (updateSlot (gsxSlot p) a.2.tally a.1, a.2)
        (afterWrite r, gsxResult r.2 bad)

def execGsxScatter (p : Packet) (s : State) : Host.Outcome State Fault Refusal :=
  .next (met s (takeUp 0x0602 (runTracked sGSX (fun _ => true) scatterChecks scatterEffect) p s))

/-! ## GSX.ROUTE (R188 to R190) -/

/-- PADDED_ROWS of a count of rows. -/
def padded (n : Nat) : Nat := ceilDiv n 192 * 192

/-- What routing has done so far: admitted picks by expert in order (token, rank), drops by expert, bad indices. -/
structure Routing where
  rows : List (List (Nat × Nat))
  dropped : List Nat
  bad : Nat
  deriving DecidableEq, Repr

/-- One pick: admitted while its expert holds fewer than C rows (R188). -/
def placeToken (cap : Nat) (r : Routing) (t k e : Nat) : Routing :=
  if e = noRow then r
  else
    match r.rows[e]? with
    | none => { r with bad := r.bad + 1 }
    | some have_ =>
      if have_.length < cap then { r with rows := setAt e (· ++ [(t, k)]) r.rows }
      else { r with dropped := setAt e (· + 1) r.dropped }

/-- Every pick, rank by rank and token by token. -/
def routePicks (tokens experts cap kr : Nat) (sel : List Nat) : Routing :=
  foldUpTo kr (fun k r => foldUpTo tokens (fun t r => placeToken cap r t k (sel.getD (t * kr + k) noRow)) r)
    { rows := List.replicate experts [], dropped := List.replicate experts 0, bad := 0 }

/-- ROW_BASE of each expert. -/
def rowBases (r : Routing) : List Nat :=
  (r.rows.foldl (fun (acc : List Nat × Nat) l => (acc.1 ++ [acc.2], acc.2 + padded l.length)) ([], 0)).1

def totalRows (r : Routing) : Nat := (r.rows.map fun l => padded l.length).sum

/-- The descriptors, the row list and the inverse map as words. -/
def routeDescs (r : Routing) : List Nat :=
  (List.zip (rowBases r) (List.zip r.rows r.dropped)).flatMap fun (x : Nat × (List (Nat × Nat) × Nat)) =>
    [x.1, x.2.1.length, padded x.2.1.length, x.2.2]

def routeRows (r : Routing) : List Nat :=
  r.rows.flatMap fun l => l.map (fun x => x.1 + 2 ^ 24 * x.2) ++ List.replicate (padded l.length - l.length) noRow

def routeInverse (tokens kr : Nat) (r : Routing) : List Nat :=
  let placed := (List.zip (rowBases r) r.rows).flatMap fun (x : Nat × List (Nat × Nat)) =>
    (numbered x.2).map fun y => (y.2.1 * kr + y.2.2, x.1 + y.1)
  let m : KV Nat := placed.foldl (fun (m : KV Nat) e => kvSet e.1 e.2 m) []
  (List.range (tokens * kr)).map fun i => kvGetD i noRow m

/-- Tokens that have a valid pick and none admitted; a token with no valid pick at all is not among them (R190; DESIGN CHOICE, log 134: the rule does not say). -/
def allDropped (tokens kr experts : Nat) (sel inv : List Nat) : Nat :=
  ((List.range tokens).filter fun t =>
    (List.range kr).any (fun k => decide (sel.getD (t * kr + k) noRow < experts))
      && (List.range kr).all fun k => inv.getD (t * kr + k) noRow == noRow).length

def routeChecks (s : State) (p : Packet) : Checks :=
  let t := wd p 4
  let e := wd p 5
  let c := wd p 6
  { noChecks with
    param := badIf (t = 0 || decide (2 ^ 24 < t)) 4 ++ badIf (e = 0 || decide (4096 < e)) 5 ++ badIf (c = 0 || decide (2 ^ 24 < c)) 6
      ++ badIf (decide (2 ^ 24 < e * padded c)) 5 ++ resv p 7 0xF ++ badIf (gK p = 0 || decide (8 < gK p)) 7
      ++ vaRange p 8 (4 * t * gK p) ++ vaRange p 10 (16 * e) ++ vaField p 12
      ++ vaRange p 14 (4 * t * gK p)
    degraded := gsxDegraded s }

/-- Write words at a virtual address, unless a fault came before. -/
def putWords (v : Env) (addr : Nat) (ws : List Nat) (poison : Bool) (acc : State × Option AFault) : State × Option AFault :=
  match acc.2 with
  | some _ => acc
  | none => locWrite v false addr (ws.flatMap fun w => (leBytes 4 w).map fun b => (b, poison)) acc.1

/-- GSX.ROUTE: a poisoned selection entry poisons the whole dispatch table, all of which depends on it. -/
def routeEffect (p : Packet) (s : State) : State × Result :=
  let v := envHN s p
  let n := wd p 4 * gK p
  match wordsAt s v false (dw p 8) n with
  | .error f => faulted f s
  | .ok sel =>
    let s := locDetect v false (dw p 8) (4 * n) s
    let picks := sel.map Prod.fst
    let poison := sel.any Prod.snd
    let r := routePicks (wd p 4) (wd p 5) (wd p 6) (gK p) picks
    let inv := routeInverse (wd p 4) (gK p) r
    let w := putWords v (dw p 14) inv poison (putWords v (dw p 12) (routeRows r) poison (putWords v (dw p 10) (routeDescs r) poison (s, none)))
    let overs := (r.dropped.filter (0 < ·)).length
    let drops := r.dropped.sum
    (match w.2 with
      | some f => reportTable f w.1
      | none => w.1,
     ranResult w.2 poison (decide (0 < drops + r.bad)) (dIf (decide (0 < drops + r.bad)) (dfOp 40)) drops
      (allDropped (wd p 4) (gK p) (wd p 5) picks inv) (overs + 2 ^ 16 * min 0xFFFF r.bad) (totalRows r))

def execGsxRoute (p : Packet) (s : State) : Host.Outcome State Fault Refusal :=
  .next (met s (takeUp 0x0603 (runTracked sGSX (fun _ => true) routeChecks routeEffect) p s))

/-! ## RNK.TOPK (R184 to R186) -/

/-- The first k entries of a row's valid ones in rank order: index and value. -/
def topk (largest : Bool) (k : Nat) (vs : List FV) : List (Nat × FV) :=
  let ins := fun (l : List (Nat × FV)) (x : Nat × FV) =>
    ((l.filter fun y => ranksBefore largest y x) ++ x :: (l.filter fun y => !ranksBefore largest y x)).take k
  ((List.range vs.length).zip vs).foldl ins []

/-- A row's k output slots: unused ones hold index 0xFFFF_FFFF and NaN (R185). -/
def topkSlots (k : Nat) (l : List (Nat × FV)) : List (Nat × FV) := l ++ List.replicate (k - l.length) (noRow, FV.nan)

def rkK (p : Packet) : Nat := pf p 6 8 0
def rkSlot (p : Packet) : Option Nat := if pb p 6 11 then some (pf p 6 23 12) else none

/-- The descriptor of the value array: unscaled, in the format of X. -/
def plainDesc (fmt addr : Nat) : Desc :=
  { present := true, layout := false, grant := false, wmode := 0, width8 := false, col := false, block := 0, fmt := fmt, aux := 0
    addr := addr, scale := 0, raw := [] }

def topkChecks (s : State) (p : Packet) : Checks :=
  let r := wd p 4
  let c := wd p 5
  let k := rkK p
  let x := descAt p 8
  { noChecks with
    param := badIf (r = 0 || decide (2 ^ 24 < r)) 4 ++ badIf (c = 0 || decide (2 ^ 24 < c)) 5 ++ resv p 6 0xFFFFFF
      ++ badIf (k = 0 || decide (256 < k)) 6 ++ slotBad s p 6 (pb p 6 11) (pf p 6 23 12) ++ zeroWords p [7]
      ++ descBad (envHN s p) (posIn [fmtB32, fmtBF16, fmtB16]) 8 r c x
      ++ vaRange p 14 (4 * r * k) ++ vaRange p 16 (r * rowBytes x.fmt k)
      ++ (if pb p 6 10 then vaRange p 18 (4 * r) else zeroWords p [18, 19])
    degraded := gsxDegraded s }

/-- Index words and value row of one ranked row. -/
structure Ranked where
  idx : List Nat
  vals : List FV
  short : Bool
  nans : Nat
  poison : Bool
  deriving DecidableEq, Repr

/-- Rank a row of which the first n entries are valid. -/
def rankRow (largest : Bool) (k n : Nat) (lenPoison : Bool) (row : List PEl) : Ranked :=
  let valid := row.take n
  let t := topk largest k (valid.map Prod.fst)
  let out := topkSlots k t
  { idx := out.map Prod.fst, vals := out.map Prod.snd, short := decide (n < k), nans := (t.filter fun x => x.2.isNan).length
    poison := lenPoison || rowPoison row }

/-- Write ranked rows: the index array, then the value array (R184). -/
def writeRanked (v : Env) (idxVa : Nat) (vals : Desc) (k : Nat) (slot : Option Nat) (rows : List (Nat × Ranked)) (s : State) : State × WOut :=
  let a := rows.foldl (fun (acc : State × Option AFault) x => putWords v (idxVa + 4 * k * x.1) x.2.idx x.2.poison acc) (s, none)
  match a.2 with
  | some f => (a.1, { noOut with fault := some f })
  | none => writeRows v vals k slot (rows.map fun x => (x.1, x.2.vals.map fun y => (y, x.2.poison))) a.1

def topkEffect (p : Packet) (s : State) : State × Result :=
  let v := envHN s p
  let r := wd p 4
  let c := wd p 5
  let x := descAt p 8
  match readT s v x r c, (if pb p 6 10 then wordsAt s v false (dw p 18) r else .ok (List.replicate r (c, false))) with
  | .ok rows, .ok lens =>
    let s := detectT v x r c s
    let ranked := List.zipWith (fun (l : Nat × Bool) (row : List PEl) => rankRow (!pb p 6 9) (rkK p) (min c l.1) l.2 row) lens rows
    let w := writeRanked v (dw p 14) (plainDesc x.fmt (dw p 16)) (rkK p) (rkSlot p) (numbered ranked) s
    let short := (ranked.filter Ranked.short).length
    let nans := (ranked.map Ranked.nans).sum
    let bad := (ranked.filter Ranked.poison).length
    (afterWrite w, ranResult w.2.fault (decide (0 < bad)) (decide (0 < short + nans)) (dIf (decide (0 < short)) (dfOp 45)) short nans bad 0)
  | .error f, _ => faulted f s
  | _, .error f => faulted f s

def execRnkTopk (p : Packet) (s : State) : Host.Outcome State Fault Refusal :=
  .next (met s (takeUp 0x0610 (runTracked sGSX (fun _ => true) topkChecks topkEffect) p s))

end Sys2Proof.Machine
end

