-- ==== Sys2Proof/Machine/ArrayOps.lean ====
section
/-! DEFINITION. Array operations up to their start: their checks, ARR.MMA, ARR.MMA_PACKED, ARR.DIST, ACC.SAVE, ACC.RESUME, ARR.SELFTEST, batching and the schedule (R77 to R81, R116, R119, R125, R133, R153, R158, R159, R169 to R179, R367 to R369). -/

namespace Sys2Proof.Machine

/-! ## Sizes -/

/-- Rows and columns of the stored operands (R361); of a sparse b as logical positions (R98). -/
def aDims (p : AProb) (k : Nat) : Nat × Nat := if p.a.layout then (k, p.m) else (p.m, k)
def bDims (p : AProb) (k : Nat) : Nat × Nat := if p.b.layout then (k, p.n) else (p.n, k)
def bStored (o : AOp) (p : AProb) : Nat × Nat :=
  let k := if o.sparse then o.k / 2 else o.k
  if p.b.layout then (k, p.n) else (p.n, k)

/-- Rows and columns of the output: of a ranked ARR.DIST the values that each row keeps (R187, R367). -/
def outDims (o : AOp) (p : AProb) : Nat × Nat := (p.m, if o.ranked then o.topk else p.n)

/-- Bytes of the sparsity metadata (R126): 4-bit rows start on a byte boundary (R88). -/
def metaBytes (path : ArrPath) (k n : Nat) : Nat :=
  let groups := k / sparseG path
  match path with
  | .bf16 => ceilDiv (groups * n) 8
  | .fp8 => groups * ceilDiv n 2
  | _ => groups * n

/-- Entries of a CODE table for one column (R113). -/
def tableLen (fmt : Nat) : Nat := if fmt = fmtC2 then 4 else 16

/-- Bytes of the array at AUX_OFF: zero points by block, or tables by column. R113 names tables per K block, for a CODE operand with block scales; R97 and R113 itself reject such an operand, so there is one K block (DESIGN CHOICE, log 141). -/
def auxBytes (o : AOp) (p : AProb) : Nat :=
  if p.b.fmt = fmtU4 then scaleEntries p.b (bDims p o.k).1 (bDims p o.k).2
  else if p.b.fmt = fmtC2 ∨ p.b.fmt = fmtC4 then p.n * tableLen p.b.fmt * (fmtBits p.a.fmt / 8)
  else 0

/-- Scratchpad ranges that a problem names, with the word each is named by (R119, R204): words given by the layout. -/
structure ProbWords where
  a : Nat
  b : Nat
  out : Nat
  meta_ : Nat
  zmap : Nat
  bias : Nat
  rscale : Nat
  cscale : Nat
  deriving DecidableEq, Repr

def grantRanges (o : AOp) (p : AProb) (w : ProbWords) : List (Nat × Nat × Nat) :=
  let tensor := fun (d : Desc) (w rows cols srows scols : Nat) =>
    if d.grant then
      [(w + 2, d.addr, srows * rowBytes d.fmt scols)]
        ++ (if d.block = 0 then [] else [(w + 4, d.scale, scaleEntries d rows cols * scaleSize d)])
    else []
  tensor p.a w.a (aDims p o.k).1 (aDims p o.k).2 (aDims p o.k).1 (aDims p o.k).2
    ++ tensor p.b w.b (bDims p o.k).1 (bDims p o.k).2 (bStored o p).1 (bStored o p).2
    ++ (if o.kind = .save then [] else tensor p.out w.out p.m (outDims o p).2 p.m (outDims o p).2)
    ++ (if tabled p.b.fmt then [(w.b + 1, p.b.aux, auxBytes o p)] else [])
    ++ (if o.sparse then [(w.meta_, p.metaOff, metaBytes o.path o.k p.n)] else [])
    ++ (match p.zmap with
        | some z => [(w.zmap, z, zmapBytes p.m o.k)]
        | none => [])
    ++ (if o.start = startBIAS then [(w.bias, p.bias, 4 * p.n)] else [])
    ++ (match p.rscale with
        | some z => [(w.rscale, z, 4 * p.m)]
        | none => [])
    ++ (match p.cscale with
        | some z => [(w.cscale, z, 4 * p.n)]
        | none => [])

/-! ## Checks -/

/-- Formats of the array's operands, and of its outputs by path (R84, R116). -/
def aFmts : List Nat := [fmtBF16, fmtE4M3, fmtE5M2, fmtE2M1, fmtI8, fmtI4]
def bFmts : List Nat := aFmts ++ [fmtU4, fmtC2, fmtC4]

def outFmts (o : AOp) (p : AProb) : List Nat :=
  if o.kind = .dist then [fmtB32, fmtBF16, fmtB16]
  else
    let plain := [fmtB32, fmtB16, fmtBF16, fmtE4M3, fmtE5M2, fmtE2M1]
    let scaledOut := p.rscale.isSome || p.cscale.isSome
    -- with scale vectors the INT8 path writes floating-point or block-scaled formats (R110)
    if o.path = .int8 then (if scaledOut then plain ++ (if p.out.block = 0 then [] else [fmtI8, fmtI4]) else plain ++ [fmtI8, fmtI4, fmtI32])
    else plain ++ [fmtI8, fmtI4]

def posOperand (fmts : List Nat) : Pos := { fmts := fmts, out := false, array := true, jitCol := true }
def posDrain (fmts : List Nat) : Pos := { fmts := fmts, out := true, array := false, jitCol := false }

/-- Words that offend in a problem's descriptors and grant ranges; a sparse b is stored at half its length (R126). -/
def probBad (o : AOp) (p : AProb) (w : ProbWords) : List Nat :=
  descBad p.env (posOperand aFmts) w.a (aDims p o.k).1 (aDims p o.k).2 p.a
    ++ descBadAs p.env (posOperand bFmts) w.b (bDims p o.k).1 (bDims p o.k).2 (bStored o p).1 (bStored o p).2 p.b
    ++ (if o.kind = .save then [] else descBad p.env (posDrain (outFmts o p)) w.out p.m (outDims o p).2 p.out)
    ++ badIf (o.kind == .dist && p.out.block != 0) w.out
    ++ badIf (pathOf p.a p.b).isNone w.a
    ++ badIf (o.sparse && (o.path == .int8 || o.kind == .dist || [fmtI4, fmtU4, fmtC2, fmtC4].contains p.b.fmt)) w.b
    ++ badIf (!o.sparse && p.metaOff != 0) w.meta_ ++ badIf (o.start != startBIAS && p.bias != 0) w.bias
    ++ ((grantRanges o p w).filter fun r => !inGrant p.env.x r.2.1 r.2.2).map fun r => r.1

/-- The staging region (R119, R367): required or 0; aligned, in the grant, clear of every other range the operation names. -/
def stageBad (o : AOp) (v : Env) (word off : Nat) (ranges : List (Nat × Nat × Nat)) : List Nat :=
  match o.stage with
  | some z => badIf (z % 128 != 0 || !inGrant v.x z stageBytes || ranges.any fun r => overlap z stageBytes r.2.1 r.2.2) word
  | none => badIf (off != 0) word

/-- Settings of the control word (R158, R159). -/
def controlBad (o : AOp) (word lf sf : Nat) (starts : List Nat) : List Nat :=
  badIf (!([0, 3, 4, 5, 6, 7, 8].contains lf)) word
    ++ badIf (!(sf == 0 || (decide (12 ≤ sf) && decide (sf ≤ 20)))) word
    ++ badIf (o.path == .int8 && decide (17 ≤ sf)) word
    ++ badIf (o.path == .fp4 && o.sparse && sf == 12) word
    ++ badIf (!starts.contains o.start) word

def plainWords : ProbWords := { a := 16, b := 22, out := 28, meta_ := 9, zmap := 10, bias := 11, rscale := 12, cscale := 13 }

/-- Offending words of MMA, DIST, SAVE and RESUME, apart from a state header. -/
def plainBad (s : State) (o : AOp) (p : Packet) : List Nat :=
  match o.probs with
  | [] => [0]
  | q :: _ =>
    let starts := match o.kind with
      | .save => [startZERO, startBIAS, startSTATE]
      | .resume => [startSTATE]
      | _ => [startZERO, startBIAS]
    badIf (q.m = 0 || decide (2 ^ 24 < q.m)) 4 ++ badIf (q.n = 0 || decide (2 ^ 24 < q.n)) 5 ++ badIf (o.k = 0) 6
      ++ badIf (o.sparse && o.k % sparseG o.path != 0) 6
      ++ controlBad o 7 (pf p 7 3 0) (pf p 7 8 4) starts
      ++ badIf (o.kind != .dist && (pb p 7 31 || o.mode != 0)) 7 ++ badIf (decide (3 < o.mode)) 7
      ++ slotBad s p 7 (pb p 7 15) (pf p 7 27 16)
      ++ badIf (o.kind == .save && (pb p 7 13 || pb p 7 14 || pb p 7 15)) 7
      ++ badIf (o.kind == .dist && (pb p 7 12 || pb p 7 13 || pb p 7 14)) 7
      ++ badIf (o.kind == .dist && (o.r106 || o.path == .fp4 || o.path == .int8)) 16
      ++ badIf (o.kind == .dist && (q.b.fmt == fmtI4 || q.b.fmt == fmtU4)) 22
      ++ probBad o q plainWords
      ++ badIf (!pb p 7 12 && wd p 10 != 0) 10 ++ badIf (!pb p 7 13 && wd p 12 != 0) 12 ++ badIf (!pb p 7 14 && wd p 13 != 0) 13
      ++ (if o.start = startSTATE then badIf (o.stateVa % 64 != 0) 14 ++ vaRange p 14 (64 + 8 * q.m * q.n) else zeroWords p [14, 15])
      ++ (if o.kind = .save then badIf (wd p 28 != 0x0002000B) 28 ++ zeroWords p [29, 32, 33] ++ badIf (dw p 30 % 64 != 0) 30
            ++ vaRange p 30 (64 + 8 * q.m * q.n) else [])
      ++ stageBad o q.env 8 (wd p 8) (grantRanges o q plainWords)
      ++ (if o.kind = .dist then
            (if o.ranked then resv p 34 0x3FF ++ badIf (o.topk = 0 || decide (256 < o.topk)) 34 ++ vaRange p 35 (4 * q.m * o.topk)
             else zeroWords p [34, 35, 36]) ++ zeroWords p [37, 38, 39]
          else zeroWords p [34, 35])

/-! ## Access to tier H alone: state areas (R174) -/

/-- The first fault of a state area's range: its pages translate to tier H and to nothing else. -/
def stateFault (s : State) (v : Env) (va n : Nat) (write : Bool) : Option AFault :=
  (pieces va n).findSome? fun q =>
    match translateFor s v.reach v.c q.1 write with
    | .error f => some f
    | .ok l =>
      if region l.addr != .tierH then some { status := stFLT_ACCESS, cause := causeHOLE, va := q.1, table := none }
      else if backedRange s l.addr q.2 then none else some (unbackedFault q.1)

def stateRead (s : State) (v : Env) (va n : Nat) : Except AFault (List PByte) :=
  match stateFault s v va n false with
  | some f => .error f
  | none => vaRead s v.reach v.c va n

def stateWrite (v : Env) (va : Nat) (bs : List PByte) (s : State) : State × Option AFault :=
  match stateFault s v va bs.length true with
  | some f => (s, some f)
  | none => vaWrite v.reach v.c va bs s

/-- L_LOG2 as a header holds it: 0 on the INT8 path (R174). -/
def headerL (o : AOp) : Nat := if o.path = .int8 then 0 else o.lLog

/-- The first word of a state header that does not match the operation, as CNT0 (R174, R175). -/
def headerMismatch (o : AOp) (m n : Nat) (h : List Byte) : List Nat :=
  let w := fun (off : Nat) => leAt off 4 h
  let fl := leAt 3 1 h
  let first := leAt 0 1 h != o.path.no || leAt 1 1 h != headerL o || leAt 2 1 h != o.sLog || decide (3 < fl) || bit fl 1 != o.sparse
  badIf first 0x80000000 ++ badIf (w 4 != m) 0x80000004 ++ badIf (w 8 != n) 0x80000008
    ++ ([12, 24, 28, 32, 36, 40, 44, 48, 52, 56, 60].filter fun off => w off != 0).map (· + 0x80000000)

/-! ## Offering an operation to the array -/

/-- Conditions that degrade an array operation (R138, R168, R187, R400). -/
def arrDegraded (s : State) (o : AOp) : List Nat :=
  badIf (!levelC s || !hasShape s || (o.needsArea && outOfUse s sSPILL) || (o.ranked && outOfUse s sGSX)) 0

/-- Is a new split of the spill store waiting to be applied (R170)? -/
def splitPending (s : State) : Bool := s.arr.splitReq != s.arr.splitApplied

/-- The array partition in force does not hold the working area (R169, R170). -/
def areaShort (s : State) (o : AOp) : Bool := o.needsArea && decide (2 ^ 20 * s.arr.splitApplied.toNat < 589824)

/-- Word 0, where the array partition does not hold the working area; while a new split is pending, the operation is judged as it starts (R171). -/
def arrResource (s : State) (o : AOp) : List Nat := badIf (areaShort s o && !splitPending s) 0

def addReady (uid : Nat) (s : State) : State := { s with arr := { s.arr with ready := s.arr.ready ++ [uid] } }

/-- Regions of the output tensor: location kind, first byte, length; data and scales. -/
def outRegions (p : AProb) : List (Bool × Nat × Nat) :=
  [(p.out.grant, p.out.addr, p.m * rowBytes p.out.fmt p.n), (p.out.grant, p.out.scale, scaleEntries p.out p.m p.n * scaleSize p.out)]

def regionsMeet (a b : List (Bool × Nat × Nat)) : Bool := a.any fun x => b.any fun y => x.1 == y.1 && overlap x.2.1 x.2.2 y.2.1 y.2.2

/-- May two packets share a batch (R79)? The starting kind is among the accumulation settings. -/
def batchKey (o : AOp) : List Nat :=
  match o.probs with
  | [] => []
  | q :: _ => [q.env.c, o.k, q.n, q.a.fmt, q.a.block, o.lLog, o.sLog, o.start, bnat o.sparse, q.metaOff, q.b.aux] ++ q.b.raw

def sameBatch (a b : AOp) : Bool :=
  batchKey a == batchKey b && !(a.probs.any fun x => b.probs.any fun y => regionsMeet (outRegions x) (outRegions y))

/-- Rows of an operation's first problem. -/
def rowsOf (o : AOp) : Nat := ((o.probs.head?).map AProb.m).getD 0

/-- Packets of the same queue that came earlier and still wait for the array, outside the named ones: they start first (R66). -/
def waitsBehind (s : State) (j : Job) (with' : List Nat) : Bool :=
  isQueueIssue j.pkt && s.jobs.any fun k =>
    decide (k.uid < j.uid) && k.pkt.issuer == j.pkt.issuer && awaitsArray s k && !with'.contains k.uid

/-- Can the packet join the batch? Not ahead of an earlier array packet of its own queue (R66, log 127). -/
def fits (s : State) (j : Job) (b : Batch) : Bool :=
  decide (b.rows + rowsOf (jobOp j) ≤ 192) && !waitsBehind s j b.members
    && b.members.all fun u => (jobOf s u).any fun k => k.settings == j.settings && sameBatch (jobOp k) (jobOp j)

/-- BATCH_WAIT of the packet's queue, in µs. -/
def batchWaitOf (s : State) (j : Job) : Nat := ((fromQueue j.pkt.issuer).bind fun g => (queueOf s g).map Queue.batchWait).getD 0

/-- An eligible packet joins the oldest batch with its key that has room, or opens one (R80). -/
def joinBatch (j : Job) (s : State) : State :=
  match s.arr.batches.find? (fits s j) with
  | some b =>
    let rows := b.rows + rowsOf (jobOp j)
    let b' : Batch := { b with members := b.members ++ [j.uid], rows := rows, ready := b.ready || rows == 192 }
    { s with arr := { s.arr with batches := s.arr.batches.map fun x => if x.id = b.id then b' else x } }
  | none =>
    let n := rowsOf (jobOp j)
    let b : Batch := { id := j.uid, ctx := j.ctx, members := [j.uid], rows := n, ready := n == 192 || batchWaitOf s j == 0 }
    { s with arr := { s.arr with batches := s.arr.batches ++ [b] } }

/-- An accepted operation waits for the array, or in a batch. -/
def offer (uid : Nat) (p : Packet) (records : List Byte) (s : State) : State :=
  let j := newJob s uid p (.array records)
  let s := addJob j s
  let s := if splitPending s && (jobOp j).needsArea then { s with arr := { s.arr with unjudged := s.arr.unjudged ++ [uid] } } else s
  if hasFlag p flBATCHABLE && decide (rowsOf (jobOp j) ≤ 192) then joinBatch j s else addReady uid s

/-- What rejects MMA, DIST, SAVE and RESUME before a state header is read. -/
def plainChecks (kind : ArrKind) (uid : Nat) (s : State) (p : Packet) : Checks :=
  let o := plainOp kind uid (envHN s p) p []
  { noChecks with param := plainBad s o p, degraded := arrDegraded s o, resource := arrResource s o }

/-- MMA, DIST, SAVE and RESUME: checked, the header of a STATE start read, and offered to the array. -/
def runPlain (kind : ArrKind) (uid : Nat) (p : Packet) (s : State) : State :=
  let v := envHN s p
  let o := plainOp kind uid v p []
  let bad := plainBad s o p
  let k := plainChecks kind uid s p
  if o.start != startSTATE || !bad.isEmpty then
    match verdict k with
    | some r => answerAtOnce uid p r s
    | none => offer uid p [] s
  else
    match stateRead s v o.stateVa 64 with
    | .error f => answerAtOnce uid p ((verdict k).getD (faulted f s).2) (reportTable f s)
    | .ok h =>
      let s := detectVa v.reach v.c o.stateVa 64 s
      let bytes := h.map Prod.fst
      if anyPoison h then answerAtOnce uid p { rej stREJ_PARAM 0x80000000 with detail := dfPOISON } s
      else
        match verdict { k with param := headerMismatch o (wd p 4) (wd p 5) bytes } with
        | some r => answerAtOnce uid p r s
        | none => offer uid p bytes s

def execArrMma (p : Packet) (s : State) : Host.Outcome State Fault Refusal := .next (met s (takeUp 0x0401 (runPlain .mma) p s))
def execArrDist (p : Packet) (s : State) : Host.Outcome State Fault Refusal := .next (met s (takeUp 0x0403 (runPlain .dist) p s))
def execAccSave (p : Packet) (s : State) : Host.Outcome State Fault Refusal := .next (met s (takeUp 0x0410 (runPlain .save) p s))
def execAccResume (p : Packet) (s : State) : Host.Outcome State Fault Refusal := .next (met s (takeUp 0x0411 (runPlain .resume) p s))

/-! ## ARR.MMA_PACKED (R133, R368) -/

/-- Words of problem record n, as CNT0 names them: byte offsets over 0x8000_0000 (R360); a word w here is a byte offset over 4. -/
def recWords : ProbWords := { a := 8, b := 14, out := 20, meta_ := 2, zmap := 3, bias := 4, rscale := 5, cscale := 6 }

def recOffset (n w : Nat) : Nat := 0x80000000 + 128 * n + 4 * w

/-- Offending fields of the records: each problem's own, then the sharing rules, which problem 1 breaks (R133). -/
def recordsBad (s : State) (o : AOp) (recs : List Byte) : List Nat :=
  let own := (numbered o.probs).flatMap fun (x : Nat × AProb) =>
    let q := x.2
    let f := recWord recs x.1 7
    (badIf (q.m = 0 || decide (96 < q.m)) 0 ++ badIf (q.n = 0 || decide (96 < q.n)) 1
      ++ probBad o q recWords
      ++ badIf (q.zmap.isNone && recWord recs x.1 3 != 0) 3 ++ badIf (q.rscale.isNone && recWord recs x.1 5 != 0) 5
      ++ badIf (q.cscale.isNone && recWord recs x.1 6 != 0) 6
      ++ badIf (decide (2 ^ 16 ≤ f)) 7
      ++ badIf (match q.slot with
          | some t => !slotBound s q.env.c t
          | none => decide (fld f 15 4 ≠ 0)) 7
      ++ ((List.range 6).filter fun i => recWord recs x.1 (26 + i) != 0).map (· + 26)).map (recOffset x.1)
  let share := match o.probs with
    | [x, y] =>
      let same := fun (d e : Desc) => d.fmt == e.fmt && d.block == e.block && d.width8 == e.width8 && d.col == e.col
      badIf (!same x.a y.a) (recOffset 1 8) ++ badIf (!same x.b y.b) (recOffset 1 14)
    | _ => []
  own ++ share

def packedBad (o : AOp) (p : Packet) (v : Env) (recs : List Byte) : List Nat :=
  badIf (o.k = 0) 4 ++ badIf (o.sparse && o.k % sparseG o.path != 0) 4 ++ resv p 5 0xFFF
    ++ controlBad o 5 (pf p 5 3 0) (pf p 5 8 4) [startZERO, startBIAS]
    ++ (if recs.isEmpty then [] else stageBad o v 6 (wd p 6) (o.probs.flatMap fun q => grantRanges o q recWords))
    ++ zeroWords p [7] ++ vaRange p 8 256 ++ badIf (dw p 8 % 128 != 0) 8 ++ zeroWords p [10, 11]

/-- The operation without its records, for the checks that come before they are read. -/
def blankPacked (uid : Nat) (v : Env) (p : Packet) : AOp := { packedOp uid v p [] with probs := [], path := .bf16, stage := none }

/-- What rejects ARR.MMA_PACKED once its records have been read. -/
def packedChecks (uid : Nat) (recs : List Byte) (s : State) (p : Packet) : Checks :=
  let v := envHN s p
  let o := packedOp uid v p recs
  { noChecks with param := packedBad o p v recs ++ recordsBad s o recs, degraded := arrDegraded s o, resource := arrResource s o }

def runPacked (uid : Nat) (p : Packet) (s : State) : State :=
  let v := envHN s p
  let o0 := blankPacked uid v p
  let k0 : Checks := { noChecks with param := packedBad o0 p v [], degraded := arrDegraded s o0, resource := arrResource s o0 }
  if !k0.param.isEmpty then answerAtOnce uid p ((verdict k0).getD okRes) s
  else
    match vaRead s v.reach v.c (dw p 8) 256 with
    | .error f => answerAtOnce uid p ((verdict k0).getD (faulted f s).2) (reportTable f s)
    | .ok bs =>
      let s := detectVa v.reach v.c (dw p 8) 256 s
      let recs := bs.map Prod.fst
      match verdict (packedChecks uid recs s p) with
      | some r => answerAtOnce uid p r s
      | none => if anyPoison bs then answerAtOnce uid p { resOf stFLT_POISON with detail := dfPOISON } s else offer uid p recs s

def execArrMmaPacked (p : Packet) (s : State) : Host.Outcome State Fault Refusal := .next (met s (takeUp 0x0402 runPacked p s))

/-! ## ARR.SELFTEST (R153) -/

def selftestChecks (s : State) (_ : Packet) : Checks := { noChecks with degraded := badIf (!levelC s || !hasShape s) 0 }

def runSelftest (uid : Nat) (p : Packet) (s : State) : State :=
  match verdict (selftestChecks s p) with
  | some r => answerAtOnce uid p r s
  | none => addReady uid (addJob (newJob s uid p (.array [])) s)

def execArrSelftest (p : Packet) (s : State) : Host.Outcome State Fault Refusal := .next (met s (takeUp 0x0404 runSelftest p s))

/-! ## Batches and the schedule (R78, R80) -/

/-- BATCH_DEADLINE: the batch becomes ready (R80). -/
def execBatchDeadline (batch : Nat) (s : State) : Host.Outcome State Fault Refusal :=
  .next { s with arr := { s.arr with batches := s.arr.batches.map fun b => if b.id = batch then { b with ready := true } else b } }

/-- An operation that could start: its packets in row order, context, queue (0 for the port), and when it arrived. -/
structure Candidate where
  uids : List Nat
  batch : Option Nat
  ctx : Nat
  queue : Nat
  needs : Bool
  deriving DecidableEq, Repr

def candidate (s : State) (uids : List Nat) (batch : Option Nat) : Option Candidate :=
  match uids.head?.bind (jobOf s) with
  | none => none
  | some j => some { uids := uids, batch := batch, ctx := j.ctx, queue := (fromQueue j.pkt.issuer).getD 0, needs := (jobOp j).needsArea && arrKindOf j.pkt.opcode.toNat != .selftest }

/-- Packets of one queue start in slot order (R66). -/
def inOrder (s : State) (c : Candidate) : Bool := (c.uids.filterMap (jobOf s)).all fun j => !waitsBehind s j c.uids

/-- Operations ready for the array, by arrival: single ones, and ready batches by their opening packet, none ahead of an earlier packet of a queue of its own (R66). Those that need a working area wait while a new split is pending (R171). -/
def candidates (s : State) : List Candidate :=
  let singles := s.arr.ready.filterMap fun u => candidate s [u] none
  let bs := (s.arr.batches.filter Batch.ready).filterMap fun b => candidate s b.members (some b.id)
  let all := (sortBy (fun c => c.uids.headD 0) (singles ++ bs)).filter (inOrder s)
  if splitPending s then all.filter fun c => !c.needs else all

/-- The next of some numbers after the last, in rising order and round again. -/
def nextAfter (last : Nat) (l : List Nat) : Option Nat :=
  match l.filter (last < ·) with
  | [] => l.min?
  | h => h.min?

/-- The context whose turn it is among those with an operation ready, a local step of a low-rank bucket among them (R78, R281). -/
def chooseCtx (s : State) : Option Nat :=
  let l := (candidates s).map Candidate.ctx ++ arraySteps s
  if l.contains 0 then some 0 else nextAfter s.arr.lastCtx l

/-- The operation the dispatcher chooses (R78). -/
def chooseOp (s : State) : Option Candidate :=
  let cs := candidates s
  match chooseCtx s with
  | none => none
  | some c =>
    let mine := cs.filter fun x => x.ctx == c
    match nextAfter (kvGetD c 0 s.arr.lastQueue) (mine.map Candidate.queue) with
    | none => none
    | some g => mine.find? fun x => x.queue == g

def noArrTally : ArrTally :=
  { invalidCols := 0, nonfinite := 0, saturated := 0, poisonSeen := false, checkSeen := false, metaInvalid := false, flagged := false, shortRows := 0
    stop := none, stopTile := 0, stopK := 0 }

/-- Does an array operation that has been taken hold a working area (R171)? -/
def areaHeld (s : State) : Bool := s.arr.run.any ArrRun.area || s.arr.next.any ArrRun.area

end Sys2Proof.Machine
end

