-- ==== Sys2Proof/Machine/ArrayFeed.lean ====
section
/-! DEFINITION. What the feeders deliver to a tile over one spill interval, and the cells and lanes it leaves (R106, R111 to R113, R119 to R135, R143, R154 to R159, R162). -/

namespace Sys2Proof.Machine

/-! ## Tiles (R121, R134, R135) -/

/-- A used line of a tile: logical position, problem, and row or column of that problem. -/
structure Line where
  pos : Nat
  prob : Nat
  idx : Nat
  deriving DecidableEq, Repr

structure Tile where
  rows : List Line
  cols : List Line
  deriving DecidableEq, Repr

/-- Strip t of lines laid end to end: those of the tile, and the problem each belongs to. -/
def stripLines (size t : Nat) (sizes : List Nat) : List Line :=
  (sizes.foldl (fun (acc : List Line × Nat × Nat) n =>
    let lo := max acc.2.1 (t * size)
    let hi := min (acc.2.1 + n) ((t + 1) * size)
    (acc.1 ++ (List.range (hi - lo)).map (fun i => { pos := lo + i - t * size, prob := acc.2.2, idx := lo + i - acc.2.1 }),
      acc.2.1 + n, acc.2.2 + 1)) ([], 0, 0)).1

/-- Lines of one problem from a logical position on. -/
def probLines (base p n : Nat) : List Line := (List.range n).map fun i => { pos := base + i, prob := p, idx := i }

def tilesAcross (o : AOp) (size : Nat) : Nat := ceilDiv ((o.probs.head?.map AProb.n).getD 0) (max size 1)

def tileCount (o : AOp) (size : Nat) : Nat :=
  if o.kind = .packed then (if size = 192 then 1 else 2)
  else ceilDiv ((o.probs.map AProb.m).sum) (max size 1) * tilesAcross o size

/-- The M-tile of a tile. -/
def mTile (o : AOp) (size t : Nat) : Nat := if o.kind = .packed then t else t / max (tilesAcross o size) 1

/-- Has the problem stopped in an earlier tile? Its rows are then unused (R81). -/
def gone (r : ArrRun) (p : Nat) : Bool := (r.tally[p]?).any fun t => t.stop.isSome && decide (t.stopTile < r.tile)

/-- The tile in the array. -/
def tileOf (o : AOp) (r : ArrRun) : Tile :=
  match o.kind, o.probs with
  | .packed, [x, y] =>
    if r.size = 192 then { rows := probLines 0 0 x.m ++ probLines 96 1 y.m, cols := probLines 0 0 x.n ++ probLines 96 1 y.n }
    else if r.tile = 0 then { rows := probLines 0 0 x.m, cols := probLines 0 0 x.n }
    else { rows := probLines 0 1 y.m, cols := probLines 0 1 y.n }
  | _, ps =>
    { rows := (stripLines r.size (mTile o r.size r.tile) (ps.map AProb.m)).filter fun l => !gone r l.prob
      cols := stripLines r.size (r.tile % max (tilesAcross o r.size) 1) [(ps.head?.map AProb.n).getD 0] }

def blankProb : AProb :=
  let d : Desc := descOf []
  let x : Ctx := { state := .free, gen := 0, bumped := false, pasid := none, poolBase := 0, poolSize := 0, firstBank := 0, nBanks := 0, trkQuota := 0, lateDrops := 0 }
  { uid := 0, env := { c := 0, x := x, reach := reachHN }, m := 0, n := 0, a := d, b := d, out := d, metaOff := 0, zmap := none, bias := 0, rscale := none
    cscale := none, slot := none }

def AOp.prob (o : AOp) (p : Nat) : AProb := o.probs.getD p blankProb

/-- Is the cell's result one that the drain keeps? An off-diagonal cell of a packed pair is discarded (R134). -/
def kept (o : AOp) (r c : Line) : Bool := o.kind != .packed || r.prob == c.prob

/-! ## Reading single elements (R88, R98) -/

/-- The stored bits of element c of row r of a tensor. -/
def rawRead (s : State) (v : Env) (d : Desc) (cols r c : Nat) : Except AFault (Nat × Bool) :=
  let w := fmtBits d.fmt
  let at_ := d.addr + r * rowBytes d.fmt cols + c * w / 8
  match locRead s v d.grant at_ (max 1 (w / 8)) with
  | .error f => .error f
  | .ok bs => .ok (rawAt w bs (if 8 ≤ w then 0 else c % (8 / w)))

/-- Entry of the scale array for an element. -/
def scaleIndex (d : Desc) (cols r c : Nat) : Nat :=
  let b := max 1 (blockLen d.block)
  if d.col then r / b * cols + c else r * ceilDiv cols b + c / b

/-- The scale byte of an element, as stored; of an unscaled tensor none. -/
def scaleRead (s : State) (v : Env) (d : Desc) (cols r c : Nat) : Except AFault (Option Nat × Bool) :=
  if d.block = 0 then .ok (none, false)
  else
    match locRead s v d.grant (d.scale + scaleIndex d cols r c * scaleSize d) (scaleSize d) with
    | .error f => .error f
    | .ok bs => .ok (some (leNat (bs.map Prod.fst) % 256), anyPoison bs)

/-- The byte at a grant offset. -/
def grantByte (s : State) (v : Env) (off : Nat) : Except AFault (Nat × Bool) :=
  match grantRead s v.x off 1 with
  | .error f => .error f
  | .ok bs => .ok ((bs.map fun b => b.1.toNat).headD 0, anyPoison bs)

/-- A decoded element from its bits and its scale byte (R105, R106). -/
def scaledValue (d : Desc) (b : Nat) (e : Option Nat) : FV :=
  match e with
  | none => elValue d.fmt b
  | some e => scaled d.fmt d.width8 b e

/-! ## The a operand (R116, R129, R130) -/

/-- Does row i's zero-map bit stop block bk? -/
def zmapBit (s : State) (p : AProb) (k i bk : Nat) : Except AFault (Bool × Bool) :=
  match p.zmap with
  | none => .ok (false, false)
  | some z =>
    match grantByte s p.env (z + i * zmapRowBytes k + bk / 8) with
    | .error f => .error f
    | .ok b => .ok (bit b.1 (bk % 8), b.2)

/-- Element (i, k) of a. A poisoned word of the zero map poisons what it decides. -/
def aRead (s : State) (o : AOp) (p : AProb) (i k : Nat) : Except AFault AEl :=
  match zmapBit s p o.k i (k / 8) with
  | .error f => .error f
  | .ok z =>
    if z.1 && !z.2 then .ok { skip := true, v := fv0, poison := false }
    else
      let r := if p.a.layout then k else i
      let c := if p.a.layout then i else k
      match rawRead s p.env p.a (aDims p o.k).2 r c, scaleRead s p.env p.a (aDims p o.k).2 r c with
      | .ok b, .ok e => .ok { skip := false, v := scaledValue p.a b.1 e.1, poison := b.2 || e.2 || z.2 }
      | .error f, _ => .error f
      | _, .error f => .error f

/-! ## The b operand (R111 to R113, R125 to R128) -/

/-- A group's metadata for one column: bits and poison. -/
def metaRead (s : State) (o : AOp) (p : AProb) (g n : Nat) : Except AFault (Nat × Bool) :=
  match o.path with
  | .bf16 => (grantByte s p.env (p.metaOff + (g * p.n + n) / 8)).map fun b => (b.1 / 2 ^ ((g * p.n + n) % 8) % 2, b.2)
  | .fp8 => (grantByte s p.env (p.metaOff + g * ceilDiv p.n 2 + n / 2)).map fun b => (b.1 / 16 ^ (n % 2) % 16, b.2)
  | _ => grantByte s p.env (p.metaOff + g * p.n + n)

/-- The kept positions that metadata names, ascending; none where it is invalid (R125, R128). -/
def keptOf (path : ArrPath) (m : Nat) : Option (List Nat) :=
  match path with
  | .bf16 => some [m % 2]
  | .fp8 => if m % 4 < m / 4 % 4 then some [m % 4, m / 4 % 4] else none
  | _ => let l := (List.range 8).filter fun i => bit m i
    if l.length = 4 then some l else none

/-- The value of stored b element, at its stored k and its logical k: scaled, from its zero point, or from its column's table. -/
def bValue (s : State) (o : AOp) (p : AProb) (ks k n : Nat) : Except AFault PEl :=
  let d := p.b
  let at_ := fun (k : Nat) => if d.layout then (k, n) else (n, k)
  match rawRead s p.env d (bStored o p).2 (at_ ks).1 (at_ ks).2, scaleRead s p.env d (bDims p o.k).2 (at_ k).1 (at_ k).2 with
  | .ok b, .ok e =>
    if d.fmt = fmtU4 then
      match grantByte s p.env (d.aux + scaleIndex d (bDims p o.k).2 (at_ k).1 (at_ k).2) with
      | .error f => .error f
      | .ok z =>
        .ok (match e.1 with
          | some 0xFF => .nan
          | some x => (fvOfInt ((b.1 : Int) - (z.1 % 16 : Nat))).scale ((x : Int) - 127)
          | none => fvOfInt ((b.1 : Int) - (z.1 % 16 : Nat)), b.2 || e.2 || z.2)
    else if tabled d.fmt then
      let w := fmtBits p.a.fmt / 8
      match grantRead s p.env.x (d.aux + (n * tableLen d.fmt + b.1) * w) w with
      | .error f => .error f
      | .ok t => .ok (elValue p.a.fmt (leNat (t.map Prod.fst)), b.2 || anyPoison t)
    else .ok (scaledValue d b.1 e.1, b.2 || e.2)
  | .error f, _ => .error f
  | _, .error f => .error f

/-- Element (k, n) of b. Metadata that is invalid or poisoned poisons every position of its group (R128). -/
def bRead (s : State) (o : AOp) (p : AProb) (n k : Nat) : Except AFault BEl :=
  if o.sparse then
    let g := sparseG o.path
    match metaRead s o p (k / g) n with
    | .error f => .error f
    | .ok m =>
      match (if m.2 then none else keptOf o.path m.1) with
      | none => .ok { kept := false, v := fv0, poison := true }
      | some ps =>
        if ps.contains (k % g) then
          match bValue s o p (k / g * (g / 2) + (ps.filter (· < k % g)).length) k n with
          | .error f => .error f
          | .ok v => .ok { kept := true, v := v.1, poison := v.2 }
        else .ok { kept := false, v := fv0, poison := false }
  else
    match bValue s o p k k n with
    | .error f => .error f
    | .ok v => .ok { kept := true, v := v.1, poison := v.2 }

/-! ## A whole interval -/

/-- A list read in order of k: once a fault is met, what follows is delivered poisoned. -/
def readLine {α : Type} (f : Nat → Except AFault α) (bad : α) (ks : List Nat) : List α × Option (Nat × AFault) :=
  ks.foldl (fun (acc : List α × Option (Nat × AFault)) k =>
    match acc.2 with
    | some _ => (acc.1 ++ [bad], acc.2)
    | none =>
      match f k with
      | .ok v => (acc.1 ++ [v], none)
      | .error e => (acc.1 ++ [bad], some (k, e))) ([], none)

def badA : AEl := { skip := false, v := fv0, poison := true }
def badB : BEl := { kept := true, v := fv0, poison := true }
def idleB : BEl := { kept := true, v := fv0, poison := false }

/-- What the feeders have delivered: a by row, b by column, the k-steps issued, each problem's first fault, and the problems whose metadata is invalid. -/
structure Feed where
  a : List (List AEl)
  b : List (List BEl)
  issued : List Bool
  faults : List (Nat × Nat × AFault)
  badMeta : List Nat
  deriving DecidableEq, Repr

/-- The end of the interval under way. -/
def intervalEnd (o : AOp) (r : ArrRun) : Nat := min (r.kPos + 2 ^ o.sLog) o.k

def intervalKs (o : AOp) (r : ArrRun) : List Nat := (List.range (intervalEnd o r - r.kPos)).map (· + r.kPos)

/-- Problems that a fault on a line of b concerns: the column's own in a packed pair, else those with rows in the tile (R81, R136). -/
def bOwners (o : AOp) (t : Tile) (c : Line) : List Nat :=
  if o.kind = .packed then [c.prob] else t.rows.foldl (fun l x => insNat x.prob l) []

/-- The first fault of each problem by k, an a row before a b column at the same step. -/
def firstFaults (o : AOp) (t : Tile) (fa fb : List (Option (Nat × AFault))) : List (Nat × Nat × AFault) :=
  let all := ((List.zip t.rows fa).flatMap fun (x : Line × Option (Nat × AFault)) => (x.2.map fun f => (x.1.prob, f.1, f.2)).toList)
    ++ (List.zip t.cols fb).flatMap fun (x : Line × Option (Nat × AFault)) =>
        (bOwners o t x.1).flatMap fun p => (x.2.map fun f => (p, f.1, f.2)).toList
  (List.range o.probs.length).filterMap fun p =>
    (sortBy (fun (f : Nat × Nat × AFault) => f.2.1) (all.filter fun f => f.1 == p)).head?

def invalidMeta (s : State) (o : AOp) (p : AProb) (n g : Nat) : Bool :=
  match metaRead s o p g n with
  | .ok m => !m.2 && (keptOf o.path m.1).isNone
  | .error _ => false

/-- Deliver the interval's k-steps to the tile. A problem already stopped delivers poison and reads nothing; a block that every used row skips is not issued (R131). -/
def feed (s : State) (o : AOp) (r : ArrRun) (t : Tile) : Feed :=
  let ks := intervalKs o r
  let dead := fun (p : Nat) => (r.tally[p]?).any fun t => t.stop.isSome
  let a := t.rows.map fun l => if dead l.prob then (ks.map fun _ => badA, none) else readLine (fun k => aRead s o (o.prob l.prob) l.idx k) badA ks
  let rows := a.map Prod.fst
  let issued := (List.range ks.length).map fun i => rows.any fun x => (x[i]?).any fun e => !e.skip
  let want := fun (k : Nat) => issued.getD (k - r.kPos) false
  let b := t.cols.map fun l =>
    if dead l.prob && o.kind == .packed then (ks.map fun _ => badB, none)
    else readLine (fun k => if want k then bRead s o (o.prob l.prob) l.idx k else .ok idleB) badB ks
  let badMeta := if !o.sparse then [] else t.cols.flatMap fun l =>
    if (ks.filter want).any fun k => invalidMeta s o (o.prob l.prob) l.idx (k / sparseG o.path) then bOwners o t l else []
  { a := rows, b := b.map Prod.fst, issued := issued, faults := firstFaults o t (a.map Prod.snd) (b.map Prod.snd), badMeta := badMeta }

/-- The operands of the interval have been read: damage in them is found (R407). What the zero map leaves out is not read (R130, R131). -/
def seeOperands (o : AOp) (t : Tile) (ks : List Nat) (f : Feed) (s : State) : State :=
  if s.mem.damaged.isEmpty then s
  else
    let one := fun (p : AProb) (d : Desc) (cols r c : Nat) (s : State) =>
      let s := locDetect p.env d.grant (d.addr + r * rowBytes d.fmt cols + c * fmtBits d.fmt / 8) (max 1 (fmtBits d.fmt / 8)) s
      if d.block = 0 then s else locDetect p.env d.grant (d.scale + scaleIndex d cols r c * scaleSize d) (scaleSize d) s
    let zmap := fun (p : AProb) (i k : Nat) (s : State) =>
      match p.zmap with
      | none => s
      | some z => locDetect p.env true (z + i * zmapRowBytes o.k + k / 64) 1 s
    let s := (List.zip t.rows f.a).foldl (fun s (x : Line × List AEl) => let p := o.prob x.1.prob
      (List.zip ks x.2).foldl (fun s (y : Nat × AEl) =>
        let s := zmap p x.1.idx y.1 s
        if y.2.skip then s else if p.a.layout then one p p.a p.m y.1 x.1.idx s else one p p.a o.k x.1.idx y.1 s) s) s
    let ks := ((List.zip ks f.issued).filter Prod.snd).map Prod.fst
    t.cols.foldl (fun s l => let p := o.prob l.prob
      ks.foldl (fun s k =>
        let k := if o.sparse then k / 2 else k
        if p.b.layout then one p p.b p.n k l.idx s else one p p.b (bStored o p).2 l.idx k s) s) s

/-! ## Starting values (R159, R162, R163, R173, R182) -/

/-- What a cell starts a tile with: total, spill entry or EMPTY, poison. -/
structure Start where
  total : FV
  spill : Option FV
  poison : Bool
  deriving DecidableEq, Repr

/-- The identity that totals start from: of a comparison mode its own (R180, R182). -/
def zeroTotal (o : AOp) : FV := identityOf o.arith.kind

def int8Op (o : AOp) : Bool := o.arith.kind == .int8

def plainStart (o : AOp) : Start := { total := zeroTotal o, spill := none, poison := false }

/-- The starting value of a kept cell. -/
def cellStart (s : State) (o : AOp) (r c : Line) : Except AFault Start :=
  let p := o.prob r.prob
  if o.start = startBIAS then
    match wordsAt s p.env true (p.bias + 4 * c.idx) 1 with
    | .error f => .error f
    | .ok ws =>
      let w := ws.headD (0, false)
      if int8Op o then .ok { total := fv0, spill := some (fvOfInt (intValue 32 w.1)), poison := w.2 }
      else .ok { total := fpValue fpB32 w.1, spill := none, poison := w.2 }
  else if o.start = startSTATE then
    match stateRead s p.env (o.stateVa + 64 + 8 * (r.idx * p.n + c.idx)) 8 with
    | .error f => .error f
    | .ok bs =>
      .ok { total := fv0, spill := some (entryValue (int8Op o) (BitVec.ofNat 64 (leNat (bs.map Prod.fst)))), poison := anyPoison bs }
  else .ok (plainStart o)

/-! ## Register sets (R115, R122, R123) -/

/-- A total register: binary32, or an int32 on the INT8 path. -/
def totalBits (o : AOp) (v : FV) : Word := if int8Op o then BitVec.ofInt 32 (fvToInt v) else toB32 v
def totalValue (o : AOp) (w : Word) : FV := if int8Op o then fvOfInt w.toInt else b32 w

/-- A cell's registers and entry at a boundary, where every run register holds the identity (R154). -/
def regOf (o : AOp) (x : Start) (sat : Bool) : CellReg :=
  { run := BitVec.ofNat 25 (fpBits fpE8M16 (identityOf o.arith.kind)), total := totalBits o x.total, poison := x.poison
    entry := x.spill.map (entryBits (int8Op o)), sat := sat }

/-- What a cell starts an interval with. -/
def startOf (o : AOp) (c : CellReg) : Start :=
  { total := totalValue o c.total, spill := c.entry.map (entryValue (int8Op o)), poison := c.poison }

/-- A tile's starting values, row by row, and each problem's first fault at the turnover. -/
def tileStart (s : State) (o : AOp) (r : ArrRun) (t : Tile) : List (List Start) × List (Nat × Nat × AFault) :=
  let cells := t.rows.map fun x => t.cols.map fun c =>
    if !kept o x c || (r.tally[x.prob]?).any (fun y => y.stop.isSome) then (.ok (plainStart o) : Except AFault Start) else cellStart s o x c
  let fs := (List.zip t.rows cells).flatMap fun (x : Line × List (Except AFault Start)) => x.2.filterMap fun e =>
    match e with
    | .error f => some (x.1.prob, 0, f)
    | .ok _ => none
  (cells.map fun l => l.map fun e => match e with
      | .ok v => v
      | .error _ => { plainStart o with poison := true },
   (List.range o.probs.length).filterMap fun p => fs.find? fun f => f.1 == p)

/-- Entries kept row by row over rows of w, as rows. -/
def asRows {α : Type} (w : Nat) (l : List α) (n : Nat) : List (List α) := (List.range n).map fun i => (l.drop (i * w)).take w

/-- What the interval starts from: the active set. -/
def intervalStart (o : AOp) (r : ArrRun) (t : Tile) : List (List Start) := asRows t.cols.length (r.active.map (startOf o)) t.rows.length

/-- The turnover loads the starting values of tile n into the shadow set; past the last tile it loads none. Answers the faults it meets (R77, R123). -/
def loadShadow (s : State) (o : AOp) (n : Nat) (r : ArrRun) : ArrRun × List (Nat × Nat × AFault) :=
  if tileCount o r.size ≤ n then ({ r with shadow := [] }, [])
  else
    let t := tileOf o { r with tile := n }
    let x := tileStart s o r t
    ({ r with shadow := List.zipWith (fun (l : Line) (cs : List Start) => (l.pos, cs.map fun c => regOf o c false)) t.rows x.1 }, x.2)

/-- The swap into tile n: the shadow set becomes the active one, for the rows still used, and nothing of the tile has been computed (R122). -/
def swapInto (o : AOp) (n : Nat) (r : ArrRun) : ArrRun :=
  let r : ArrRun := { r with tile := n, kPos := 0, starts := [], colSums := [], rowSums := [], badCols := [] }
  { r with active := (tileOf o r).rows.flatMap fun l => kvGetD l.pos [] r.shadow, shadow := [] }

/-! ## Cells and lanes after the interval -/

/-- A cell at the end of an interval, before its boundary action: what it started the interval from, and its registers. -/
structure CellNow where
  from_ : Start
  acc : Acc
  deriving DecidableEq, Repr

def cellsNow (o : AOp) (r : ArrRun) (f : Feed) (st : List (List Start)) : List (List CellNow) :=
  List.zipWith (fun (a : List AEl) (row : List Start) =>
    List.zipWith (fun (b : List BEl) (x : Start) =>
      let acc := accumulate o.arith r.kPos x.total (List.zip a b)
      ({ from_ := x, acc := { acc with poison := acc.poison || x.poison } } : CellNow)) f.b row) f.a st

/-- The fed sums of one k-step over the elements that compute: sum and magnitude (R143). -/
def fedStep (p : Nat) (vs : List FV) : FV × FV := (fedSum p vs, fedSum p (vs.map FV.abs))

/-- Fraction bits of an operand format that the lanes sum; narrow integers are delivered in the format of a (R111, R145). -/
def laneP (o : AOp) (ofB : Bool) : Nat :=
  let a := (o.prob 0).a.fmt
  let b := (o.prob 0).b.fmt
  let f := if ofB && [fmtBF16, fmtE4M3, fmtE5M2].contains b then b else a
  if f = fmtBF16 then 7 else if f = fmtE4M3 then 3 else 2

/-- A lane's two registers after the interval, and the k-steps its line computed: checksum total, magnitude total, count. -/
structure LaneNow where
  sum : FV
  mag : FV
  k : Nat
  deriving DecidableEq, Repr

def laneRun (o : AOp) (r : ArrRun) (sums mags : List (AEl × BEl)) : FV × FV :=
  ((accumulate { o.arith with kind := .mma } r.kPos fv0 sums).total, (accumulate { o.arith with kind := .mma } r.kPos fv0 mags).total)

/-- Column lanes: the fed sums of a over the rows that compute, against each column of b. Of a half-structured-sparse column, k counts every issued logical k-step, the positions its metadata leaves out included (DESIGN CHOICE, log 80: R145 does not say). -/
def colLanesNow (o : AOp) (r : ArrRun) (f : Feed) : List LaneNow :=
  let fed := (List.zip f.issued (transpose f.issued.length f.a)).map fun (x : Bool × List AEl) =>
    (x.1, fedStep (laneP o false) ((x.2.filter fun e => !e.skip).map AEl.v))
  let k := (f.issued.filter id).length
  f.b.map fun col =>
    let t := laneRun o r
      (List.zipWith (fun (x : Bool × FV × FV) (b : BEl) => (({ skip := !x.1, v := x.2.1, poison := false } : AEl), b)) fed col)
      (List.zipWith (fun (x : Bool × FV × FV) (b : BEl) => (({ skip := !x.1, v := x.2.2, poison := false } : AEl), { b with v := b.v.abs })) fed col)
    { sum := t.1, mag := t.2, k := k }

/-- Row lanes: each row of a against the fed sums of b over the columns. -/
def rowLanesNow (o : AOp) (r : ArrRun) (f : Feed) : List LaneNow :=
  let fed := (transpose f.issued.length f.b).map fun (x : List BEl) => fedStep (laneP o true) (x.map BEl.v)
  f.a.map fun row =>
    let one := fun (v : FV) => ({ kept := true, v := v, poison := false } : BEl)
    let t := laneRun o r
      (List.zipWith (fun (a : AEl) (x : FV × FV) => (a, one x.1)) row fed)
      (List.zipWith (fun (a : AEl) (x : FV × FV) => ({ a with v := a.v.abs }, one x.2)) row fed)
    { sum := t.1, mag := t.2, k := (row.filter fun e => !e.skip).length }

/-- Column lanes check the operation, and row lanes do (R142, R144, R147). -/
def colChecked (s : State) (r : ArrRun) : Bool := (r.coverage == 0 || r.coverage == 1) && s.arr.rowLanes.length == 2 && s.arr.rowLanes.all fun n => working s (sROW n)
def rowChecked (s : State) (r : ArrRun) : Bool := (r.coverage == 0 || r.coverage == 2) && s.arr.colLanes.length == 2 && s.arr.colLanes.all fun n => working s (sCOL n)

end Sys2Proof.Machine
end

