-- ==== Sys2Proof/Machine/ArrayCheck.lean ====
section
/-! DEFINITION. The whipping checks of a drained tile: what the drain reads, R524's injections, and the arbitration of failing lines (R142 to R149, R524). -/

namespace Sys2Proof.Machine

/-! ## The registers as the drain reads them -/

/-- A register that the drain reads: physical row and column, its total, and whether its cell is poisoned. -/
structure Reg where
  row : Nat
  col : Nat
  v : FV
  poison : Bool
  /-- It is a lane's register, not a cell's. -/
  lane : Bool
  deriving DecidableEq, Repr

def physRow (s : State) (l : Line) : Nat := s.arr.rowMap.getD l.pos 0
def physCol (s : State) (l : Line) : Nat := s.arr.colMap.getD l.pos 0

/-- Registers of a pair of lanes over lines: the checksum lane's, then the magnitude lane's. -/
def laneRegs (at_ : Nat → Line → Nat × Nat) (lanes : List Nat) (ls : List Line) (vs : List LaneNow) : List Reg :=
  (List.zip ls vs).map (fun (x : Line × LaneNow) => { row := (at_ (lanes.getD 0 0) x.1).1, col := (at_ (lanes.getD 0 0) x.1).2, v := x.2.sum, poison := false, lane := true })
    ++ (List.zip ls vs).map (fun (x : Line × LaneNow) => { row := (at_ (lanes.getD 1 0) x.1).1, col := (at_ (lanes.getD 1 0) x.1).2, v := x.2.mag, poison := false, lane := true })

/-- Every register of the tile: its cells row by row, then its column lanes and its row lanes. -/
def tileRegs (s : State) (t : Tile) (cells : List (List CellNow)) (cl rl : List LaneNow) : List Reg :=
  ((List.zip t.rows cells).flatMap fun (x : Line × List CellNow) => (List.zip t.cols x.2).map fun (y : Line × CellNow) =>
    ({ row := physRow s x.1, col := physCol s y.1, v := y.2.acc.total, poison := y.2.acc.poison, lane := false } : Reg))
    ++ laneRegs (fun n l => (n, physCol s l)) s.arr.rowLanes t.cols cl
    ++ laneRegs (fun n l => (physRow s l, n)) s.arr.colLanes t.rows rl

/-- A total whose binary32 exponent field is raised by 1; none at 0xFE and 0xFF (R524). -/
def bumped (v : FV) : Option FV :=
  let b := (toB32 v).toNat
  let e := b / 2 ^ 23 % 256
  if e = 0xFE ∨ e = 0xFF then none else some (fpValue fpB32 (b + 2 ^ 23))

/-- The register that an injection on a line alters: of a line of the map its first used cell that can be, of a lane its value for the first line it checks (R524). -/
def injectedReg (regs : List Reg) (on : Reg → Bool) : Option (Nat × Nat × FV) :=
  regs.findSome? fun g => if on g && !g.poison then (bumped g.v).map fun v => (g.row, g.col, v) else none

/-- Is the physical row checked in the tile (R524): a used row with row lanes, or a column lane? -/
def rowIsChecked (s : State) (r : ArrRun) (t : Tile) (n : Nat) : Bool :=
  (rowChecked s r && t.rows.any fun l => physRow s l == n) || (colChecked s r && s.arr.rowLanes.contains n)

def colIsChecked (s : State) (r : ArrRun) (t : Tile) (n : Nat) : Bool :=
  (colChecked s r && t.cols.any fun l => physCol s l == n) || (rowChecked s r && s.arr.colLanes.contains n)

/-- R524's injections that fire at this drain: the armed sources, and the registers they alter. -/
def injections (s : State) (r : ArrRun) (t : Tile) (regs : List Reg) : List ((Nat × Nat) × (Nat × Nat × FV)) :=
  s.str.armed.filterMap fun a =>
    match strandOf a.1 with
    | some [0, 0, 0, n] => if a.2 == 0 && rowIsChecked s r t n then (injectedReg regs fun g => g.row == n && g.lane == s.arr.rowLanes.contains n).map fun x => (a, x) else none
    | some [0, 0, 1, n] => if a.2 == 0 && colIsChecked s r t n then (injectedReg regs fun g => g.col == n && g.lane == s.arr.colLanes.contains n).map fun x => (a, x) else none
    | _ => none

/-- What a register reads as, under the alterations. -/
def readReg (ov : List (Nat × Nat × FV)) (row col : Nat) (v : FV) : FV :=
  ((ov.find? fun x => x.1 == row && x.2.1 == col).map fun x => x.2.2).getD v

/-- Totals that the physical world altered, as values. -/
def upsetValues (int8 : Bool) (us : List CellUpset) : List (Nat × Nat × FV) :=
  us.map fun u => (u.row, u.col, if int8 then fvOfInt u.total.toInt else b32 u.total)

/-! ## The checks (R145) -/

/-- A drained cell: d, its starting value, its poison, and whether sat64 held it. -/
structure Drained where
  d : FV
  start : FV
  poison : Bool
  sat : Bool
  deriving DecidableEq, Repr

/-- A lane pair at the drain: checksum, magnitude, k-steps. -/
structure LaneVal where
  w : FV
  m : FV
  k : Nat
  deriving DecidableEq, Repr

/-- A line's check: not checked, or whether it fails. -/
def lineCheck (p l : Nat) (cells : List Drained) (v : LaneVal) : Option Bool :=
  if cells.any (fun c => c.poison || !c.d.isFin) || !v.w.isFin || !v.m.isFin then none
  else
    let sum := cells.foldl (fun (a : FV) c => rne64 (a.add (rne64 (c.d.sub c.start)))) fv0
    some ((whipTol p l v.m v.k).lt (rne64 (sum.sub v.w)).abs)

/-- Does the magnitude lane give itself away on a failing line (R146)? -/
def magBad (p l : Nat) (v : LaneVal) : Bool :=
  !v.m.isFin || v.m.lt fv0 || v.m.lt (rne64 (v.w.abs.sub (whipTol p l v.m v.k)))

/-- What the arbitration of a tile comes to: physical rows and columns to fence, whether the tile is poisoned, and of a packed pair which problems that touches. -/
structure Verdict where
  rows : List Nat
  cols : List Nat
  failed : Bool
  poisoned : Bool
  /-- Problems poisoned of a packed pair. -/
  probs : List Nat
  deriving DecidableEq, Repr

def noVerdict : Verdict := { rows := [], cols := [], failed := false, poisoned := false, probs := [] }

/-- Lines that fail. -/
def failing (ls : List Line) (cs : List (Option Bool)) : List Line :=
  (List.zip ls cs).filterMap fun (x : Line × Option Bool) => if x.2 = some true then some x.1 else none

/-- The table Whipping arbitration (R146, R148, R149). -/
def arbitrate (s : State) (o : AOp) (t : Tile) (cc rc : List (Option Bool)) (cl rl : List LaneVal) : Verdict :=
  let fc := failing t.cols cc
  let fr := failing t.rows rc
  let colsOk := !cc.isEmpty && cc.all Option.isSome
  let rowsOk := !rc.isEmpty && rc.all Option.isSome
  let rowsV := fun (l : List Line) => ({ rows := l.map (physRow s), cols := [], failed := true, poisoned := true, probs := l.map Line.prob } : Verdict)
  let colsV := fun (l : List Line) => ({ rows := [], cols := l.map (physCol s), failed := true, poisoned := true, probs := l.map Line.prob } : Verdict)
  let lane := fun (lanes : List Nat) (ls : List Line) (cs : List (Option Bool)) (vs : List LaneVal) (p : Nat) =>
    let bad := (List.zip cs vs).any fun (x : Option Bool × LaneVal) => x.1 == some true && magBad p o.arith.l x.2
    if ls.isEmpty then [] else [lanes.getD (if bad then 1 else 0) 0]
  match fc, fr with
  | [], [] => noVerdict
  | _ :: _, [] =>
    if rowsOk then { noVerdict with rows := lane s.arr.rowLanes fc cc cl (laneP o false), failed := true } else colsV fc
  | [], _ :: _ =>
    if colsOk then { noVerdict with cols := lane s.arr.colLanes fr rc rl (laneP o true), failed := true } else rowsV fr
  | [j], [i] =>
    let v := if freeSpareCols s ≤ freeSpareRows s then rowsV [i] else colsV [j]
    if kept o i j then v else { v with poisoned := false, probs := [] }
  | [j], _ => colsV [j]
  | _, [i] => rowsV [i]
  | _, _ => if fr.length ≤ fc.length then rowsV fr else colsV fc

/-- The checks of a tile from its drained cells and lanes. -/
def tileVerdict (s : State) (o : AOp) (r : ArrRun) (t : Tile) (cells : List (List Drained)) (cl rl : List LaneVal) : Verdict :=
  let cc := if colChecked s r then List.zipWith (fun (col : List Drained) v => lineCheck (laneP o false) o.arith.l col v) (transpose t.cols.length cells) cl else []
  let rc := if rowChecked s r then List.zipWith (fun (row : List Drained) v => lineCheck (laneP o true) o.arith.l row v) cells rl else []
  arbitrate s o t cc rc cl rl

end Sys2Proof.Machine
end

