-- ==== Sys2Proof/Machine/ArrayStart.lean ====
section
/-! DEFINITION. ARRAY_SCHEDULE: the operation the array takes, the register sets at its swaps, the operation that follows it, and the self-test (R77, R78, R122 to R124, R140, R153, R171). -/

namespace Sys2Proof.Machine

def updTally (p : Nat) (f : ArrTally → ArrTally) (r : ArrRun) : ArrRun := { r with tally := setAt p f r.tally }

/-- A fault as the result it leaves in a reply; one without a cause names no address (R47, R249). -/
def faultRes (f : AFault) : Result := if f.cause = 0 then resOf f.status else f.res

/-- Faults at their k-steps stop the problems they belong to in the tile under way, unless one has stopped already (R57, R77, R81, R136). -/
def stopProblems (fs : List (Nat × Nat × AFault)) (r : ArrRun) : ArrRun :=
  fs.foldl (fun r f => updTally f.1 (fun t => if t.stop.isSome then t else { t with stop := some (faultRes f.2.2), stopTile := r.tile, stopK := f.2.1 }) r) r

def reportFaults (fs : List (Nat × Nat × AFault)) (s : State) : State := fs.foldl (fun s f => reportTable f.2.2 s) s

def setRun (r : ArrRun) (s : State) : State := { s with arr := { s.arr with run := some r } }

/-- The saved entries of a tile's cells have been read: damage in them is found (R407). -/
def seeStarts (o : AOp) (t : Tile) (s : State) : State :=
  if s.mem.damaged.isEmpty || o.start != startSTATE then s
  else t.rows.foldl (fun s r => t.cols.foldl (fun s c => let p := o.prob r.prob
    locDetect p.env false (o.stateVa + 64 + 8 * (r.idx * p.n + c.idx)) 8 s) s) s

/-- The swap into tile n and the turnover after it, which loads the next tile's starting values as memory held them `before` (R122, R123). A fault met there is taken in tile n (R77). -/
def turnover (before : State) (o : AOp) (n : Nat) (r : ArrRun) (s : State) : State :=
  let x := loadShadow before o (n + 1) (swapInto o n r)
  let s := if n + 1 < tileCount o r.size then seeStarts o (tileOf o { r with tile := n + 1 }) (reportFaults x.2 s) else s
  setRun (stopProblems x.2 x.1) s

/-- The operation becomes the running one (R122). A self-test has no tiles. -/
def enterArray (r : ArrRun) (s : State) : State :=
  if r.test then setRun r s
  else match runOp s r with
    | some o => turnover s o 0 r s
    | none => setRun r s

/-! ## The choice (R78, R171) -/

/-- Packets of the choice that were taken up while a new split was pending, and that the split now in force has no room for (R171). -/
def outgrown (s : State) (c : Candidate) : List Nat :=
  c.uids.filter fun u => s.arr.unjudged.contains u && (jobOf s u).any fun j => areaShort s (jobOp j)

/-- The choice waits no longer. -/
def leaveWaiting (c : Candidate) (s : State) : State :=
  { s with arr := { s.arr with
    ready := s.arr.ready.filter fun u => !c.uids.contains u
    batches := s.arr.batches.filter fun b => some b.id != c.batch
    unjudged := s.arr.unjudged.filter fun u => !c.uids.contains u } }

/-- What degrades an operation as the array takes it (R138, R153, R168, R187, R400). -/
def startDegraded (s : State) (o : AOp) : Bool :=
  if o.kind = .selftest then !levelC s || !hasShape s else !(arrDegraded s o).isEmpty

/-- An operation of some packets, before its first tile. -/
def freshRun (s : State) (c : Candidate) (uids : List Nat) (o : AOp) : ArrRun :=
  { uids := uids, batched := c.batch.isSome, tile := 0, kPos := 0, active := [], shadow := [], starts := [], colSums := [], rowSums := []
    badCols := [], tally := List.replicate (if o.kind = .packed then 2 else uids.length) noArrTally, held := [], heldWords := [], stop := none
    area := o.kind != .selftest && o.needsArea, grant := o.kind != .selftest && o.usesGrant, size := shapeNow s, coverage := opCoverage s o, latency := repairLatency s
    test := o.kind == .selftest, cells := [], units := [] }

/-- The array takes the choice: what no longer fits or is degraded is answered, and the first tile's starting values are loaded into the shadow set (R123, R124). Answers the operation, if anything of it is left. -/
def takeOp (c : Candidate) (s : State) : State × Option ArrRun :=
  let bad := outgrown s c
  let uids := c.uids.filter fun u => !bad.contains u
  let s := leaveWaiting c (bad.foldl (fun s u => finish u (rej stREJ_RESOURCE 0) s) s)
  match uids.head?.bind (jobOf s) with
  | none => (s, none)
  | some j =>
    if startDegraded s (jobOp j) then (uids.foldl (fun s u => finish u (resOf stREJ_DEGRADED) s) s, none)
    else
      let s := { s with arr := { s.arr with lastCtx := c.ctx, lastQueue := kvSet c.ctx c.queue s.arr.lastQueue } }
      let r := freshRun s c uids (jobOp j)
      match (if r.test then none else runOp s r) with
      | none => (s, some r)
      | some o =>
        let x := loadShadow s o 0 r
        (seeStarts o (tileOf o r) (reportFaults x.2 s), some (stopProblems x.2 x.1))

/-- Is the operation's last tile in the array, so that the array is free for a choice (R124)? -/
def inLastTile (s : State) (r : ArrRun) : Bool := (runOp s r).any fun o => decide (tileCount o r.size ≤ r.tile + 1)

/-- ARRAY_SCHEDULE: the free array takes the next ready operation, after any rebuild that is due; with the last tile of an operation in the array, it chooses what follows (R78, R124, R140). A running self-test ends, with what it has found (log 132). -/
def execArraySchedule (failing : List (Nat × Nat)) (units : List Strand) (s : State) : Host.Outcome State Fault Refusal :=
  let found := fun (r : ArrRun) => if r.test then { r with cells := r.cells ++ failing, units := r.units ++ units } else r
  .next (match s.arr.run with
    | some r =>
      if r.test then endTest (found r) s
      else if s.arr.rebuild || s.arr.next.isSome || underReset s sARR || !inLastTile s r then s
      else match chooseOp s with
        | some c => let x := takeOp c s; { x.1 with arr := { x.1.arr with next := x.2 } }
        | none => s
    | none =>
      if s.arr.rebuild || underReset s sARR then s
      else match chooseOp s with
        | some c => match takeOp c s with
          | (s, some r) => enterArray (found r) s
          | (s, none) => s
        | none => s)

end Sys2Proof.Machine
end

