-- ==== Sys2Proof/Machine/ArrayDrain.lean ====
section
/-! DEFINITION. ARRAY_SPILL and TILE_DRAIN: spills, the drain's scales, conversion and blocks, the ranker's share, saved state, faults and stops, and the replies of array operations (R77, R81, R101, R109, R110, R120, R123, R128, R136, R146 to R149, R154, R160 to R177, R187, R367 to R369). -/

namespace Sys2Proof.Machine

/-! ## One interval -/

/-- The interval that both events compute: the tile, its cells and lanes, and the run with what the feeders met. -/
structure Interval where
  run : ArrRun
  tile : Tile
  feed : Feed
  start : List (List Start)
  cells : List (List CellNow)
  cl : List LaneNow
  rl : List LaneNow
  faults : List (Nat × Nat × AFault)
  deriving DecidableEq, Repr

/-- INVALID bits that an interval's cells set: columns over the rows of their own problem (R134, R165). A stopped problem raises none. -/
def invalidCols (o : AOp) (r : ArrRun) (t : Tile) (bad : List (List Bool)) : List Nat :=
  (List.zip t.rows bad).foldl (fun (l : List Nat) (x : Line × List Bool) =>
    if (r.tally[x.1.prob]?).any (fun y => y.stop.isSome) then l
    else (List.zip t.cols x.2).foldl (fun (l : List Nat) (y : Line × Bool) =>
      if y.2 && kept o x.1 y.1 then insNat y.1.pos l else l) l) r.badCols

def interval (s : State) (o : AOp) (r : ArrRun) : Interval :=
  let t := tileOf o r
  let st := intervalStart o r t
  let f := feed s o r t
  let r := stopProblems f.faults r
  let r := f.badMeta.foldl (fun r p => updTally p (fun t => { t with metaInvalid := true }) r) r
  let cells := cellsNow o r f st
  let r := { r with badCols := invalidCols o r t (cells.map fun l => l.map fun c => c.acc.invalid) }
  { run := r, tile := t, feed := f, start := st, cells := cells
    cl := if colChecked s r then colLanesNow o r f else [], rl := if rowChecked s r then rowLanesNow o r f else [], faults := f.faults }

/-- What every cell of the tile started from, as the checks subtract it. -/
def startValue (x : Start) : FV :=
  match x.spill with
  | some v => v
  | none => x.total

/-- A cell's boundary: its register joined to its spill entry (R154, R162). -/
def joinSpill (o : AOp) (total : FV) (x : Start) : FV × Bool × Bool := spillAdd o.arith.kind x.spill total

/-- A lane pair's values so far, with what this interval adds; a pair of lanes that no longer checks adds nothing (R143). -/
def laneSums (lanes : List LaneSum) (now : List LaneNow) (ov : Nat → LaneNow → LaneNow) : List LaneSum :=
  (numbered now).map fun (x : Nat × LaneNow) =>
    let v := ov x.1 x.2
    match lanes[x.1]? with
    | none => { sum := toB64 v.sum, mag := toB64 v.mag, k := v.k }
    | some l => { sum := toB64 (spillAdd .mma (some (b64 l.sum)) v.sum).1, mag := toB64 (spillAdd .mma (some (b64 l.mag)) v.mag).1, k := l.k + v.k }

/-! ## Ends -/

/-- A status that stops the operation for a problem: an abort every one, an array unit's those whose rows lie in this M-tile or a later one (R57, R77, R81), of a packed pair on one tile those whose quadrant a fenced line crosses (R149). -/
def stopHits (s : State) (o : AOp) (r : ArrRun) (st : Byte) (p : Nat) : Bool :=
  if 0x30 ≤ st.toNat then true
  else if o.kind = .packed then
    if r.size = 192 then
      let crosses := fun (map : List Nat) (work : Nat → Bool) (q : Nat) => (map.drop (96 * q)).take 96 |>.any fun n => !work n
      let hit := fun (q : Nat) => crosses s.arr.rowMap (fun n => working s (sROW n)) q || crosses s.arr.colMap (fun n => working s (sCOL n)) q
      if hit 0 || hit 1 then hit p else true
    else decide (r.tile ≤ p)
  else
    let lo := ((o.probs.take p).map AProb.m).sum
    decide (mTile o r.size r.tile * r.size < lo + (o.prob p).m)

def tallyFlagged (t : ArrTally) : Bool := t.flagged || decide (0 < t.invalidCols + t.nonfinite + t.saturated + t.shortRows)

/-- A problem's own status (R57, R81, R136). -/
def probStatus (t : ArrTally) (stop : Option Byte) : Byte :=
  let own : Byte := match t.stop with
    | some x => x.status
    | none => if t.poisonSeen then stFLT_POISON else if tallyFlagged t then stFLAGGED else stOK
  match stop with
  | some st => stJoin own st
  | none => own

def probDetail (t : ArrTally) : BitVec 24 :=
  dIf (t.poisonSeen || (t.stop.map Result.status) == some stFLT_POISON) dfPOISON ||| dIf t.checkSeen dfCHECK ||| dIf (tallyFlagged t) dfNUMERIC
    ||| dIf t.metaInvalid (dfOp 42) ||| dIf (decide (0 < t.shortRows)) (dfOp 45)

/-- K_DONE after the operation (R175). -/
def kDone (o : AOp) : Nat := (if o.start = startSTATE then leAt 16 8 o.header else 0) + o.k

/-- The result of one problem of an operation that is no packed pair. -/
def probResult (o : AOp) (r : ArrRun) (t : ArrTally) (stop : Option Byte) : Result :=
  let st := probStatus t stop
  let whole := t.stop.isNone && stop.isNone
  let rows := (o.probs.map AProb.m).sum
  let many := decide (1 < o.probs.length)
  let res : Result :=
    { status := st
      detail := arrDetail r.coverage r.latency r.size ||| probDetail t ||| dIf (r.batched && many) dfBATCHED
        ||| dIf (o.kind == .resume && !bit (leAt 3 1 o.header) 0) (dfOp 43)
      cnt0 := sat32 t.invalidCols
      cnt1 := if o.kind = .save then (if whole then BitVec.ofNat 32 (kDone o) else 0) else sat32 t.nonfinite
      cnt2 := if o.kind = .save then (if whole then BitVec.ofNat 32 (kDone o / 2 ^ 32) else 0) else sat32 t.saturated
      cnt3 := if r.batched && many then sat32 rows else if o.ranked then sat32 t.shortRows else 0
      substatus := 0 }
  match t.stop with
  | some x => if x.cnt1 = 0 ∨ x.status ≠ st then res else { res with cnt0 := x.cnt0, cnt1 := x.cnt1 }
  | none => res

/-- The result of a packed pair: STATUS over both problems, each one's own in CNT3 (R136, R369). -/
def packedResult (r : ArrRun) (ts : List ArrTally) (stops : List (Option Byte)) : Result :=
  let sts := List.zipWith probStatus ts stops
  let s0 := sts.getD 0 0
  let s1 := sts.getD 1 0
  -- among two faults the first in time (R57)
  let k := fun (i : Nat) => ((ts[i]?).map fun t => (2 ^ 33 * t.stopTile + t.stopK : Nat)).getD 0
  let st := if stRank s0 = stRank s1 ∧ k 1 < k 0 then s1 else stJoin s0 s1
  let sum := fun (f : ArrTally → Nat) => sat32 ((ts.map f).sum)
  let res : Result :=
    { status := st, detail := arrDetail r.coverage r.latency r.size ||| (ts.map probDetail).foldl (· ||| ·) 0
      cnt0 := sum ArrTally.invalidCols, cnt1 := sum ArrTally.nonfinite, cnt2 := sum ArrTally.saturated
      cnt3 := BitVec.ofNat 32 (s0.toNat + 256 * s1.toNat), substatus := BitVec.ofNat 16 (bnat (s0 == st) + 2 * bnat (s1 == st)) }
  match ts.findSome? fun t => t.stop.bind fun x => if x.status = st ∧ x.cnt1 ≠ 0 then some x else none with
  | some x => { res with cnt0 := x.cnt0, cnt1 := x.cnt1 }
  | none => res

/-- A problem's tally with elements written. -/
def addWritten (w : Tally) (t : ArrTally) : ArrTally :=
  { t with nonfinite := t.nonfinite + w.nonfin, saturated := t.saturated + w.sat, poisonSeen := t.poisonSeen || decide (0 < w.poison) }

/-- Block columns of an output hold elements that were written and not yet counted: they are counted as the operation ends, in the slot and in the reply (R96, R101, R163, R166). -/
def countHeld (o : AOp) (sr : State × ArrRun) : State × ArrRun :=
  (List.range o.probs.length).foldl (fun (a : State × ArrRun) p =>
    let r := a.2
    let q := o.prob p
    if q.out.block = 0 || !q.out.col then a
    else
      let els := (r.held.filter fun h => h.prob == p).map fun h =>
        let w := (r.heldWords.find? fun x => x.1 == p && x.2.1 == h.row / blockLen q.out.block * q.n + h.col).map fun x => x.2.2
        let k := (w.getD (0, false)).1
        let x := if q.out.wmode = 1 then delayedX (scaleWordOf k) else ((usedWord (scaleWordOf k)).scale : Int) - 127
        let e := cvtEl q.out.fmt x (b64 h.bits)
        { e with poison := h.poison || (w.getD (0, false)).2, sat := e.sat || h.sat }
      let w := els.foldl tallyEl noTally
      if els.isEmpty then a else (updateSlot q.slot w a.1, updTally p (addWritten w) r)) sr

/-- The operation ends: every packet has its result, and the staging region is left open. -/
def endRun (o : AOp) (r : ArrRun) (stop : Option Byte) (hits : Nat → Bool) (s : State) : State :=
  let h := countHeld o ({ s with arr := { s.arr with run := none } }, r)
  let s := loosenStage o h.1
  let r := h.2
  let stopOf := fun (p : Nat) => if hits p then stop else none
  if o.kind = .packed then
    match r.uids with
    | u :: _ => finish u (packedResult r r.tally [stopOf 0, stopOf 1]) s
    | [] => s
  else
    (numbered r.uids).foldl (fun s (x : Nat × Nat) =>
      match r.tally[x.1]? with
      | some t => finish x.2 (probResult o r t (stopOf x.1)) s
      | none => s) s

/-- Has every problem stopped? -/
def allStopped (r : ArrRun) : Bool := r.tally.all fun t => t.stop.isSome

/-! ## ARRAY_SPILL (R154, R157, R162, R167, R168) -/

/-- An injection into the spill store strikes the next entry written: found at once; an uncorrectable one poisons the entry (R168, R407). -/
def spillInjection (s : State) : State × Bool :=
  let bad := armedOn s sSPILL 1
  (fireArmed sSPILL 1 .none (fireArmed sSPILL 0 .none s), bad)

/-- Parity injections strike the next issued k-step, and the drain's the next row read, of a spill as of a drain (R396, R407). -/
def feederInjection (s : State) : State := fireArmed sDRN 0 .none (fireArmed sFDB 0 .none (fireArmed sFDA 0 .none s))

/-- The requests of an interval hold a tracker entry while they are out (R226). Answers whether the tracker failed under them, which ends them as a timeout (log 28). -/
def feederEntry (o : AOp) (r : ArrRun) (s : State) : State × Bool :=
  match r.uids with
  | u :: _ => if o.usesVirtual then passEntry (o.prob 0).env.c u sFDA s else (s, false)
  | [] => (s, false)

/-- No tracker entry is left to the operation's context: its fetches wait (R226, R227). -/
def feederWaits (s : State) (o : AOp) : Bool := o.usesVirtual && decide (entriesLeft s (o.prob 0).env.c = 0)

/-- The problems with rows in the tile end as at a timeout. -/
def timedOut (o : AOp) (r : ArrRun) : List (Nat × Nat × AFault) :=
  ((tileOf o r).rows.foldl (fun l x => insNat x.prob l) []).map fun p => (p, r.kPos, { status := stFLT_TIMEOUT, cause := 0, va := 0, table := none })

/-- What the interval meets before it begins: injections, and the tracker. -/
def readyRun (o : AOp) (r : ArrRun) (s : State) : State × ArrRun :=
  let t := feederEntry o r (feederInjection s)
  let r : ArrRun := { r with stop := (t.1.arr.run.map ArrRun.stop).getD r.stop }
  (t.1, if t.2 then stopProblems (timedOut o r) r else r)

def spillRun (x : Interval) (o : AOp) (bad : Bool) : ArrRun :=
  let joined := x.cells.map fun l => l.map fun c => (joinSpill o c.acc.total c.from_, c)
  let flat := joined.flatMap id
  let r := x.run
  { r with
    kPos := intervalEnd o r
    active := (numbered (List.zip r.active flat)).map fun y =>
      regOf o { total := zeroTotal o, spill := some y.2.2.1.1, poison := y.2.2.2.acc.poison || (bad && y.1 == 0) } (y.2.1.sat || y.2.2.1.2.2)
    starts := if r.kPos = 0 && o.start != startZERO then (x.start.flatMap fun l => l.map fun y => toB64 (startValue y)) else r.starts
    colSums := if x.cl.isEmpty then r.colSums else laneSums r.colSums x.cl fun _ v => v
    rowSums := if x.rl.isEmpty then r.rowSums else laneSums r.rowSums x.rl fun _ v => v
    badCols := invalidCols o r x.tile (joined.map fun l => l.map fun y => y.1.2.1) }

/-- An operation whose packets are gone leaves the array (R422). -/
def dropRun (s : State) : State := { s with arr := { s.arr with run := none } }

/-- The running operation has ended: the one chosen to follow it enters the array; a stop that came before this drain ends it first (R77, R124). -/
def promote (before s : State) : State :=
  match s.arr.run, s.arr.next with
  | none, some r =>
    let s := { s with arr := { s.arr with next := none } }
    if r.test then (if r.stop.isSome then endTest r s else setRun r s)
    else if (before.arr.next.bind ArrRun.stop).isSome then
      match runOp s r with
      | some o => endRun o { r with coverage := opCoverage s o, latency := repairLatency s } r.stop (fun _ => true) s
      | none => s
    else enterArray r s
  | _, _ => s

/-- ARRAY_SPILL: the running tile reaches a spill boundary before its end. A fault that stops the whole operation ends it here. -/
def execArraySpill (s : State) : Host.Outcome State Fault Refusal :=
  .next (match s.arr.run with
    | none => s
    | some r =>
      match runOp s r with
      | none => promote s (dropRun s)
      | some o =>
        if r.test || decide (o.k ≤ r.kPos + 2 ^ o.sLog) || feederWaits s o then s
        else
          let before := s
          let t := readyRun o r s
          let x := interval t.1 o t.2
          let s := seeOperands o x.tile (intervalKs o r) x.feed (reportFaults x.faults t.1)
          if allStopped x.run then promote before (endRun o x.run x.run.stop (fun _ => true) s)
          else
            let i := spillInjection s
            let r := spillRun x o i.2
            setRun { r with stop := (i.1.arr.run.map ArrRun.stop).getD r.stop } i.1)

/-! ## Writing a tile (R101 to R105, R109, R110, R160) -/

/-- An element on its way out: its value before write conversion, its poison, and whether sat64 held it. -/
structure DEl where
  v : FV
  poison : Bool
  sat : Bool
  deriving DecidableEq, Repr

/-- What the writing of one problem's part of a tile has come to. -/
structure DAcc where
  s : State
  run : ArrRun
  tally : Tally
  fault : Option AFault
  deriving DecidableEq, Repr

/-- The part of row r from column c on. -/
def segWrite (v : Env) (d : Desc) (cols r c : Nat) (els : List El) (a : DAcc) : DAcc :=
  match a.fault with
  | some _ => a
  | none =>
    let w := locWrite v d.grant (d.addr + r * rowBytes d.fmt cols + c * fmtBits d.fmt / 8) (packEls (fmtBits d.fmt) els) a.s
    { a with s := w.1, fault := w.2 }

/-- n scale entries from entry i on, as a writer under DELAYED or FIXED finds them. -/
def entriesRead (s : State) (v : Env) (d : Desc) (i n : Nat) : Except AFault (List (Nat × Bool)) :=
  if d.wmode = 0 then .ok (List.replicate n (0, false))
  else
    match locRead s v d.grant (d.scale + i * scaleSize d) (n * scaleSize d) with
    | .error f => .error f
    | .ok ss => .ok ((List.range n).map (scaleAt d ss))

def entriesWrite (v : Env) (d : Desc) (i : Nat) (es : List (Nat × Bool)) (a : DAcc) : DAcc :=
  match a.fault with
  | some _ => a
  | none =>
    let w := locWrite v d.grant (d.scale + i * scaleSize d) (es.flatMap fun e => (leBytes (scaleSize d) e.1).map fun b => (b, e.2)) a.s
    { a with s := w.1, fault := w.2 }

def count (els : List El) (a : DAcc) : DAcc := { a with tally := els.foldl tallyEl a.tally }

/-- A block's elements and entry, each element counted as saturated at most once (R163). -/
def drainBlock (d : Desc) (old : Nat × Bool) (vs : List DEl) : List El × (Nat × Bool) :=
  let w := blockEls d old (vs.map fun x => (x.v, x.poison))
  (List.zipWith (fun (e : El) (x : DEl) => { e with sat := e.sat || x.sat }) w.1 vs, w.2)

def plainEl (fmt : Nat) (x : DEl) : El :=
  let e := cvtEl fmt 0 x.v
  { e with poison := x.poison, sat := e.sat || x.sat }

def heldOf (r : ArrRun) (p row : Nat) : List HeldEl := r.held.filter fun h => h.prob == p && h.row == row

def heldEl (p row col : Nat) (x : DEl) : HeldEl := { prob := p, row := row, col := col, bits := toB64 x.v, poison := x.poison, sat := x.sat }

def ofHeld (h : HeldEl) : DEl := { v := b64 h.bits, poison := h.poison, sat := h.sat }

/-- A row of an unscaled output, or of one whose blocks lie along rows: a block's first part waits for the tile that completes it; a poisoned tile is written whole. -/
def drainRow (v : Env) (d : Desc) (n p c0 : Nat) (all : Bool) (x : Nat × List DEl) (a : DAcc) : DAcc :=
  match a.fault with
  | some _ => a
  | none =>
    if d.block = 0 then
      let els := x.2.map (plainEl d.fmt)
      let a := segWrite v d n x.1 c0 els a
      if a.fault.isSome then a else count els a
    else
      let b := blockLen d.block
      let old := heldOf a.run p x.1
      let vs := old.map ofHeld ++ x.2
      let from_ := c0 - old.length
      let c1 := c0 + x.2.length
      let done := if c1 = n ∨ all then vs.length else c1 / b * b - from_
      let i := x.1 * ceilDiv n b + from_ / b
      let r : ArrRun := { a.run with held := (a.run.held.filter fun h => !(h.prob == p && h.row == x.1))
        ++ (numbered (vs.drop done)).map fun y => heldEl p x.1 (from_ + done + y.1) y.2 }
      match entriesRead a.s v d i (ceilDiv done b) with
      | .error f => { a with fault := some f }
      | .ok ws =>
        let bs := List.zipWith (drainBlock d) ws (chunks b (vs.take done))
        let els := bs.flatMap Prod.fst
        let a := entriesWrite v d i (bs.map Prod.snd) (segWrite v d n x.1 from_ els { a with run := r })
        if a.fault.isSome then a else count els a

/-- The words of a row of COL blocks: those read when its first rows drained, else as they stand. -/
def colWords (v : Env) (d : Desc) (p i n : Nat) (a : DAcc) : Except AFault (List (Nat × Bool)) :=
  let kept := (List.range n).filterMap fun j => (a.run.heldWords.find? fun w => w.1 == p && w.2.1 == i + j).map fun w => w.2.2
  if kept.length = n then .ok kept else entriesRead a.s v d i n

/-- Rows of one row of COL blocks: converted with the word read when the first of them drained; the word, and the elements as the whole block gives them, are written with the last (R101). -/
def drainBand (v : Env) (d : Desc) (m n p c0 : Nat) (all : Bool) (g : List (Nat × List DEl)) (a : DAcc) : DAcc :=
  match a.fault with
  | some _ => a
  | none =>
    let b := blockLen d.block
    let bi := (g.headD (0, [])).1 / b
    let w := ((g.headD (0, [])).2).length
    let mine := fun (h : HeldEl) => h.prob == p && h.row / b == bi && decide (c0 ≤ h.col) && decide (h.col < c0 + w)
    let old := a.run.held.filter mine
    let before := (List.range ((g.headD (0, [])).1 - bi * b)).map fun j => (bi * b + j, (old.filter fun h => h.row == bi * b + j).map ofHeld)
    let rows := before ++ g
    let last := (rows.getLastD (0, [])).1 + 1
    let whole := last = m ∨ last = (bi + 1) * b
    match colWords v d p (bi * n + c0) w a with
    | .error f => { a with fault := some f }
    | .ok ws =>
      let bs := List.zipWith (drainBlock d) ws (transpose w (rows.map Prod.snd))
      let els := List.zip (rows.map Prod.fst) (transpose rows.length (bs.map Prod.fst))
      let now := if whole then els else els.drop before.length
      let a := now.foldl (fun a x => segWrite v d n x.1 c0 x.2 a) a
      let r := a.run
      let others := r.held.filter fun h => !mine h
      let otherWords := r.heldWords.filter fun x => !(x.1 == p && decide (bi * n + c0 ≤ x.2.1) && decide (x.2.1 < bi * n + c0 + w))
      if a.fault.isSome then a
      else if whole || all then
        let a := if whole then entriesWrite v d (bi * n + c0) (bs.map Prod.snd) { a with run := { r with held := others, heldWords := otherWords } }
                 else { a with run := { r with held := others, heldWords := otherWords } }
        if a.fault.isSome then a else count (els.flatMap Prod.snd) a
      else
        { a with run := { r with
          held := r.held ++ g.flatMap fun x => (numbered x.2).map fun y => heldEl p x.1 (c0 + y.1) y.2
          heldWords := otherWords ++ (numbered ws).map fun y => (p, bi * n + c0 + y.1, y.2.1, y.2.2) } }

/-- Rows by the row of COL blocks that they belong to. -/
def bandsOf (d : Desc) (rows : List (Nat × List DEl)) : List (List (Nat × List DEl)) :=
  let b := blockLen d.block
  (rows.foldl (fun (l : List Nat) r => insNat (r.1 / b) l) []).map fun i => rows.filter fun r => r.1 / b == i

/-- A ranked row: held until its last column tile, then ranked and written (R187). -/
def drainRanked (o : AOp) (q : AProb) (p c0 : Nat) (rows : List (Nat × List DEl)) (a : DAcc) : DAcc :=
  let conv := fun (x : DEl) => let e := plainEl q.out.fmt x
    ({ v := e.val, poison := e.poison, sat := e.sat } : DEl)
  let all := rows.map fun x => (x.1, (heldOf a.run p x.1).map ofHeld ++ x.2.map conv)
  let drop := fun (l : List HeldEl) => l.filter fun h => !(h.prob == p && rows.any fun x => x.1 == h.row)
  if c0 + ((rows.headD (0, [])).2).length < q.n then
    { a with run := { a.run with held := drop a.run.held ++ all.flatMap fun x => (numbered x.2).map fun y => heldEl p x.1 y.1 y.2 } }
  else
    let ranked := all.map fun x => (x.1, rankRow o.largest o.topk q.n false (x.2.map fun y => (y.v, y.poison)))
    let sats := (List.zip all ranked).flatMap fun (x : (Nat × List DEl) × (Nat × Ranked)) =>
      if x.2.2.poison then [] else x.2.2.idx.map fun i => (x.1.2[i]?).any DEl.sat
    let w := writeRanked q.env o.idxVa q.out o.topk none ranked a.s
    let t : Tally := { w.2.tally with sat := (sats.filter id).length }
    let r := updTally p (fun t => { t with shortRows := t.shortRows + (ranked.filter fun x => x.2.short).length }) { a.run with held := drop a.run.held }
    { a with s := w.1, run := r, tally := t, fault := w.2.fault }

/-- Entries of a saved state, row by row (R172, R174). -/
def drainSave (o : AOp) (q : AProb) (c0 : Nat) (rows : List (Nat × List (FV × Bool))) (a : DAcc) : DAcc :=
  rows.foldl (fun a x =>
    match a.fault with
    | some _ => a
    | none =>
      let w := stateWrite q.env (q.out.addr + 64 + 8 * (x.1 * q.n + c0))
        (x.2.flatMap fun y => (leBytes 8 (entryBits (int8Op o) y.1).toNat).map fun b => (b, y.2)) a.s
      { a with s := w.1, fault := w.2 }) a

/-- The header ACC.SAVE writes after its last entry (R174, R175). -/
def saveHeader (o : AOp) (q : AProb) : List Byte :=
  let aligned := decide (o.k % 2 ^ o.sLog = 0) && (o.start != startSTATE || bit (leAt 3 1 o.header) 0)
  leBytes 1 o.path.no ++ leBytes 1 (headerL o) ++ leBytes 1 o.sLog ++ leBytes 1 (bnat aligned + 2 * bnat o.sparse)
    ++ leBytes 4 q.m ++ leBytes 4 q.n ++ zeros 4 ++ leBytes 8 (kDone o) ++ zeros 40

/-- The value handed to the write conversion (R109). -/
def scaleOut (o : AOp) (rs cs : Option PEl) (x : Drained) (poisonAll : Bool) : DEl :=
  let mulBy := fun (v : FV) (k : Option PEl) => match k with
    | some e => rne64 (v.mul e.1)
    | none => v
  let d := if int8Op o then rne64 x.d else x.d
  { v := mulBy (mulBy d rs) cs, sat := x.sat
    poison := x.poison || poisonAll || rs.any (fun e => e.2) || cs.any fun e => e.2 }

/-- A scale vector's entries for some lines; none where the operation has no such vector. -/
def scalesFor (s : State) (q : AProb) (vec : Option Nat) (ls : List Line) : Except AFault (List (Option PEl)) :=
  match vec with
  | none => .ok (ls.map fun _ => none)
  | some z => readAll (fun (l : Line) => match floatsAt s q.env true (z + 4 * l.idx) 1 with
    | .error f => .error f
    | .ok vs => .ok vs.head?) ls

/-- Write one problem's part of the tile, and count it. -/
def drainProblem (o : AOp) (t : Tile) (cells : List (List Drained)) (poisonAll : Bool) (p : Nat) (sr : State × ArrRun) : State × ArrRun :=
  let q := o.prob p
  let cs := t.cols.filter fun c => o.kind != .packed || c.prob == p
  let rows := (List.zip t.rows cells).filterMap fun (x : Line × List Drained) =>
    if x.1.prob = p then some (x.1, (List.zip t.cols x.2).filterMap fun (y : Line × Drained) => if kept o x.1 y.1 then some y.2 else none) else none
  if (sr.2.tally[p]?).any (fun y => y.stop.isSome) || rows.isEmpty || cs.isEmpty then sr
  else
    let c0 := (cs.headD { pos := 0, prob := 0, idx := 0 }).idx
    let bad := (sr.2.badCols.filter fun n => cs.any fun c => c.pos == n).length
    let a0 : DAcc := { s := sr.1, run := sr.2, tally := noTally, fault := none }
    let a : DAcc :=
      if o.kind = .save then
        let els := rows.map fun x => (x.1.idx, x.2.map fun y => (y.d, y.poison || poisonAll))
        let a := drainSave o q c0 els a0
        let ds := (rows.flatMap Prod.snd).filter fun y => !(y.poison || poisonAll)
        { a with tally := { noTally with nonfin := (ds.filter fun y => !y.d.isFin).length, sat := (ds.filter Drained.sat).length
                                         poison := (rows.flatMap Prod.snd).length - ds.length } }
      else
        match scalesFor sr.1 q q.rscale (rows.map Prod.fst), scalesFor sr.1 q q.cscale cs with
        | .ok rs, .ok ks =>
          let out := List.zipWith (fun (x : Line × List Drained) (k : Option PEl) =>
            (x.1.idx, List.zipWith (fun (y : Drained) (c : Option PEl) => scaleOut o k c y poisonAll) x.2 ks)) rows rs
          if o.ranked then drainRanked o q p c0 out a0
          else if q.out.block ≠ 0 ∧ q.out.col = true then (bandsOf q.out out).foldl (fun a g => drainBand q.env q.out q.m q.n p c0 poisonAll g a) a0
          else out.foldl (fun a x => drainRow q.env q.out q.n p c0 poisonAll x a) a0
        | .error f, _ => { a0 with fault := some f }
        | _, .error f => { a0 with fault := some f }
    let s := if o.kind = .save then a.s else updateSlot q.slot a.tally a.s
    let s := match a.fault with
      | some f => reportTable f s
      | none => s
    let r := updTally p (fun y =>
      let y := addWritten a.tally y
      { y with invalidCols := y.invalidCols + bad, poisonSeen := y.poisonSeen || rows.any fun x => x.2.any fun z => z.poison || poisonAll }) a.run
    (s, match a.fault with
      | some f => stopProblems [(p, o.k, f)] r
      | none => r)

/-! ## TILE_DRAIN -/

/-- Drain a cell: the value its register reads joined to its entry. -/
def drainCell (o : AOp) (ov : List (Nat × Nat × FV)) (row col : Nat) (c : CellNow) : (FV × Bool × Bool) × Bool :=
  (joinSpill o (readReg ov row col c.acc.total) c.from_, c.acc.poison)

/-- Fence what the arbitration names. The operation's own stop comes first where the tile is poisoned (R147). -/
def applyVerdict (o : AOp) (v : Verdict) (inj : Bool) (s : State) : State :=
  let s := if v.poisoned && o.kind != .packed then
      { s with arr := { s.arr with run := s.arr.run.map fun (r : ArrRun) => { r with stop := some (r.stop.getD stFLT_CHECK) } } } else s
  if v.failed then fenceLines v.rows v.cols inj s else s

/-- After the tile is written: the next tile, or the end. `before`: memory as the turnover read it while the tile drained (R123); `early`: the status that stopped the operation before this drain. -/
def afterDrain (before : State) (o : AOp) (r : ArrRun) (early : Option Byte) (v : Verdict) (s : State) : State :=
  let check := v.poisoned
  let stop := match early with
    | some st => some (if check then stJoin st stFLT_CHECK else st)
    | none => if check then some stFLT_CHECK else none
  let hits := fun (p : Nat) => match early with
    | some st => stopHits s o r st p
    | none => if o.kind = .packed ∧ r.size = 192 then v.probs.contains p else stopHits s o r stFLT_CHECK p
  if stop.isSome then endRun o r stop hits s
  else if allStopped r then endRun o r none (fun _ => false) s
  else if r.tile + 1 < tileCount o r.size then turnover before o (r.tile + 1) { r with stop := (s.arr.run.map ArrRun.stop).getD r.stop } s
  else
    match o.kind, o.probs with
    | .save, q :: _ =>
      match stateWrite q.env q.out.addr ((saveHeader o q).map fun b => (b, false)) s with
      | (s, some f) => endRun o (stopProblems [(0, o.k, f)] r) none (fun _ => false) (reportTable f s)
      | (s, none) => endRun o r none (fun _ => false) s
    | _, _ => endRun o r none (fun _ => false) s

/-- CHECK_SEEN of every problem with rows in the tile (R147). -/
def markChecked (t : Tile) (r : ArrRun) : ArrRun :=
  { r with tally := (numbered r.tally).map fun y => { y.2 with checkSeen := y.2.checkSeen || t.rows.any fun l => l.prob == y.1 } }

/-- The whole of a tile's last interval and its drain. -/
def drainTile (o : AOp) (r : ArrRun) (upsets : List CellUpset) (s : State) : State :=
  let early := r.stop
  let before := s
  let x := interval s o r
  let s := seeOperands o x.tile (intervalKs o r) x.feed (reportFaults x.faults s)
  if allStopped x.run then endRun o x.run early (fun p => match early with
    | some st => decide (0x30 ≤ st.toNat) && stopHits s o r st p
    | none => false) s
  else
    let r := x.run
    let t := x.tile
    let ov0 := upsetValues (int8Op o) upsets
    let regs := (tileRegs s t x.cells x.cl x.rl).map fun g => { g with v := readReg ov0 g.row g.col g.v }
    let inj := injections s r t regs
    let ov := inj.map Prod.snd ++ ov0
    let s : State := { s with str := { s.str with armed := s.str.armed.filter fun a => !(inj.any fun i => i.1 == a) } }
    let lane := fun (sumAt magAt : Nat × Nat) (v : LaneNow) => { v with sum := readReg ov sumAt.1 sumAt.2 v.sum, mag := readReg ov magAt.1 magAt.2 v.mag }
    let line := fun (ls : List Line) (i : Nat) => ls.getD i { pos := 0, prob := 0, idx := 0 }
    let rl := s.arr.rowLanes
    let cl := s.arr.colLanes
    let cv := (laneSums r.colSums x.cl fun i v =>
      lane (rl.getD 0 0, physCol s (line t.cols i)) (rl.getD 1 0, physCol s (line t.cols i)) v).map fun l => ({ w := b64 l.sum, m := b64 l.mag, k := l.k } : LaneVal)
    let rv := (laneSums r.rowSums x.rl fun i v =>
      lane (physRow s (line t.rows i), cl.getD 0 0) (physRow s (line t.rows i), cl.getD 1 0) v).map fun l => ({ w := b64 l.sum, m := b64 l.mag, k := l.k } : LaneVal)
    let starts := if r.kPos = 0 then (x.start.map fun l => l.map startValue)
                  else if r.starts.isEmpty then (x.start.map fun l => l.map fun _ => zeroTotal o)
                  else asRows t.cols.length (r.starts.map (entryValue false)) t.rows.length
    let sats := asRows t.cols.length (r.active.map CellReg.sat) t.rows.length
    let read := List.zipWith (fun (l : Line) (cs : List CellNow) =>
      List.zipWith (fun (c : Line) (y : CellNow) => drainCell o ov (physRow s l) (physCol s c) y) t.cols cs) t.rows x.cells
    let cells := List.zipWith (fun (ds : List ((FV × Bool × Bool) × Bool)) (bs : List FV × List Bool) =>
      List.zipWith (fun (y : (FV × Bool × Bool) × Bool) (b : FV × Bool) =>
        ({ d := y.1.1, start := b.1, poison := y.2, sat := b.2 || y.1.2.2 } : Drained)) ds (List.zip bs.1 bs.2)) read (List.zip starts sats)
    let r := { r with badCols := invalidCols o r t (read.map fun l => l.map fun y => y.1.2.1) }
    let v := tileVerdict s o r t cells cv rv
    let r := if v.failed then markChecked t r else r
    let w := (List.range o.probs.length).foldl (fun (a : State × ArrRun) p =>
      drainProblem o t cells (v.poisoned && (o.kind != .packed || v.probs.contains p)) p a) (s, r)
    afterDrain before o w.2 early v (applyVerdict o v (!inj.isEmpty) w.1)

/-- TILE_DRAIN: the running tile's K loop is over; `upsets` are cells whose totals the physical world altered before the drain read them. -/
def execTileDrain (upsets : List CellUpset) (s : State) : Host.Outcome State Fault Refusal :=
  .next (match s.arr.run with
    | none => s
    | some r =>
      match runOp s r with
      | none => promote s (dropRun s)
      | some o =>
        if r.test || decide (r.kPos + 2 ^ o.sLog < o.k) || feederWaits s o then s
        else
          let t := readyRun o r s
          promote s (drainTile o t.2 upsets t.1))

end Sys2Proof.Machine
end

