-- ==== Sys2Proof/Machine/Attention.lean ====
section
/-! DEFINITION. Selective attention: ATT.SELECT, ATT.FWD and ATT.BWD (R194 to R201, R373 to R375). -/

namespace Sys2Proof.Machine

/-! ## Geometry (R194, R373) -/

structure Geo where
  d : Nat
  h : Nat
  g : Nat
  qb : Nat
  kSel : Nat
  nLoc : Nat
  sq : Bool
  nq : Nat
  pos : Nat
  nkey : Nat
  scale : FV
  deriving DecidableEq, Repr

def geoOf (p : Packet) : Geo :=
  { d := pf p 4 9 0, h := pf p 4 18 10, g := pf p 4 24 19, qb := pf p 5 7 0, kSel := pf p 5 16 8, nLoc := pf p 5 22 17, sq := pb p 5 23
    nq := wd p 6, pos := wd p 7, nkey := wd p 8, scale := fpValue fpB32 (wd p 9) }

/-- Query blocks, blocks of keys, entries of a record, bytes of a record (R194, R197). -/
def Geo.nqb (x : Geo) : Nat := ceilDiv x.nq (max 1 x.qb)
def Geo.blocks (x : Geo) : Nat := ceilDiv x.nkey 128
def Geo.slots (x : Geo) : Nat := x.kSel + x.nLoc
def Geo.stride (x : Geo) : Nat := 16 * ceilDiv (4 + 2 * x.slots) 16

/-- Columns of a tensor with the rows of Q, and of one with the rows of K. -/
def Geo.qCols (x : Geo) : Nat := x.h * x.g * x.d
def Geo.kCols (x : Geo) : Nat := x.h * x.d

/-- The working region's bytes (R374): those of ATT.SELECT, or with a factor of 256 or 512 those of ATT.FWD and ATT.BWD. -/
def workBytes (x : Geo) (fmt factor : Nat) : Nat := 2 ^ 22 + factor * x.slots * (x.d * (fmtBits fmt / 8) + 2 * x.qb * x.g)

/-- Words 4 to 11. -/
def geoBad (s : State) (p : Packet) (x : Geo) (work : Nat) (slotOk : Bool) : List Nat :=
  resv p 4 0x1FFFFFF ++ resv p 5 0xFFFFFF ++ resv p 11 0x1FFF
    ++ badIf (!([64, 128, 192, 256, 512].contains x.d) || x.h = 0 || decide (256 < x.h) || x.g = 0 || decide (32 < x.g)) 4
    ++ badIf (!([1, 2, 4, 8, 16, 32, 64, 128].contains x.qb) || decide (128 < x.qb * x.g) || x.kSel = 0 || decide (256 < x.kSel)
        || x.nLoc = 0 || decide (32 < x.nLoc)) 5
    ++ badIf (x.nq = 0 || decide (4194304 < x.nq)) 6
    ++ badIf (decide (4194303 < x.pos) || decide (x.pos % max 1 x.qb ≠ 0)) 7
    ++ badIf (decide (x.nkey < x.pos + x.nq) || decide (4194304 < x.nkey)) 8
    ++ badIf (!x.scale.isFin) 9
    ++ badIf (decide (wd p 10 % 128 ≠ 0) || !inGrant (envHN s p).x (wd p 10) work) 10
    ++ slotBad s p 11 (pb p 11 12) (pf p 11 11 0) ++ badIf (!slotOk && pb p 11 12) 11

def attSlot (p : Packet) : Option Nat := if pb p 11 12 then some (pf p 11 11 0) else none

/-- Formats of queries, keys and values: the BF16 and FP8 paths (R196, R198). -/
def attFmts : List Nat := [fmtBF16, fmtE4M3, fmtE5M2]

/-- Word 0 where the units it runs on are not there: level C, the array, the ranker and gather engine, the vector engine (R138, R400). -/
def attDegraded (s : State) : List Nat := badIf (!levelC s || !hasShape s || outOfUse s sGSX || !vecServes s) 0

/-- DEGRADED_SHAPE (R54, R151). -/
def shapeFlag (s : State) : BitVec 24 := dIf (decide (shapeNow s < 192)) dfSHAPE

/-! ## Groups (R194, R195) -/

/-- Query tokens of block qb. -/
def Geo.tokens (x : Geo) (qb : Nat) : List Nat := (List.range (min x.qb (x.nq - qb * x.qb))).map (· + qb * x.qb)

/-- Rows of a group: each of its tokens under each of its heads. -/
def Geo.rows (x : Geo) (qb : Nat) : List (Nat × Nat) := (x.tokens qb).flatMap fun t => (List.range x.g).map fun g => (t, g)

/-- The key block of a group's last token, and the first block of its window. -/
def Geo.lastBlock (x : Geo) (qb : Nat) : Nat := (x.pos + min (x.nq - 1) (qb * x.qb + x.qb - 1)) / 128
def Geo.window (x : Geo) (qb : Nat) : Nat := x.lastBlock qb + 1 - x.nLoc

/-! ## Products on the array (R154, R180, R196, R198) -/

/-- Arithmetic of a product over n steps at the default L and S; the group width is the path's. -/
def attArith (kind : CellKind) (fmt n : Nat) : Arith := { kind := kind, w := if fmt = fmtBF16 then 1 else 2, l := 64, s := 2 ^ 16, k := n }

/-- One element of a product of a row and a column. -/
def dotEl (kind : CellKind) (fmt : Nat) (a b : List PEl) : PEl :=
  let acc := accumulate (attArith kind fmt a.length) 0 (identityOf kind)
    (List.zipWith (fun (x y : PEl) => (({ skip := false, v := x.1, poison := x.2 } : AEl), ({ kept := true, v := y.1, poison := y.2 } : BEl))) a b)
  (acc.total, acc.poison)

/-- cvt_fp32 of a value. -/
def asB32 (v : PEl) : PEl := ((cvtFp fpB32 v.1).1, v.2)

/-- The part of a row that belongs to one head. -/
def headPart (d i : Nat) (row : List PEl) : List PEl := (row.drop (i * d)).take d

/-! ## ATT.SELECT (R195 to R197) -/

def selectChecks (s : State) (p : Packet) : Checks :=
  let x := geoOf p
  let v := envHN s p
  let q := descAt p 12
  let m := descAt p 18
  { noChecks with
    param := geoBad s p x (2 ^ 22) false ++ descBad v (posIn attFmts) 12 x.nq x.qCols q ++ descBad v (posIn attFmts) 18 x.blocks x.kCols m
      ++ badIf ((q.fmt == fmtBF16) != (m.fmt == fmtBF16)) 18 ++ vaRange p 24 (x.h * x.nqb * x.stride) ++ zeroWords p [26, 27]
    degraded := attDegraded s }

/-- The scores of one group for its candidates. -/
def groupScores (x : Geo) (fmt : Nat) (qs : List (List PEl)) (sums : List (List PEl)) : List PEl :=
  let kind : CellKind := if x.sq then .sqdiff else .mma
  sums.map fun m =>
    let ss := qs.map fun q => asB32 (dotEl kind fmt q m)
    (if x.sq then foldMin (ss.map Prod.fst) else foldMax (ss.map Prod.fst), ss.any Prod.snd)

/-- A selection: blocks ascending, and the record's flags. -/
structure Sel where
  blocks : List Nat
  short : Bool
  nonfinite : Bool
  poisoned : Bool
  deriving DecidableEq, Repr

def selectGroup (x : Geo) (qb : Nat) (scores : List PEl) : Sel :=
  let lb := x.window qb
  let best := topk (!x.sq) x.kSel (scores.map Prod.fst)
  { blocks := sortBy id (best.map Prod.fst) ++ (List.range (x.lastBlock qb + 1 - lb)).map (· + lb)
    short := decide (lb < x.kSel), nonfinite := best.any fun e => e.2.isNan, poisoned := scores.any Prod.snd }

/-- The bytes of a selection record (R197). -/
def selBytes (x : Geo) (r : Sel) : List Byte :=
  let n := (x.stride - 4) / 2
  leBytes 2 r.blocks.length ++ leBytes 2 (bnat r.short + 2 * bnat r.nonfinite + 4 * bnat r.poisoned)
    ++ (r.blocks ++ List.replicate (n - r.blocks.length) 0xFFFF).flatMap (leBytes 2)

/-- Tiles that ATT.SELECT issues: whole groups to a tile, and column tiles that hold a candidate of one of them (R196). -/
def selectTiles (size : Nat) (x : Geo) : Nat :=
  let per := max 1 (size / max 1 (x.qb * x.g))
  x.h * ((chunks per (List.range x.nqb)).map fun l => ceilDiv ((l.map x.window).foldl max 0) (max 1 size)).sum

/-- The selection of group (h, qb). -/
def selectOne (s : State) (p : Packet) (x : Geo) (i : Nat) : Except AFault Sel :=
  let v := envHN s p
  let h := i / max 1 x.nqb
  let qb := i % max 1 x.nqb
  match readRows s v (descAt p 12) x.qCols (x.tokens qb), readRows s v (descAt p 18) x.kCols (List.range (x.window qb)) with
  | .ok qs, .ok ms =>
    let rows := qs.flatMap fun q => (List.range x.g).map fun g => headPart x.d (h * x.g + g) q
    .ok (selectGroup x qb (groupScores x (descAt p 12).fmt rows (ms.map (headPart x.d h))))
  | .error f, _ => .error f
  | _, .error f => .error f

def selectEffect (p : Packet) (s : State) : State × Result :=
  let x := geoOf p
  let v := envHN s p
  match readAll (selectOne s p x) (List.range (x.h * x.nqb)) with
  | .error f => faulted f s
  | .ok sels =>
    let s := detectT v (descAt p 18) ((List.range x.nqb).map x.window |>.foldl max 0) x.kCols (detectT v (descAt p 12) x.nq x.qCols s)
    let s := loosenGrant v.x (wd p 10) (2 ^ 22) s
    let w := locWrite v false (dw p 24) ((sels.flatMap (selBytes x)).map fun b => (b, false)) s
    let count := fun (f : Sel → Bool) => (sels.filter f).length
    (match w.2 with
      | some f => reportTable f w.1
      | none => w.1,
     ranResult w.2 (decide (0 < count Sel.poisoned)) (decide (0 < count Sel.nonfinite)) (shapeFlag s) (count Sel.short) (count Sel.nonfinite)
      (selectTiles (shapeNow s) x) (count Sel.poisoned))

def execAttSelect (p : Packet) (s : State) : Host.Outcome State Fault Refusal :=
  .next (met s (takeUp 0x0620 (runTracked sGSX (fun _ => true) selectChecks selectEffect) p s))

/-! ## Records read back (R200) -/

/-- What a record comes to: its blocks, or nothing usable. -/
structure Rec where
  blocks : List Nat
  invalid : Bool
  poisoned : Bool
  deriving DecidableEq, Repr

def ascending : List Nat → Bool
  | a :: b :: t => decide (a < b) && ascending (b :: t)
  | _ => true

def recordOf (x : Geo) (qb : Nat) (bs : List PByte) : Rec :=
  let b := bs.map Prod.fst
  let n := leAt 0 2 b
  let es := (List.range ((x.stride - 4) / 2)).map fun i => leAt (4 + 2 * i) 2 b
  let used := es.take n
  let bad := decide (n = 0) || decide (x.slots < n) || !ascending used || used.any (fun e => decide (x.blocks ≤ e)) || (es.drop n).any (· != 0xFFFF)
    || !used.contains (x.lastBlock qb)
  let lost := anyPoison bs
  { blocks := used, invalid := bad && !lost, poisoned := lost || bit (leAt 2 2 b) 2 }

def readRecord (s : State) (v : Env) (va : Nat) (x : Geo) (h qb : Nat) : Except AFault Rec :=
  match locRead s v false (va + (h * x.nqb + qb) * x.stride) x.stride with
  | .error f => .error f
  | .ok bs => .ok (recordOf x qb bs)

/-- Positions of the keys of the selected blocks, ascending, that exist. -/
def keyPositions (x : Geo) (blocks : List Nat) : List Nat :=
  blocks.flatMap fun b => (List.range (min 128 (x.nkey - b * 128))).map (· + b * 128)

/-! ## ATT.FWD (R198) -/

/-- Formats the drain writes (R84, R109). -/
def attOut : List Nat := [fmtB32, fmtB16, fmtBF16, fmtE4M3, fmtE5M2, fmtE2M1, fmtI8, fmtI4]

/-- The scores of one row: masked keys score −∞. -/
def scoreRow (x : Geo) (fmt : Nat) (t : Nat) (q : List PEl) (keys : List (Nat × List PEl)) : List PEl :=
  keys.map fun k =>
    if k.1 ≤ x.pos + t then
      let d := dotEl .mma fmt q k.2
      asB32 (rne64 (d.1.mul x.scale), d.2)
    else (.inf true, false)

/-- A row of P or dS on its way into a product: BF16, or E4M3 in JIT ROW blocks of 32 (R198). -/
def probRow (fmt : Nat) (vs : List PEl) : List PEl :=
  if fmt = fmtBF16 then vs.map fun v => ((cvtFp fpBF16 v.1).1, v.2)
  else (chunks 32 vs).flatMap fun g =>
    List.zipWith (fun (e : El) (v : PEl) => (e.val, v.2)) (writeBlock fmtE4M3 false 0 0 (g.map Prod.fst)).1 g

/-- One column of values over the gathered keys. -/
def column (c : Nat) (rows : List (List PEl)) : List PEl := rows.map fun r => r.getD c (fv0, false)

/-- A row times a matrix of n columns. -/
def rowTimes (fmt n : Nat) (r : List PEl) (m : List (List PEl)) : List PEl :=
  (List.range n).map fun c => dotEl .mma fmt r (column c m)

/-- One row of attention: its output values, and its LSE. A poisoned query, key or value element that it uses poisons all of it (R200, log 133). -/
def attRow (x : Geo) (fmt : Nat) (t : Nat) (q : List PEl) (keys : List (Nat × List PEl)) (vals : List (List PEl)) : List PEl × PEl :=
  let ss := scoreRow x fmt t q keys
  let lost := rowPoison ss || vals.any rowPoison
  let m := foldMax (ss.map Prod.fst)
  let es := ss.map fun v => fexp fpB32 (v.1.sub m)
  let l := es.foldl (fun a e => rne32 (a.add e)) fv0
  let k := fdiv fpB32 (fvOfNat 1) l
  let pr := probRow fmt (es.map fun e => (e, lost))
  ((rowTimes fmt x.d pr vals).map fun o => (rne64 (o.1.mul k), o.2), (rne32 (m.add (flog fpB32 l)), lost))

/-- Rows of a tensor that belong to one head, at given positions. -/
def headRows (s : State) (v : Env) (d : Desc) (x : Geo) (h : Nat) (ps : List Nat) : Except AFault (List (List PEl)) :=
  match readRows s v d x.kCols ps with
  | .error f => .error f
  | .ok rows => .ok (rows.map (headPart x.d h))

/-- What one group gives: for each of its rows, token, head in the group, output and LSE. -/
structure GroupOut where
  rows : List ((Nat × Nat) × (List PEl × PEl))
  invalid : Bool
  deriving DecidableEq, Repr

def lostRow (n : Nat) : List PEl × PEl := (List.replicate n (fv0, true), (fv0, true))

def fwdGroup (s : State) (p : Packet) (x : Geo) (i : Nat) : Except AFault GroupOut :=
  let v := envHN s p
  let h := i / max 1 x.nqb
  let qb := i % max 1 x.nqb
  match readRecord s v (dw p 30) x h qb with
  | .error f => .error f
  | .ok r =>
    if r.invalid || r.poisoned then .ok { rows := (x.rows qb).map fun t => (t, lostRow x.d), invalid := r.invalid }
    else
      let ps := keyPositions x r.blocks
      match readRows s v (descAt p 12) x.qCols (x.tokens qb), headRows s v (descAt p 18) x h ps, headRows s v (descAt p 24) x h ps with
      | .ok qs, .ok ks, .ok vs =>
        let q := (List.zip (x.tokens qb) qs).flatMap fun y => (List.range x.g).map fun g => ((y.1, g), headPart x.d (h * x.g + g) y.2)
        .ok { rows := q.map fun y => (y.1, attRow x (descAt p 12).fmt y.1.1 y.2 (List.zip ps ks) vs), invalid := false }
      | .error f, _, _ => .error f
      | _, .error f, _ => .error f
      | _, _, .error f => .error f

/-- Per-head results by head and query block, as whole rows of tokens. -/
def assemble (x : Geo) (gs : List (List ((Nat × Nat) × List PEl))) : List (List PEl) :=
  (List.range x.nq).map fun t => (List.range x.h).flatMap fun h =>
    ((gs.getD (h * x.nqb + t / max 1 x.qb) []).filter fun y => y.1.1 == t).flatMap Prod.snd

/-- Write binary32 values at a virtual address, unless a fault came before. -/
def putFloats (v : Env) (va : Nat) (es : List PEl) (acc : State × Option AFault) : State × Option AFault :=
  match acc.2 with
  | some _ => acc
  | none => locWrite v false va (es.flatMap fun e => (leBytes 4 (toB32 e.1).toNat).map fun b => (b, e.2)) acc.1

def sameFmt (p : Packet) (a b : Nat) : List Nat := badIf ((descAt p a).fmt != (descAt p b).fmt) b

def fwdChecks (s : State) (p : Packet) : Checks :=
  let x := geoOf p
  let v := envHN s p
  { noChecks with
    param := geoBad s p x (workBytes x (descAt p 12).fmt 256) true ++ descBad v (posIn attFmts) 12 x.nq x.qCols (descAt p 12)
      ++ descBad v (posIn attFmts) 18 x.nkey x.kCols (descAt p 18) ++ descBad v (posIn attFmts) 24 x.nkey x.kCols (descAt p 24)
      ++ sameFmt p 12 18 ++ sameFmt p 12 24 ++ vaRange p 30 (x.h * x.nqb * x.stride)
      ++ descBad v { fmts := attOut, out := true, array := false, jitCol := false } 32 x.nq x.qCols (descAt p 32) ++ vaRange p 38 (4 * x.nq * x.h * x.g)
    degraded := attDegraded s }

def fwdEffect (p : Packet) (s : State) : State × Result :=
  let x := geoOf p
  let v := envHN s p
  match readAll (fwdGroup s p x) (List.range (x.h * x.nqb)) with
  | .error f => faulted f s
  | .ok gs =>
    let s := detectT v (descAt p 24) x.nkey x.kCols (detectT v (descAt p 18) x.nkey x.kCols (detectT v (descAt p 12) x.nq x.qCols s))
    let s := loosenGrant v.x (wd p 10) (workBytes x (descAt p 12).fmt 256) s
    let out := assemble x (gs.map fun g => g.rows.map fun r => (r.1, r.2.1))
    let lse := assemble x (gs.map fun g => g.rows.map fun r => (r.1, [r.2.2]))
    let w := writeT v (descAt p 32) x.qCols (attSlot p) out s
    let l := putFloats v (dw p 38) (lse.flatMap id) (w.1, w.2.fault)
    let bad := (gs.filter GroupOut.invalid).length
    (match l.2 with
      | some f => reportTable f l.1
      | none => l.1,
     ranResult l.2 (decide (0 < w.2.poisonRows)) (decide (0 < w.2.tally.nonfin + w.2.tally.sat)) (shapeFlag s ||| dIf (decide (0 < bad)) (dfOp 40))
      bad w.2.tally.nonfin w.2.poisonRows w.2.tally.sat)

def execAttFwd (p : Packet) (s : State) : Host.Outcome State Fault Refusal :=
  .next (met s (takeUp 0x0621 (runTracked sGSX (fun _ => true) fwdChecks fwdEffect) p s))

/-! ## ATT.BWD (R201) -/

def bwdChecks (s : State) (p : Packet) : Checks :=
  let x := geoOf p
  let v := envHN s p
  { noChecks with
    param := geoBad s p x (workBytes x (descAt p 12).fmt 512) true ++ descBad v (posIn attFmts) 12 x.nq x.qCols (descAt p 12)
      ++ descBad v (posIn attFmts) 18 x.nkey x.kCols (descAt p 18) ++ descBad v (posIn attFmts) 24 x.nkey x.kCols (descAt p 24)
      ++ descBad v (posIn attFmts) 30 x.nq x.qCols (descAt p 30) ++ descBad v (posIn attFmts) 36 x.nq x.qCols (descAt p 36)
      ++ sameFmt p 12 18 ++ sameFmt p 12 24 ++ sameFmt p 12 30 ++ sameFmt p 12 36
      ++ vaRange p 42 (x.h * x.nqb * x.stride) ++ vaRange p 44 (4 * x.nq * x.h * x.g)
      ++ descBad v { fmts := attOut, out := true, array := false, jitCol := false } 46 x.nq x.qCols (descAt p 46)
      ++ vaRange p 52 (4 * x.nkey * x.kCols) ++ vaRange p 54 (4 * x.nkey * x.kCols)
    degraded := attDegraded s }

/-- One row's p and dS over the gathered keys. dP is held as binary32, as R374 sizes the working region. A product dO × O of the delta sum is not rounded before it is added (DESIGN CHOICE, log 133: R201 says only that the sum is made with rne_fp32). -/
def bwdRow (x : Geo) (fmt t : Nat) (q o dO : List PEl) (lse : PEl) (keys : List (Nat × List PEl)) (vals : List (List PEl)) : List PEl × List PEl :=
  let ss := scoreRow x fmt t q keys
  let ps := ss.map fun v => (fexp fpB32 (v.1.sub lse.1), v.2 || lse.2)
  let delta := (List.zip dO o).foldl (fun (a : PEl) (y : PEl × PEl) => (rne32 (a.1.add (y.1.1.mul y.2.1)), a.2 || y.1.2 || y.2.2)) (fv0, false)
  let dP := vals.map fun w => asB32 (dotEl .mma fmt dO w)
  (ps, List.zipWith (fun (p d : PEl) =>
    (rne32 ((rne32 (p.1.mul (d.1.sub delta.1))).mul x.scale), p.2 || d.2 || delta.2)) ps dP)

/-- What one group gives: dQ of its rows, and the contributions to dK and dV of each gathered key. -/
structure BwdOut where
  dq : List ((Nat × Nat) × List PEl)
  dk : List (Nat × List PEl)
  dv : List (Nat × List PEl)
  invalid : Bool
  deriving DecidableEq, Repr

def bwdGroup (s : State) (p : Packet) (x : Geo) (i : Nat) : Except AFault BwdOut :=
  let v := envHN s p
  let fmt := (descAt p 12).fmt
  let h := i / max 1 x.nqb
  let qb := i % max 1 x.nqb
  match readRecord s v (dw p 42) x h qb with
  | .error f => .error f
  | .ok r =>
    if r.invalid || r.poisoned then .ok { dq := (x.rows qb).map fun t => (t, List.replicate x.d (fv0, true)), dk := [], dv := [], invalid := r.invalid }
    else
      let ps := keyPositions x r.blocks
      let parts := fun (rows : List (List PEl)) => rows.flatMap fun y => (List.range x.g).map fun g => headPart x.d (h * x.g + g) y
      let lse := readAll (fun (t : Nat × Nat) => floatsAt s v false (dw p 44 + 4 * ((t.1 * x.h + h) * x.g + t.2)) 1) (x.rows qb)
      match readRows s v (descAt p 12) x.qCols (x.tokens qb), headRows s v (descAt p 18) x h ps, headRows s v (descAt p 24) x h ps with
      | .ok qs, .ok ks, .ok vs =>
        match readRows s v (descAt p 30) x.qCols (x.tokens qb), readRows s v (descAt p 36) x.qCols (x.tokens qb), lse with
        | .ok os, .ok ds, .ok ls =>
          let q := parts qs
          let dO := parts ds
          let rows := List.zip (x.rows qb) (List.zip (List.zip q (parts os)) (List.zip dO (ls.map fun l => l.headD (fv0, false))))
          let pd := rows.map fun y => bwdRow x fmt y.1.1 y.2.1.1 y.2.1.2 y.2.2.1 y.2.2.2 (List.zip ps ks) vs
          let pm := pd.map fun y => probRow fmt y.1
          let sm := pd.map fun y => probRow fmt y.2
          let perKey := fun (m b : List (List PEl)) => (List.zip ps (transpose ps.length m)).map fun y => (y.1, rowTimes fmt x.d y.2 b)
          .ok { dq := List.zipWith (fun (t : Nat × Nat) (r : List PEl) => (t, rowTimes fmt x.d r ks)) (x.rows qb) sm
                dk := perKey sm q, dv := perKey pm dO, invalid := false }
        | .error f, _, _ => .error f
        | _, .error f, _ => .error f
        | _, _, .error f => .error f
      | .error f, _, _ => .error f
      | _, .error f, _ => .error f
      | _, _, .error f => .error f

/-- What the additions into dK and dV have come to: a fault, and where the rows written lie. -/
structure GradAcc where
  s : State
  fault : Option AFault
  rows : List Nat
  deriving DecidableEq, Repr

/-- n binary32 values of tier H (R201). -/
def gradRead (s : State) (v : Env) (va n : Nat) : Except AFault (List PEl) :=
  (stateRead s v va (4 * n)).map fun bs => (chunks 4 bs).map fun w => (fpValue fpB32 (leNat (w.map Prod.fst)), anyPoison w)

/-- Contributions added into a binary32 array of tier H, key by key (R201). -/
def addKeys (v : Env) (x : Geo) (va h : Nat) (rows : List (Nat × List PEl)) (acc : GradAcc) : GradAcc :=
  rows.foldl (fun acc r =>
    match acc.fault with
    | some _ => acc
    | none =>
      let at_ := va + 4 * (r.1 * x.kCols + h * x.d)
      match gradRead acc.s v at_ x.d with
      | .error f => { acc with fault := some f }
      | .ok old =>
        let es := List.zipWith (fun (a b : PEl) => (rne32 (a.1.add b.1), a.2 || b.2)) old r.2
        let w := stateWrite v at_ (es.flatMap fun e => (leBytes 4 (toB32 e.1).toNat).map fun b => (b, e.2)) acc.s
        { s := w.1, fault := w.2, rows := insNat at_ acc.rows }) acc

/-- Rows of dK and dV as they stand after their last addition: non-finite elements, and rows that hold poison (R375, log 133). -/
def gradCounts (v : Env) (x : Geo) (a : GradAcc) : Nat × Nat :=
  a.rows.foldl (fun n va =>
    match gradRead a.s v va x.d with
    | .ok es => (n.1 + (es.filter fun e => !e.2 && !e.1.isFin).length, n.2 + bnat (rowPoison es))
    | .error _ => n) (0, 0)

def bwdEffect (p : Packet) (s : State) : State × Result :=
  let x := geoOf p
  let v := envHN s p
  match readAll (bwdGroup s p x) (List.range (x.h * x.nqb)) with
  | .error f => faulted f s
  | .ok gs =>
    let s := [(12, x.nq, x.qCols), (18, x.nkey, x.kCols), (24, x.nkey, x.kCols), (30, x.nq, x.qCols), (36, x.nq, x.qCols)].foldl
      (fun s y => detectT v (descAt p y.1) y.2.1 y.2.2 s) s
    let s := loosenGrant v.x (wd p 10) (workBytes x (descAt p 12).fmt 512) s
    let w := writeT v (descAt p 46) x.qCols (attSlot p) (assemble x (gs.map BwdOut.dq)) s
    -- by head, and within a head by query block, which is the order of the groups
    let k := (numbered gs).foldl (fun acc g => addKeys v x (dw p 54) (g.1 / max 1 x.nqb) g.2.dv
      (addKeys v x (dw p 52) (g.1 / max 1 x.nqb) g.2.dk acc)) ({ s := w.1, fault := w.2.fault, rows := [] } : GradAcc)
    let n := gradCounts v x k
    let bad := (gs.filter BwdOut.invalid).length
    let nonfin := w.2.tally.nonfin + n.1
    let lost := w.2.poisonRows + n.2
    (match k.fault with
      | some f => reportTable f k.s
      | none => k.s,
     ranResult k.fault (decide (0 < lost)) (decide (0 < nonfin + w.2.tally.sat)) (shapeFlag s ||| dIf (decide (0 < bad)) (dfOp 40)) bad nonfin lost w.2.tally.sat)

def execAttBwd (p : Packet) (s : State) : Host.Outcome State Fault Refusal :=
  .next (met s (takeUp 0x0622 (runTracked sGSX (fun _ => true) bwdChecks bwdEffect) p s))

end Sys2Proof.Machine
end

