-- ==== Sys2Proof/Machine/Contexts.lean ====
section
/-! DEFINITION. The control, context and queue commands: CTL, CTX and Q (R34 to R45, R58, R62, R68, R203, R238, R355, R362, R363, R422). -/

namespace Sys2Proof.Machine

/-! ## CTL -/

def nopChecks (_ : State) (p : Packet) : Checks := { noChecks with param := zeroWords p [] }

/-- CTL.NOP: no effect (R355). -/
def execCtlNop (p : Packet) (s : State) : Host.Outcome State Fault Refusal :=
  .next (met s (takeUp 0x0100 (runNow nopChecks fun _ s => (s, okRes)) p s))

def barrierChecks (_ : State) (p : Packet) : Checks :=
  { noChecks with param := resv p 4 1 ++ zeroWords p [5, 6, 7] }

def runBarrier (uid : Nat) (p : Packet) (s : State) : State :=
  match verdict (barrierChecks s p) with
  | some r => answerAtOnce uid p r s
  | none =>
    let c := issuerCtx s p.issuer
    let w := if pb p 4 0 then Work.barrier false (openOf s c) else Work.barrier true []
    let j := newJob s uid p w
    releaseOne j (addJob j s)

/-- CTL.BARRIER: completes once its scope has drained (R68). -/
def execCtlBarrier (p : Packet) (s : State) : Host.Outcome State Fault Refusal := .next (met s (takeUp 0x0101 runBarrier p s))

/-! ## CTX.CREATE -/

/-- Offending word of a grant's bank numbers (R203). -/
def grantBad (first count : Nat) (w1 w2 : Nat) : List Nat :=
  badIf (decide (47 < first)) w1 ++ badIf (decide (48 < count) || decide (48 < first + count)) w2

/-- Does a range touch the page-table pool of a context but one? -/
def inPool (s : State) (but : Option Nat) (a n : Nat) : Bool :=
  s.ctxs.any fun kv => some kv.1 != but && overlap a n kv.2.poolBase kv.2.poolSize

def createChecks (s : State) (p : Packet) : Checks :=
  let c := pf p 4 11 0
  let base := dw p 6
  let size := dw p 8
  { noChecks with
    param := resv p 4 0xFFF ++ badIf (c == 0) 4
      ++ resv p 5 0x1FFFFF ++ badIf (!pb p 5 20 && decide (pf p 5 19 0 ≠ 0)) 5
      ++ badIf (decide (base % 2 ^ 21 ≠ 0) || decide (2 ^ 41 < base + size) || inPool s none base size) 6
      ++ badIf (decide (size % 2 ^ 21 ≠ 0) || size == 0) 8
      ++ resv p 10 0x3F003F ++ grantBad (pf p 10 5 0) (pf p 10 21 16) 10 10
      ++ badIf (decide (wd p 11 ≠ 0) && (decide (wd p 11 < 1024) || decide (131072 < wd p 11))) 11
    permission := ctx0Only s p
    conflict := badIf ((ctxOf s c).state != .free) 4 ++ badIf (grantClash s c (pf p 10 5 0) (pf p 10 21 16)) 10 }

/-- The settings of a new life; its generation goes on (R36, R38). -/
def createdCtx (s : State) (p : Packet) : Ctx :=
  { state := .live, gen := (ctxOf s (pf p 4 11 0)).gen, bumped := false
    pasid := if pb p 5 20 then some (BitVec.ofNat 20 (wd p 5)) else none
    poolBase := dw p 6, poolSize := dw p 8, firstBank := pf p 10 5 0, nBanks := pf p 10 21 16
    trkQuota := if wd p 11 = 0 then 65536 else wd p 11, lateDrops := 0 }

/-- CTX.CREATE: the context becomes LIVE with an empty L1 table (R34, R38, R42). -/
def createEffect (p : Packet) (s : State) : State × Result :=
  let x := createdCtx s p
  (physPut (dw p 6) (zeros 8192) (setCtx (pf p 4 11 0) x s), okCnt (x.gen.setWidth 32) 0 0 0)

def execCtxCreate (p : Packet) (s : State) : Host.Outcome State Fault Refusal :=
  .next (met s (takeUp 0x0110 (runNow createChecks createEffect) p s))

/-! ## CTX.DESTROY -/

def destroyChecks (s : State) (p : Packet) : Checks :=
  let c := pf p 4 11 0
  { noChecks with
    param := resv p 4 0xFFF ++ zeroWords p [5, 6, 7]
    permission := ctx0Only s p ++ badIf (c == 0) 4
    conflict := badIf ((ctxOf s c).state != .live && (ctxOf s c).state != .aborted) 4 }

/-- Steps 1 and 2 of R422: DRAINING, queues stopped, windows, plans and Tackle ownership gone. -/
def beginDestroy (c : Nat) (s : State) : State :=
  let s := bumpGen c s
  let s := setCtx c { ctxOf s c with state := .draining } s
  let s := (queuesOf s c).foldl (fun s g => (stopQueue g s).1) s
  releaseWaits (releaseUnits c stABT_RESET s)

def runDestroy (uid : Nat) (p : Packet) (s : State) : State :=
  match verdict (destroyChecks s p) with
  | some r => answerAtOnce uid p r s
  | none =>
    let c := pf p 4 11 0
    let j := newJob s uid p (.ctxDestroy c s.clk.uptimeMs)
    beginDestroy c (addJob j s)

def execCtxDestroy (p : Packet) (s : State) : Host.Outcome State Fault Refusal := .next (met s (takeUp 0x0111 runDestroy p s))

/-- Every remote request that the context's windows accepted has been answered (R344, R422). -/
def windowsIdle (s : State) (c : Nat) : Bool := s.wins.all fun kv => kv.2.owner != c || !(s.lnk.held.any fun h => h.1 == kv.1)

/-- No tracker entry of an old generation of the context remains (R422 step 6). -/
def entriesGone (s : State) (c : Nat) : Bool := s.trk.entries.all fun kv => kv.2.ctx != c || kv.2.gen == (ctxOf s c).gen

/-- The packets that had started have completed (R62, R422 step 2). -/
def startedDone (s : State) (c : Nat) : Bool := (openOf s c).isEmpty

/-- The reply of CTX.DESTROY, with which the context becomes FREE. -/
def endDestroy (uid c forced : Nat) (byForce : Bool) (s : State) : State :=
  let drops := (ctxOf s c).lateDrops
  finish uid { okCnt (sat32 forced) (sat32 drops) 0 0 with detail := dIf byForce (dfOp 40) } (endCutTest (freeCtx c s))

/-- CTX_DESTROY_DONE: the conditions of R422 hold. -/
def execCtxDestroyDone (uid : Nat) (s : State) : Host.Outcome State Fault Refusal :=
  .next (match workOf s uid with
    | some (.ctxDestroy c _) =>
      if windowsIdle s c && entriesGone s c && startedDone s c then endDestroy uid c 0 false s else s
    | _ => s)

/-- CTX_DESTROY_FORCE: 50 ms have passed; the remaining entries are freed by force (R422, R423). -/
def execCtxDestroyForce (uid : Nat) (s : State) : Host.Outcome State Fault Refusal :=
  .next (match workOf s uid with
    | some (.ctxDestroy c start) =>
      if windowsIdle s c && decide (50 ≤ (s.clk.uptimeMs - start).toNat) then
        let r := forceFree (fun e => e.ctx == c) s
        endDestroy uid c r.2 (decide (0 < r.2)) r.1
      else s
    | _ => s)

/-! ## CTX.MAP and CTX.UNMAP -/

def kPAGES : Nat := 0
def kHITCH : Nat := 1
def kSCRATCHPAD : Nat := 2
def kPLACEMENT : Nat := 3

def mapKind (p : Packet) : Nat := pf p 4 15 12
def mapCtx (p : Packet) : Nat := pf p 4 11 0
def pageSize (p : Packet) : Nat := if pb p 4 18 then 2 ^ 21 else 2 ^ 16

/-- Offending words of a run of numbers in words 6 and 7, up to a limit; a run of none offends (R362). -/
def runBad (p : Packet) (limit : Nat) : List Nat :=
  badIf (decide (limit ≤ wd p 6)) 6 ++ badIf (wd p 7 == 0 || decide (limit < wd p 6 + wd p 7)) 7

/-- Offending words of the fields that the kind does not use (R362). -/
def kindUnused (p : Packet) (mask4 : Nat) : List Nat := badIf (decide (wd p 4 &&& mask4 ≠ 0)) 4 ++ zeroWords p [8, 9, 10, 11]

/-- Does a device range lie wholly in tier H, tier N, tier S or control space (R44)? -/
def mapTargetOk (a n : Nat) : Bool :=
  decide (a + n ≤ paN) || (decide (paN ≤ a) && decide (a + n ≤ paNEnd)) || (decide (paS ≤ a) && decide (a + n ≤ paSEnd))
    || (decide (paControl ≤ a) && decide (a + n ≤ paControlEnd))

/-- The virtual range of kind PAGES: alignment and end of the space (R44, R362, R523). -/
def pagesVaBad (p : Packet) : List Nat :=
  vaRange p 6 (dw p 10) ++ badIf (decide (dw p 6 % pageSize p ≠ 0)) 6 ++ badIf (decide (dw p 10 % pageSize p ≠ 0)) 10

def mapParam (p : Packet) : List Nat :=
  resv p 4 0xFFFFF ++ zeroWords p [5] ++ (match mapKind p with
    | 0 => badIf (pb p 4 19) 4 ++ pagesVaBad p
        ++ badIf (decide (dw p 8 % pageSize p ≠ 0)
            || (if pb p 4 17 then decide (2 ^ 64 < dw p 8 + dw p 10) else !mapTargetOk (dw p 8) (dw p 10))) 8
    | 1 => kindUnused p 0xF0000 ++ runBad p 65536
    | 2 => kindUnused p 0xF0000 ++ grantBad (wd p 6) (wd p 7) 6 7
    | 3 => kindUnused p 0x70FFF ++ runBad p 2048
    | _ => [4])

/-- Targets a page may not have (R40, R44). Control space for another context than 0 could be called out of range too; the model answers REJ_PERMISSION, which R44 names for that very case (DESIGN CHOICE, log 125). -/
def mapForbidden (s : State) (p : Packet) : Bool :=
  mapKind p == 0 && !pb p 4 17 &&
    (inPool s none (dw p 8) (dw p 10)
      || (overlap (dw p 8) (dw p 10) paSnap (paNEnd - paSnap) && (pb p 4 16 || mapCtx p != 0))
      || (overlap (dw p 8) (dw p 10) paControl (paControlEnd - paControl) && mapCtx p != 0))

/-- Does any context map a page in, or keep its pool in, a run of placement groups (R238)? -/
def placementBusy (s : State) (first count : Nat) : Bool :=
  let a := 2 ^ 30 * first
  let n := 2 ^ 30 * count
  inPool s none a n || s.ctxs.any fun kv => (pagesOf s kv.1).any fun g => !g.host && overlap g.addr g.size a n

def mapConflict (s : State) (p : Packet) : List Nat :=
  badIf ((ctxOf s (mapCtx p)).state != .live) 4 ++ (match mapKind p with
    | 0 => badIf ((pagesOf s (mapCtx p)).any fun g => overlap g.va g.size (dw p 6) (dw p 10)) 6
    | 1 => badIf ((List.range (wd p 7)).any fun i => (hitchOf s (wd p 6 + i)).owner.isSome) 6
    | 2 => badIf (grantClash s (mapCtx p) (wd p 6) (wd p 7)) 6
    | _ => badIf (placementBusy s (wd p 6) (wd p 7)) 6)

/-- Map every page of the range; none when the pool is exhausted. -/
def mapPages (p : Packet) (s : State) : Option State :=
  (List.range (dw p 10 / pageSize p)).foldl (fun (acc : Option State) i =>
    acc.bind (mapPage (mapCtx p) (dw p 6 + i * pageSize p) (dw p 8 + i * pageSize p) (pb p 4 18) (pb p 4 17) (pb p 4 16))) (some s)

def mapChecks (s : State) (p : Packet) : Checks :=
  { noChecks with
    param := mapParam p
    permission := ctx0Only s p ++ badIf (mapForbidden s p) 8
    conflict := mapConflict s p
    resource := badIf (mapKind p == 0 && (mapConflict s p).isEmpty && (mapParam p).isEmpty && (mapPages p s).isNone) 6 }

/-- Hitches FIRST on are assigned: value 0, no registrations (R70). -/
def assignHitches (c first count : Nat) (s : State) : State :=
  (List.range count).foldl (fun s i =>
    let s := hitchPut (first + i) 0 s
    { s with hitches := kvSet (first + i) { value := 0, owner := some c, regs := [] } s.hitches }) s

/-- Set the placement mode of a run of groups; no data moves (R238). -/
def setPlacement (first count : Nat) (stacked : Bool) (s : State) : State :=
  { s with mem := { s.mem with stacked :=
      if stacked then (List.range count).foldl (fun l i => insNat (first + i) l) s.mem.stacked
      else s.mem.stacked.filter fun g => !(decide (first ≤ g) && decide (g < first + count)) } }

/-- Pool use in units of 4 KiB (R45, R363). -/
def poolCount (s : State) (c : Nat) : Result := okCnt (BitVec.ofNat 32 (ceilDiv (poolBytes s c) 4096)) 0 0 0

def mapEffect (p : Packet) (s : State) : State × Result :=
  match mapKind p with
  | 0 => let s' := (mapPages p s).getD s
    (s', poolCount s' (mapCtx p))
  | 1 => (assignHitches (mapCtx p) (wd p 6) (wd p 7) s, okRes)
  | _ => (setPlacement (wd p 6) (wd p 7) (pb p 4 19) s, okRes)

/-- CTX.MAP; of kind SCRATCHPAD it waits for the packets of the target that had started (R203). -/
def runMap (uid : Nat) (p : Packet) (s : State) : State :=
  if mapKind p = 2 then
    match verdict (mapChecks s p) with
    | some r => answerAtOnce uid p r s
    | none =>
      let j := newJob s uid p (.grantWait (mapCtx p) (wd p 6) (wd p 7) (openOf s (mapCtx p)))
      releaseOne j (addJob j s)
  else runNow mapChecks mapEffect uid p s

def execCtxMap (p : Packet) (s : State) : Host.Outcome State Fault Refusal := .next (met s (takeUp 0x0112 runMap p s))

def unmapParam (p : Packet) : List Nat :=
  resv p 4 0xFFFFF ++ zeroWords p [5] ++ (match mapKind p with
    | 0 => badIf (decide (wd p 4 &&& 0xB0000 ≠ 0)) 4 ++ pagesVaBad p ++ zeroWords p [8, 9]
    | 1 => kindUnused p 0xF0000 ++ runBad p 65536
    | _ => [4])

/-- A page of the range that the command cannot remove: cut by the range, or of the other size (R45). -/
def unmapClash (s : State) (p : Packet) : Bool :=
  (pagesOf s (mapCtx p)).any fun g =>
    overlap g.va g.size (dw p 6) (dw p 10) &&
      (g.big != pb p 4 18 || decide (g.va < dw p 6) || decide (dw p 6 + dw p 10 < g.va + g.size))

def unmapChecks (s : State) (p : Packet) : Checks :=
  { noChecks with
    param := unmapParam p
    permission := ctx0Only s p
    conflict := badIf ((ctxOf s (mapCtx p)).state != .live) 4 ++ (match mapKind p with
      | 0 => badIf (unmapClash s p) 6
      | _ => badIf ((List.range (wd p 7)).any fun i =>
          (hitchOf s (wd p 6 + i)).owner.isSome && (hitchOf s (wd p 6 + i)).owner != some (mapCtx p)) 6) }

/-- Remove the mapped pages of the range, and the tables left empty (R45). -/
def unmapPages (p : Packet) (s : State) : State :=
  let gone := (pagesOf s (mapCtx p)).filter fun g => overlap g.va g.size (dw p 6) (dw p 10)
  pruneTables (mapCtx p) (gone.foldl (fun s g => pteSet g.pte 0 s) s)

/-- Release the hitches of the range that are assigned to the context (R70). -/
def releaseHitches (c first count : Nat) (s : State) : State :=
  { s with hitches := kvMap (fun h (x : Hitch) =>
      if first ≤ h ∧ h < first + count ∧ x.owner = some c then { x with owner := none } else x) s.hitches }

def unmapEffect (p : Packet) (s : State) : State × Result :=
  if mapKind p = 0 then
    let s' := unmapPages p s
    (s', poolCount s' (mapCtx p))
  else (releaseHitches (mapCtx p) (wd p 6) (wd p 7) s, okRes)

/-- The tracked requests that were translated through the pages of the range: transfer ID and epoch (R45). -/
def usersOf (s : State) (p : Packet) : List (Nat × Byte) :=
  let gone := (pagesOf s (mapCtx p)).filter fun g => overlap g.va g.size (dw p 6) (dw p 10)
  s.trk.entries.filterMap fun (kv : Nat × Entry) =>
    let at' := fun (host : Bool) (a : Nat) => gone.any fun g => g.host == host && overlap g.addr g.size a kv.2.len
    let hit := kv.2.ctx == mapCtx p && (match kv.2.req with
      | .memRead => at' false kv.2.pa
      | .memWrite => at' false kv.2.pa
      | .hostRead => at' true (keyHost kv.2.pa).2
      | .hostHeld _ => at' true (keyHost kv.2.pa).2
      | .peer _ => false)
    if hit then some (kv.1, kv.2.epoch) else none

/-- CTX.UNMAP; of kind PAGES it replies once no access that was translated before it is still out (R45). -/
def runUnmap (uid : Nat) (p : Packet) (s : State) : State :=
  match verdict (unmapChecks s p) with
  | some r => answerAtOnce uid p r s
  | none =>
    let e := unmapEffect p s
    if mapKind p = 0 then
      let j := newJob s uid p (.unmapWait (usersOf s p) e.2)
      releaseOne j (addJob j e.1)
    else addJob { newJob s uid p .finished with res := some e.2 } e.1

def execCtxUnmap (p : Packet) (s : State) : Host.Outcome State Fault Refusal :=
  .next (met s (takeUp 0x0113 runUnmap p s))

/-! ## Q.CREATE and Q.DESTROY -/

/-- A power of two from 64 to 65,536 (R58). -/
def slotCount (n : Nat) : Bool := (List.range 11).any fun i => n == 2 ^ (i + 6)

/-- A range that is misaligned, past the space or not mapped writable in the owner (R58). -/
def rangeBad (s : State) (p : Packet) (c w align n : Nat) : List Nat :=
  vaField p w ++ badIf (decide (dw p w % align ≠ 0) || decide (vaEnd < dw p w + n) || !vaTranslates s reachQueue c (dw p w) n true) w

/-- The lowest queue ID not in use. -/
def freeQueue (s : State) : Option Nat := kvFree 16384 s.queues

def qCreateChecks (s : State) (p : Packet) : Checks :=
  let c := pf p 4 11 0
  let sizesBad := badIf (!slotCount (wd p 12)) 12 ++ badIf (!slotCount (wd p 13)) 13
  { noChecks with
    param := resv p 4 0x3F0FFF ++ zeroWords p [5, 17, 18, 19] ++ sizesBad
      ++ (if sizesBad.isEmpty then
            rangeBad s p c 6 4096 (64 * wd p 12) ++ rangeBad s p c 8 4096 (32 * wd p 13) ++ rangeBad s p c 10 64 64
          else vaField p 6 ++ vaField p 8 ++ vaField p 10)
      ++ resv p 14 0x1FFF ++ badIf (decide (2047 < pf p 14 11 0) || (!pb p 14 12 && decide (pf p 14 11 0 ≠ 0))) 14
      ++ resv p 15 0x1FFFF ++ badIf (!pb p 15 16 && decide (pf p 15 15 0 ≠ 0)) 15
      ++ resv p 16 0xFFF
    permission := ctx0Only s p ++ badIf (pb p 15 16 && (hitchOf s (pf p 15 15 0)).owner != some c) 15
    conflict := badIf ((ctxOf s c).state != .live) 4
      ++ badIf (s.queues.any fun kv => kv.2.ctx == c && kv.2.qindex == pf p 4 21 16) 4
    resource := badIf (freeQueue s).isNone 4 }

/-- The queue that Q.CREATE makes. -/
def createdQueue (p : Packet) : Queue :=
  { ctx := pf p 4 11 0, qindex := pf p 4 21 16, ringVa := dw p 6, ringSlots := wd p 12, replyVa := dw p 8, replySlots := wd p 13
    stateVa := dw p 10, msix := if pb p 14 12 then some (pf p 14 11 0) else none
    hitch := if pb p 15 16 then some (pf p 15 15 0) else none, batchWait := pf p 16 11 0
    consumed := 0, done := 0, lastTail := 0, qflags := 0, dbErrors := 0, stopping := false }

/-- Q.CREATE: the lowest free ID, and a state block of zeros (R58, R59). -/
def qCreateEffect (p : Packet) (s : State) : State × Result :=
  let g := (freeQueue s).getD 0
  let q := createdQueue p
  let s := (vaWrite reachReply q.ctx q.stateVa ((zeros 64).map fun b => (b, false)) s).1
  ({ s with queues := kvSet g q s.queues }, okCnt (BitVec.ofNat 32 g) 0 0 0)

def execQCreate (p : Packet) (s : State) : Host.Outcome State Fault Refusal :=
  .next (met s (takeUp 0x0120 (runNow qCreateChecks qCreateEffect) p s))

/-- Is a Q.DESTROY of the queue accepted already? -/
def beingDestroyed (s : State) (g : Nat) : Bool :=
  s.jobs.any fun (j : Job) => match j.work with
    | .qDestroy h _ => h == g
    | _ => ((queueOf s g).map fun q => q.qflags.getLsbD 2).getD false

def qDestroyChecks (s : State) (p : Packet) : Checks :=
  let g := pf p 4 13 0
  { noChecks with
    param := resv p 4 0x3FFF ++ zeroWords p [5, 6, 7]
    permission := ctx0Only s p
    conflict := badIf ((queueOf s g).isNone || beingDestroyed s g) 4 }

def runQDestroy (uid : Nat) (p : Packet) (s : State) : State :=
  match verdict (qDestroyChecks s p) with
  | some r => answerAtOnce uid p r s
  | none =>
    let g := pf p 4 13 0
    let r := stopQueue g s
    let j := newJob r.1 uid p (.qDestroy g r.2)
    releaseWaits (addJob j r.1)

/-- Q.DESTROY: replies once every started packet of the queue has completed (R62). -/
def execQDestroy (p : Packet) (s : State) : Host.Outcome State Fault Refusal := .next (met s (takeUp 0x0121 runQDestroy p s))

end Sys2Proof.Machine
end

