-- ==== Sys2Proof/Machine/Hitches.lean ====
section
/-! DEFINITION. The hitch commands on this module: SIGNAL, ADD, WAIT, READ and PRODUCER, and the end of a wait (R70 to R75, R364). -/

namespace Sys2Proof.Machine

def hitchNo (p : Packet) : Nat := pf p 4 15 0

/-- Word 4, where the issuer may not operate on the hitch (R70). -/
def hitchOwner (s : State) (p : Packet) : List Nat := badIf (!ownsHitch s (issuerCtx s p.issuer) (hitchNo p)) 4

def valueOf (p : Packet) : DWord := BitVec.ofNat 64 (dw p 6)

def signalChecks (s : State) (p : Packet) : Checks :=
  { noChecks with param := resv p 4 0xFFFF ++ zeroWords p [5], permission := hitchOwner s p }

/-- HCH.SIGNAL: stores V; answers the previous value (R70). -/
def signalEffect (p : Packet) (s : State) : State × Result :=
  (hitchPut (hitchNo p) (valueOf p) s, hitchRes stOK (hitchOf s (hitchNo p)).value)

def execHchSignal (p : Packet) (s : State) : Host.Outcome State Fault Refusal :=
  .next (met s (takeUp 0x0201 (runNow signalChecks signalEffect) p s))

/-- HCH.ADD: adds V modulo 2^64, flagging a wrap; answers the new value (R70, R364). -/
def addEffect (p : Packet) (s : State) : State × Result :=
  let old := (hitchOf s (hitchNo p)).value
  let new := old + valueOf p
  let wrapped := decide (2 ^ 64 ≤ old.toNat + (valueOf p).toNat)
  (hitchPut (hitchNo p) new s,
    { hitchRes (if wrapped then stFLAGGED else stOK) new with detail := dIf wrapped (dfOp 40 ||| dfNUMERIC) })

def execHchAdd (p : Packet) (s : State) : Host.Outcome State Fault Refusal :=
  .next (met s (takeUp 0x0202 (runNow signalChecks addEffect) p s))

def readChecks (s : State) (p : Packet) : Checks :=
  { noChecks with param := resv p 4 0xFFFF ++ zeroWords p [5, 6, 7], permission := hitchOwner s p }

def execHchRead (p : Packet) (s : State) : Host.Outcome State Fault Refusal :=
  .next (met s (takeUp 0x0204 (runNow readChecks fun p s => (s, hitchRes stOK (hitchOf s (hitchNo p)).value)) p s))

def waitChecks (s : State) (p : Packet) : Checks :=
  { noChecks with param := resv p 4 0x3FFFF ++ badIf (decide (1 < pf p 4 17 16)) 4, permission := hitchOwner s p }

def runWait (uid : Nat) (p : Packet) (s : State) : State :=
  match verdict (waitChecks s p) with
  | some r => answerAtOnce uid p r s
  | none =>
    let eq := decide (pf p 4 17 16 = 1)
    let v := (hitchOf s (hitchNo p)).value
    if condHolds eq (valueOf p) v then answerAtOnce uid p (hitchRes stOK v) s
    else addJob (newJob s uid p (.wait (hitchNo p) eq (valueOf p) (wd p 5))) s

/-- HCH.WAIT: blocks the queue until the condition holds or the timeout passes (R72, R73). -/
def execHchWait (p : Packet) (s : State) : Host.Outcome State Fault Refusal := .next (met s (takeUp 0x0203 runWait p s))

/-- Has the queue a pending wait with a time limit? -/
def timedWait (s : State) (g : Nat) : Bool :=
  s.jobs.any fun (j : Job) => j.pkt.issuer == .queue g && j.res.isNone && (match j.work with
    | .wait _ _ _ t => decide (0 < t)
    | _ => false)

/-- HCH_WAIT_TIMEOUT: the limit of the queue's pending wait has passed (R73). -/
def execHchWaitTimeout (gqid : Nat) (s : State) : Host.Outcome State Fault Refusal :=
  .next (if timedWait s gqid then endWait gqid s else s)

/-- The producer a registration names (R75, R364). -/
def producerOf (p : Packet) : Producer :=
  match pf p 4 18 17 with
  | 0 => .queue (pf p 5 13 0)
  | 1 => .remote (pf p 5 13 0)
  | _ => .host

def producerChecks (s : State) (p : Packet) : Checks :=
  let regs := (hitchOf s (hitchNo p)).regs
  { noChecks with
    param := resv p 4 0x7FFFF ++ badIf (pf p 4 18 17 == 3) 4 ++ resv p 5 0x3FFF
      ++ badIf (pf p 4 18 17 == 2 && decide (wd p 5 ≠ 0)) 5 ++ zeroWords p [6, 7]
    permission := hitchOwner s p
    resource := badIf (!pb p 4 16 && !regs.contains (producerOf p) && decide (8 ≤ regs.length)) 4 }

/-- HCH.PRODUCER: adds or removes one registration (R75). -/
def producerEffect (p : Packet) (s : State) : State × Result :=
  let h := hitchOf s (hitchNo p)
  let x := producerOf p
  let regs := if pb p 4 16 then h.regs.filter (· != x) else if h.regs.contains x then h.regs else h.regs ++ [x]
  ({ s with hitches := kvSet (hitchNo p) { h with regs := regs } s.hitches }, okCnt (BitVec.ofNat 32 regs.length) 0 0 0)

def execHchProducer (p : Packet) (s : State) : Host.Outcome State Fault Refusal :=
  .next (met s (takeUp 0x0205 (runNow producerChecks producerEffect) p s))

end Sys2Proof.Machine
end

