-- ==== Sys2Proof/Machine/Power.lean ====
section
/-! DEFINITION. The pins and the power states seen from J1, the trip latch, and the time counters (R445, R451, R452, R462, R499, R503, R511 to R514). -/

namespace Sys2Proof.Machine

/-- What is left once every domain is off: flash, fuses and markers, the levels that the board drives, host memory, and the traces of what was sent (R443, R452, R462, R470, R499). -/
def coldState (ph : PwrPhase) (s : State) : State :=
  let r := State.reset
  let s := interruptStaging s
  { r with
    pending := s.pending, freeCtr := s.freeCtr, nextUid := s.nextUid
    clk := { r.clk with powerCycles := s.clk.powerCycles, persistedSeconds := s.clk.persistedSeconds
                        persistedCycles := s.clk.persistedCycles, journal := s.clk.journal, flushed := s.clk.flushed }
    fw := { s.fw with verA := false, verB := false, runB := false, bootFailed := false, bootCause := 0, fallback := false
                      staging := .none, mImage := 0, mFuses := 0, mRepair := 0 }
    log := { r.log with area := s.log.area, writer := s.log.writer }
    mem := { r.mem with host := s.mem.host }
    lnk := { r.lnk with out := s.lnk.out }
    pci := { r.pci with out := s.pci.out }
    mgt := { r.mgt with out := s.mgt.out }
    pwr := { r.pwr with phase := ph, inputOk := s.pwr.inputOk, pwrEn := s.pwr.pwrEn, perstLow := s.pwr.perstLow
                        sysResetLow := s.pwr.sysResetLow, tripLatch := s.pwr.tripLatch, tripMarker := s.pwr.tripMarker
                        inputMarker := s.pwr.inputMarker, idHistory := s.pwr.idHistory } }

/-- Start-up begins at phase 0, with PWRGD_OD driven low (R462, R499). -/
def beginStart (s : State) : State :=
  let s := coldState (.starting 0) s
  { s with pwr := { s.pwr with pwrgdLow := true } }

/-- Powered off with the input in its window: start-up begins if PWR_EN is asserted (R462). -/
def holdOff (s : State) : State := if s.pwr.pwrEn then beginStart s else coldState .heldOff s

/-- INPUT_IN_WINDOW. -/
def execInputInWindow (s : State) : Host.Outcome State Fault Refusal :=
  let s' := { s with pwr := { s.pwr with inputOk := true } }
  .next (if s.pwr.phase = .unpowered then holdOff s' else s')

/-- PWR_EN_ASSERT: ignored while the trip latch is set; in a power-down it takes effect once that completes (R462, R511, R514). -/
def execPwrEnAssert (s : State) : Host.Outcome State Fault Refusal :=
  let s' := { s with pwr := { s.pwr with pwrEn := true } }
  .next (if s.pwr.phase = .heldOff ∧ s.pwr.inputOk then beginStart s' else s')

/-- PWR_EN_DEASSERT: PWRGD_OD low, and the flush where management firmware runs (R445, R462, R511). -/
def execPwrEnDeassert (s : State) : Host.Outcome State Fault Refusal :=
  let s' := { s with pwr := { s.pwr with pwrEn := false } }
  .next (if powered s then
      let s' := { s' with pwr := { s'.pwr with pwrgdLow := true, phase := .poweringDown } }
      if logAlive s' then flushLog s' else s'
    else s')

/-- POWERDOWN_DONE: the domains and the board domain are off, every output released (R499, R511). -/
def execPowerdownDone (s : State) : Host.Outcome State Fault Refusal :=
  .next (if s.pwr.phase = .poweringDown then holdOff s else s)

/-- The board domain is up. -/
def boardUp (s : State) : Bool :=
  match s.pwr.phase with
  | .unpowered => false
  | .heldOff => false
  | _ => true

/-- INPUT_DROP: every domain off at once, no flush; the marker is written where the board domain keeps its supply for 10 ms. It ends a trip's latch and makes a power-down an unplanned one (R511, R512, R514). -/
def execInputDrop (millivolts : Nat) (kept : Bool) (s : State) : Host.Outcome State Fault Refusal :=
  let c := coldState .unpowered s
  let marker := if boardUp s && kept then some (millivolts, s.clk.powerCycles) else s.pwr.inputMarker
  .next { c with
    pwr := { c.pwr with inputOk := false, tripLatch := false, inputMarker := marker }
    clk := { c.clk with flushed := s.clk.flushed && s.pwr.phase != .poweringDown } }

/-- THERMAL_TRIP: THERMTRIP_N and PWRGD_OD low, every domain but the board's off, the marker written, the latch set; a flush under way is stopped (R513, R514). -/
def execThermalTrip (source stack : BitVec 4) (s : State) : Host.Outcome State Fault Refusal :=
  .next (if (powered s || s.pwr.phase == .poweringDown) && decide (source.toNat ≤ 6) then
      let c := coldState .tripped s
      let mark := source.toNat + (if source = 6 then stack.toNat * 16 else 0)
      { c with
        pwr := { c.pwr with thermtripLow := true, pwrgdLow := true, tripLatch := true
                            tripMarker := some (BitVec.ofNat 8 mark, s.clk.powerCycles) }
        clk := { c.clk with flushed := s.clk.flushed && s.pwr.phase != .poweringDown } }
    else s)

/-- TRIP_LATCH_CLEAR: PWR_EN has stayed deasserted for 100 ms, or the input has left its window (R514). -/
def execTripLatchClear (s : State) : Host.Outcome State Fault Refusal :=
  .next (if s.pwr.phase = .tripped ∧ (s.pwr.pwrEn = false ∨ s.pwr.inputOk = false) then
      let s' := { s with pwr := { s.pwr with tripLatch := false } }
      coldState (if s.pwr.inputOk then .heldOff else .unpowered) s'
    else s)

/-- SYS_RESET_N_ASSERT: a running module begins a fence-and-drain of the root (R503). -/
def execSysResetNAssert (s : State) : Host.Outcome State Fault Refusal :=
  let s' := { s with pwr := { s.pwr with sysResetLow := true } }
  .next (if s.pwr.sysResetLow || s.pwr.phase != .running then s'
    else fndRequest { target := [], cause := 4, escalated := false, uid := none } s')

/-- SYS_RESET_N_RELEASE: RESTORE or start-up may go on (R503). -/
def execSysResetNRelease (s : State) : Host.Outcome State Fault Refusal :=
  .next { s with pwr := { s.pwr with sysResetLow := false, held := false } }

/-! ## Time (R451, R452) -/

/-- The management loop is locked to SYS_REFCLK. -/
def clockRuns (s : State) : Bool := (powered s || s.pwr.phase == .poweringDown) && decide (2 ≤ s.str.phasesDone) && s.pwr.refclk

/-- UPTIME_MS_TICK: a millisecond; engines that wait for entries go on. -/
def execUptimeMsTick (s : State) : Host.Outcome State Fault Refusal :=
  .next (if clockRuns s then
      advance { s with clk := { s.clk with uptimeMs := s.clk.uptimeMs + 1, msToSecond := s.clk.msToSecond + 1 } }
    else s)

/-- OP_SECONDS_TICK: once per 1,000 ms of UPTIME_MS. -/
def execOpSecondsTick (s : State) : Host.Outcome State Fault Refusal :=
  .next (if clockRuns s && decide (1000 ≤ s.clk.msToSecond) then
      { s with clk := { s.clk with opSeconds := s.clk.opSeconds + 1, msToSecond := s.clk.msToSecond - 1000
                                   secToPersist := s.clk.secToPersist + 1 } }
    else s)

/-- OP_SECONDS_PERSIST: every 60 s, by management firmware. -/
def execOpSecondsPersist (s : State) : Host.Outcome State Fault Refusal :=
  .next (if logAlive s && decide (60 ≤ s.clk.secToPersist) then persistTime s else s)

end Sys2Proof.Machine
end

