-- ==== Sys2Proof/Machine/Startup.lean ====
section
/-! DEFINITION. The phases of start-up: boot slot, Logline scan, context 0, training, repair map and self-test, and the end of start-up (R202, R240, R404, R406, R446, R463 to R467, R471, R472, R478, R502, R515, R520). -/

namespace Sys2Proof.Machine

/-! ## Failures (R466) -/

/-- A failure of a strand that level M needs. -/
def mNeeds (p : Strand) : Bool := [sMG, sBOOT, sSEQ].any (below p)

/-- Fence strands in order, with their records. Answers how many stoppers of kind FAULT were set. -/
def fenceAll (k : StopKind) (ps : List Strand) (s : State) : State × Nat :=
  let r := (ps.filter strandOk).foldl (fun (acc : State × List (Nat × StopKind)) p =>
    let x := fenceUnit k p acc.1
    (x.1, acc.2 ++ x.2)) (s, [])
  (switchDomains (recordStops 2 r.2 r.1), (r.2.filter fun x => x.2 == .fault).length)

/-- Start-up ends with no level held: FAULT_N low under R402. -/
def endStartup (s : State) : State := drivePins { s with pwr := { s.pwr with phase := .running }, str := { s.str with held := 0 } }

/-- Units that failed in a phase are fenced, and start-up goes on unless level M needs one of them (R466). -/
def failPhase (ps : List Strand) (s : State) : State :=
  let s := (fenceAll .fault ps s).1
  if ps.any mNeeds then endStartup s else s

/-- A phase ends: n phases have completed. -/
def donePhase (n : Nat) (s : State) : State :=
  match s.pwr.phase with
  | .starting _ => { s with pwr := { s.pwr with phase := .starting n }, str := { s.str with phasesDone := n } }
  | _ => s

/-- An event of phase n in its place. -/
def inPhase (n : Nat) (s : State) (f : State → State) : State := if s.pwr.phase = .starting n then f s else s

/-- STARTUP_PHASE_TIMEOUT: a unit's phase runs past its bound (R466). -/
def execStartupPhaseTimeout (unit : Strand) (s : State) : Host.Outcome State Fault Refusal :=
  .next (match s.pwr.phase with
    | .starting _ => if strandOk unit then failPhase [unit] s else s
    | _ => s)

/-- STARTUP_SUPPLY: phase 0 ends. -/
def execStartupSupply (s : State) : Host.Outcome State Fault Refusal := .next (inPhase 0 s (donePhase 1))

/-! ## Phase 1: the boot ROM (R472, R474, R476, R502) -/

/-- Steps 1 and 2 of R472: the preferred slot, its TRIES, and the cause so far. -/
def preferSlot (fw : Fw) : Fw :=
  if slotConfirmed fw fw.prefB then { fw with bootCause := 0 }
  else if fw.tries = 0 then { fw with prefB := !fw.prefB, bootCause := 2 }
  else { fw with tries := fw.tries - 1, bootCause := 0 }

/-- Steps 3 and 4: the slot that runs, or none. -/
def bootSlot (fw : Fw) : Fw :=
  let fw := preferSlot fw
  let run := fun (b : Bool) (fw : Fw) => { setVerified b true fw with runB := b, fallback := fw.bootCause != 0 }
  if verifyImage fw (slotOf fw fw.prefB) = .good then run fw.prefB fw
  else if verifyImage fw (slotOf fw (!fw.prefB)) = .good then run (!fw.prefB) { fw with bootCause := 1 }
  else { fw with bootFailed := true }

/-- Measurements of the image and of the fuses (R476). -/
def measure (fw : Fw) : Fw :=
  { fw with mImage := shaBits (signedRegion (slotOf fw fw.runB))
            mFuses := shaBits (Config.fuseBlock fw.keyHash fw.keyRevoked fw.rollback fw.fuseRemoved) }

/-- STARTUP_ROM: PWRGD_OD released, time from 0, straps sampled, a slot chosen; without one start-up ends at once. -/
def romPhase (straps : BitVec 3) (s : State) : State :=
  let s := donePhase 2 s
  let s := { s with
    pwr := { s.pwr with pwrgdLow := false, moduleId := straps, idHistory := s.pwr.idHistory ++ [straps] }
    clk := { s.clk with uptimeMs := 0, msToSecond := 0, secToPersist := 0, opSeconds := s.clk.persistedSeconds
                        powerCycles := s.clk.persistedCycles + 1 }
    fw := measure (bootSlot s.fw)
    pci := { s.pci with inReset := s.pwr.perstLow } }
  if s.fw.bootFailed then endStartup s else s

def execStartupRom (straps : BitVec 3) (s : State) : Host.Outcome State Fault Refusal := .next (inPhase 1 s (romPhase straps))

/-! ## Phase 2: management firmware (R446, R452, R478, R515) -/

/-- Strands with a STOPPER_SET record of kind FAULT from the previous power cycle (R404). -/
def previousFaults (area : KV (List Byte)) (cycle : Word) : List Nat :=
  area.foldl (fun acc (kv : Nat × List Byte) =>
    if leAt 0 2 kv.2 = 0x0101 ∧ leAt 24 4 kv.2 % 8 = 4 ∧ leAt 4 4 kv.2 = cycle.toNat ∧ crc16 (kv.2.take 30) = leAt 30 2 kv.2 then
      insNat (leAt 16 8 kv.2) acc
    else acc) []

/-- The Logline scan: where writing resumes, its first sector erased if need be, and the fence counts (R406, R446). -/
def scanLog (s : State) : State :=
  let w := resumeSlot s.log.area
  let area := s.log.area.filter fun kv => !(decide (w ≤ kv.1) && decide (kv.1 < w + 128))
  { s with log := { s.log with
      area := area, writer := w, fenceCounts := buildFenceCounts (area.map Prod.snd)
      prevFaults := previousFaults area s.clk.persistedCycles, booted := true } }

/-- BOOT (R478). -/
def bootRecord (s : State) : LogRec :=
  mkRec 0x0600 0 0 (BitVec.ofNat 32 (runningVersion s))
    (bnat s.fw.runB + bnat s.fw.fallback * 2 + s.fw.bootCause.toNat * 4 + s.fw.tries.toNat * 16 + s.fw.rollback * 256)

/-- The records of markers found, which are then erased (R515). -/
def markerRecords (s : State) : State :=
  let s := match s.pwr.tripMarker with
    | some (src, cyc) => logRec (mkRec 0x0700 3 0 (src.setWidth 32) (cyc.toNat % 65536)) s
    | none => s
  let s := match s.pwr.inputMarker with
    | some (mv, cyc) => logRec (mkRec 0x0701 3 0 (BitVec.ofNat 32 mv) (cyc.toNat % 65536)) s
    | none => s
  { s with pwr := { s.pwr with tripMarker := none, inputMarker := none } }

/-- Phase 2 ends: POWER_UP, BOOT and the markers' records, with level M; start-up waits here while SYS_RESET_N is low (R463, R503). -/
def mgmtPhase (s : State) : State :=
  let s := scanLog (donePhase 3 s)
  let unplanned := !s.clk.flushed
  let s := persistTime s
  let s := { s with clk := { s.clk with flushed := false } }
  let s := logRec (mkRec 0x0003 0 0 s.clk.opSeconds (bnat unplanned)) s
  let s := markerRecords (logRec (bootRecord s) s)
  evalLevels { s with pwr := { s.pwr with held := s.pwr.sysResetLow } }

def execStartupMgmt (s : State) : Host.Outcome State Fault Refusal := .next (inPhase 2 s mgmtPhase)

/-! ## Phase 3: the host (R35, R463, R464, R472, R520) -/

/-- The units of a kind with spares: the working ones past the active count are STANDBY (R520). -/
def assignSpares (sibs : List Strand) (active : Nat) (s : State) : State :=
  let spare := (sibs.filter fun p => !fenced s p).drop active
  { s with str := { s.str with standby := spare.foldl (fun l p => insNat (strandId p) l) s.str.standby } }

/-- A queue of context 0 that firmware creates. -/
def firmwareQueue (i : Nat) (q : (Nat × Nat) × (Nat × Nat) × Nat × Option Nat) : Queue :=
  { ctx := 0, qindex := i, ringVa := q.1.1, ringSlots := q.1.2, replyVa := q.2.1.1, replySlots := q.2.1.2, stateVa := q.2.2.1
    msix := q.2.2.2, hitch := none, batchWait := 0, consumed := 0, done := 0, lastTail := 0, qflags := 0, dbErrors := 0, stopping := false }

/-- Context 0 with what firmware gives it (R35, log 17). -/
def makeZero (s : State) : State :=
  let s := setCtx 0 { noCtx with state := .live, poolBase := Config.firmwarePool.1, poolSize := Config.firmwarePool.2 } s
  let s := Config.firmwarePages.foldl (fun s pg => (mapPage 0 pg.1 pg.2.1 pg.2.2.1 pg.2.2.2.1 pg.2.2.2.2 s).getD s) s
  (List.range Config.firmwareQueues.length).foldl (fun s i =>
    match Config.firmwareQueues[i]? with
    | some q => { s with queues := kvSet i (firmwareQueue i q) s.queues }
    | none => s) s

/-- Strands removed by fuse or by the staged map. -/
def removedStrands (fw : Fw) : List Nat :=
  (fw.stagedMap.filterMap fun e => if e.2 = 0xFFFFFFFF then some e.1 else none).foldl (fun l n => insNat n l) (fw.fuseRemoved.foldl (fun l n => insNat n l) [])

/-- A strand that STR.REPAIR_COMMIT has removed for good, itself or through one above it: it is never tested again (R405). -/
def committed (s : State) (p : Strand) : Bool := (removedStrands s.fw).any fun i => below (strandAt i) p

/-- Phase 3: committed cores are removed untested, and the others that fail are fenced (R405, R463). -/
def hostPhase (failedCores : List Nat) (s : State) : State :=
  let s := donePhase 4 s
  let s := (fenceAll .removed ((List.range 5).map sCC |>.filter (committed s)) s).1
  let s := (fenceAll .fault ((failedCores.map sCC).filter fun p => !fenced s p) s).1
  let s := assignSpares ((List.range 5).map sCC) 4 s
  let s := makeZero s
  let s := evalLevels s
  let s := if levelH s then { s with fw := setConfirmed s.fw.runB true s.fw } else s
  { s with pci := { s.pci with crs := s.pci.inReset } }

/-- STARTUP_HOST: not while SYS_RESET_N is low. -/
def execStartupHost (failedCores : List Nat) (s : State) : Host.Outcome State Fault Refusal :=
  .next (inPhase 3 s fun s => if s.pwr.sysResetLow then s else hostPhase failedCores s)

/-! ## Phases 4 and 5 (R463, R466): a committed unit is not trained (R405) -/

/-- The strands that fail in phase 4: those of a domain whose rail is out of window, and those of an island that does not lock (R466). -/
def powerFailed (f : PowerFaults) : List Strand :=
  f.rails.flatMap (fun d => ((domains.find? fun x => x.1 == d).map Prod.snd).getD []) ++ f.islands.flatMap islandStrands

def execStartupPower (failed : PowerFaults) (s : State) : Host.Outcome State Fault Refusal :=
  .next (inPhase 4 s fun s => failPhase (powerFailed failed) (donePhase 5 s))

def execStartupTrain (failed : List Strand) (s : State) : Host.Outcome State Fault Refusal :=
  .next (inPhase 5 s fun s => failPhase (failed.filter fun p => !committed s p) (donePhase 6 s))

/-! ## Phase 6: repair map and self-test (R202, R252, R404, R467, R520) -/

/-- Blocks of the staged map and blocks that fail, usable and reserve, are remapped or left out before any access (R252, R467). -/
def remapBlocks (bs : List (Strand × Nat)) (s : State) : State :=
  bs.foldl (fun s b => if isRemapUnit b.1 && !fenced s b.1 && decide (b.2 < usableBlocks b.1 + reserveBlocks b.1) then (fenceBlock b.1 b.2 false false s).1
    else s) s

/-- What start-up leaves in memory is undefined: it reads as storage that nothing has written, but for the tables of context 0 (R467, log 7, log 17). -/
def clearTiers (s : State) : State :=
  let x := ctxOf s 0
  let keep := physRead s x.poolBase x.poolSize
  physPut x.poolBase (keep.map Prod.fst)
    { s with mem := { s.mem with cells := [], poison := [], loose := [], damaged := [], busyBlocks := [], busyUnits := [] } }

/-- READMIT for each strand fenced with kind FAULT in the previous power cycle that has passed (R404). -/
def readmit (s : State) : State :=
  (sortBy id s.log.prevFaults).foldl (fun s p =>
    if fenced s (strandAt p) then s else logRec (mkRec 0x0104 0 p 0 (min 65535 (kvGetD p 0 s.log.fenceCounts))) s) s

/-- The spares of every kind but the control cores, and the scratchpad's banks (R202, R520). -/
def assignAll (s : State) : State :=
  let s := assignSpares ((List.range 34).map sXE) 32 s
  let s := assignSpares ((List.range 68).map sTKL) 64 s
  let s := (List.range 4).foldl (fun s c => assignSpares ((List.range 132).map (sGROUP c)) 128 s) s
  let banks := ((List.range 50).filter fun b => working s (sSP b)).take 48
  { s with mem := { s.mem with banks := (List.range 48).map fun i => banks[i]? } }

def testPhase (failed : List Strand) (failedBlocks : List (Strand × Nat)) (s : State) : State :=
  let s := donePhase 7 s
  let s := { s with fw := { s.fw with mRepair := shaBits (Config.repairMap s.fw.stagedMap) } }
  let s := (fenceAll .removed ((removedStrands s.fw).map strandAt) s).1
  let s := remapBlocks (s.fw.stagedMap.filterMap fun e => if e.2 = 0xFFFFFFFF then none else some (strandAt e.1, e.2)) s
  let r := fenceAll .fault (failed.filter fun p => !fenced s p) s
  let s := remapBlocks failedBlocks r.1
  let s := { s with pwr := { s.pwr with selfTestFenced := r.2 } }
  let s := assignAll (clearTiers s)
  let s := rebuildMap (readmit s)
  if failed.any mNeeds then endStartup s else s

def execStartupTest (failed : List Strand) (failedBlocks : List (Strand × Nat)) (s : State) : Host.Outcome State Fault Refusal :=
  .next (inPhase 6 s (testPhase failed failedBlocks))

/-! ## Phase 7 (R240, R256, R463, R471) -/

/-- With RAISE_SVN the rollback count rises to the image's SVN and the slots of REVOKE_MASK but its own are revoked (R471). -/
def raiseSvn (s : State) : State :=
  let img := runningImage s
  if levelH s && decide (leAt 18 1 img % 2 = 1) then
    let mask := leAt 19 1 img &&& (15 - 2 ^ imageKeySlot img)
    let fw := { s.fw with rollback := max s.fw.rollback (imageSvn img), keyRevoked := s.fw.keyRevoked ||| BitVec.ofNat 4 mask }
    logRec (mkRec 0x0604 0 0 (BitVec.ofNat 32 fw.rollback) fw.keyRevoked.toNat) { s with fw := fw }
  else s

def readyPhase (elapsedMs : BitVec 24) (s : State) : State :=
  let s := donePhase 8 s
  let channels := (List.range 12).filter fun c => working s (sTS c)
  -- TS_CHANNELS is 6 to 12; with fewer channels tier S is unavailable (R240, R256)
  let s := { s with mem := { s.mem with ready := true, tsChannels := if 6 ≤ channels.length then channels else [] } }
  let s := recordService (evalLevels s)
  let s := drivePins { s with pwr := { s.pwr with phase := .running } }
  let s := logRec (mkRec 0x0601 0 0 (BitVec.ofNat 32 (s.str.held.toNat + elapsedMs.toNat * 256)) (min 65535 s.pwr.selfTestFenced)) s
  raiseSvn s

/-- STARTUP_READY. -/
def execStartupReady (elapsedMs : BitVec 24) (s : State) : Host.Outcome State Fault Refusal := .next (inPhase 7 s (readyPhase elapsedMs))

end Sys2Proof.Machine
end

