-- ==== Sys2Proof/Machine/Management.lean ====
section
/-! DEFINITION. The management port: I3C addresses, MCTP control, vendor messages, sensors, events and the PLDM firmware update (R455 to R461). -/

namespace Sys2Proof.Machine

/-- The port answers: from level M on, but not while the management firmware restarts, and never after R403 (R455). -/
def portUp (s : State) : Bool :=
  alive s && !(decide (s.rst.phase = 6) && (s.rst.run.map FndRun.restart).getD false)

def mgtOut (o : MgtOut) (s : State) : State := { s with mgt := { s.mgt with out := s.mgt.out ++ [o] } }

/-! ## Addresses (R455) -/

/-- A dynamic address is taken where none is held. -/
def takeAddress (a : BitVec 7) (s : State) : State :=
  if portUp s && s.mgt.i3cAddr.isNone then mgtOut (.i3cAck a) { s with mgt := { s.mgt with i3cAddr := some a } } else s

/-- ENTDAA. -/
def execEntdaa (addr : BitVec 7) (s : State) : Host.Outcome State Fault Refusal := .next (takeAddress addr s)

/-- SETDASA: from the static address 0x48 + MODULE_ID. -/
def execSetdasa (staticAddr addr : BitVec 7) (s : State) : Host.Outcome State Fault Refusal :=
  .next (if staticAddr.toNat = 0x48 + s.pwr.moduleId.toNat then takeAddress addr s else s)

/-! ## MCTP control (R456) -/

/-- A control message reaches the port at its dynamic address. -/
def onControl (f : State → State) (s : State) : State := if portUp s && s.mgt.i3cAddr.isSome then f s else s

/-- SET_ENDPOINT_ID: the null and the broadcast ID are none. -/
def execSetEndpointId (eid : Byte) (s : State) : Host.Outcome State Fault Refusal :=
  .next (onControl (fun s =>
    if eid = 0 ∨ eid = 0xFF then mgtOut (.mctp "Set Endpoint ID" [2]) s
    else mgtOut (.mctp "Set Endpoint ID" [0, eid]) { s with mgt := { s.mgt with eid := some eid } }) s)

/-- GET_ENDPOINT_ID: 0 while none is assigned. -/
def execGetEndpointId (s : State) : Host.Outcome State Fault Refusal :=
  .next (onControl (fun s => mgtOut (.mctp "Get Endpoint ID" [0, s.mgt.eid.getD 0]) s) s)

/-- GET_MCTP_VERSION_SUPPORT. -/
def execGetMctpVersionSupport (s : State) : Host.Outcome State Fault Refusal :=
  .next (onControl (mgtOut (.mctp "Get MCTP Version Support" (0 :: Config.mctpVersions))) s)

/-- GET_MESSAGE_TYPE_SUPPORT: PLDM and vendor-defined PCI messages, beside control. -/
def execGetMessageTypeSupport (s : State) : Host.Outcome State Fault Refusal :=
  .next (onControl (mgtOut (.mctp "Get Message Type Support" [0, 0x01, 0x7E])) s)

/-- GET_VENDOR_DEFINED_MESSAGE_SUPPORT: the PCI Vendor ID. -/
def execGetVendorDefinedMessageSupport (s : State) : Host.Outcome State Fault Refusal :=
  .next (onControl (mgtOut (.mctp "Get Vendor Defined Message Support" (0 :: beBytes 2 0x1F6E))) s)

/-! ## Vendor messages (R457, R458) -/

/-- A vendor or PLDM request is taken where an endpoint ID is assigned and no other runs (R456, R458). -/
def onRequest (f : State → State) (s : State) : State :=
  onControl (fun s => if s.mgt.eid.isSome && s.mgt.busyUid.isNone then f s else s) s

/-- PACKET_REQ: one packet of 16 to 256 B; a wrong vendor or a reserved byte discards it. -/
def execPacketReq (vendor : BitVec 16) (tag : Byte) (rsvd : BitVec 24) (words : List Word) (s : State) : Host.Outcome State Fault Refusal :=
  .next (onRequest (fun s =>
    if vendor ≠ 0x1F6E ∨ rsvd ≠ 0 ∨ words.length < 4 ∨ 64 < words.length then s
    else answerBad { s with
      mgt := { s.mgt with busyUid := some s.nextUid }
      fetched := s.fetched ++ [(s.nextUid, packetOfWords (.port tag) words)], nextUid := s.nextUid + 1 }) s)

/-- Does a read of the capture SRAM keep the rules of R457? -/
def captRangeOk (offset length : Nat) : Bool :=
  decide (offset % 16 = 0) && decide (length % 16 = 0) && decide (16 ≤ length) && decide (length ≤ 4096) && decide (offset + length ≤ 262144)

/-- CAPT_REQ: the SRAM as it stands, or STATUS 0x11. -/
def execCaptReq (vendor : BitVec 16) (tag : Byte) (rsvd : BitVec 24) (offset length : Word) (s : State) : Host.Outcome State Fault Refusal :=
  .next (onRequest (fun s =>
    if vendor ≠ 0x1F6E ∨ rsvd ≠ 0 then s
    else if captRangeOk offset.toNat length.toNat then
      mgtOut (.captRsp tag 0 (cellRead offset.toNat length.toNat s.capt.sram)) s
    else mgtOut (.captRsp tag stREJ_PARAM []) s) s)

/-! ## Monitoring (R459, R460) -/

def pldmOut (command : String) (code : Nat) (data : List Byte) (s : State) : State := mgtOut (.pldm command code data) s

/-- A sensor's reading: the counters the module holds, else what the physical world gives (log 4). -/
def sensorValue (sensor : Nat) (s : State) : Word :=
  if sensor = 8 then s.str.held.setWidth 32
  else if sensor = 9 then s.clk.powerCycles
  else if sensor = 10 then s.clk.opSeconds
  else Config.sensor sensor s.freeCtr

/-- GET_SENSOR_READING. -/
def execGetSensorReading (sensor : Nat) (s : State) : Host.Outcome State Fault Refusal :=
  .next (onRequest (fun s =>
    if 1 ≤ sensor ∧ sensor ≤ 10 then
      pldmOut "GetSensorReading" 0 (leBytes 4 (sensorValue sensor s).toNat) { s with freeCtr := s.freeCtr + 1 }
    else pldmOut "GetSensorReading" 0x80 [] s) s)

/-- GET_PDR: one record for each sensor. -/
def execGetPdr (record : Nat) (s : State) : Host.Outcome State Fault Refusal :=
  .next (onRequest (fun s =>
    if 1 ≤ record ∧ record ≤ 10 then pldmOut "GetPDR" 0 (Config.pdr record) s else pldmOut "GetPDR" 0x82 [] s) s)

/-- SET_EVENT_RECEIVER. -/
def execSetEventReceiver (eid : Byte) (polling : Bool) (s : State) : Host.Outcome State Fault Refusal :=
  .next (onRequest (fun s => pldmOut "SetEventReceiver" 0 [] { s with mgt := { s.mgt with receiver := some (eid, polling) } }) s)

/-! ## Firmware update (R461, R473) -/

/-- State code of GetStatus. -/
def pldmCode : Pldm → Nat
  | .idle => 0
  | .learn => 1
  | .ready => 2
  | .download _ _ => 3
  | .verify _ => 4
  | .apply => 5
  | .activate => 6

def setPldm (p : Pldm) (s : State) : State := { s with mgt := { s.mgt with pldm := p } }

/-- The update is over, and nothing is staged any more. -/
def endUpdate (s : State) : State :=
  { s with mgt := { s.mgt with pldm := .idle, image := [] }, fw := { s.fw with staging := .none } }

/-- A command in a state it does not belong to: outside an update, or at another step. -/
def misplaced (command : String) (s : State) : State := pldmOut command (if s.mgt.pldm = .idle then 0x80 else 0x84) [] s

/-- QUERY_DEVICE_IDENTIFIERS: vendor and device ID. -/
def execQueryDeviceIdentifiers (s : State) : Host.Outcome State Fault Refusal :=
  .next (onRequest (pldmOut "QueryDeviceIdentifiers" 0 (leBytes 2 0x1F6E ++ leBytes 2 0x4904)) s)

/-- GET_FIRMWARE_PARAMETERS: the running version and that of the other slot. -/
def execGetFirmwareParameters (s : State) : Host.Outcome State Fault Refusal :=
  .next (onRequest (fun s => pldmOut "GetFirmwareParameters" 0
    (leBytes 4 (runningVersion s) ++ leBytes 4 (slotVersion s (spareSlot s.fw))) s) s)

/-- GET_STATUS. -/
def execGetStatus (s : State) : Host.Outcome State Fault Refusal :=
  .next (onRequest (fun s => pldmOut "GetStatus" 0 (leBytes 1 (pldmCode s.mgt.pldm)) s) s)

/-- REQUEST_UPDATE: answered RETRY_REQUEST_UPDATE while a SEC.FW_STAGE runs. -/
def execRequestUpdate (s : State) : Host.Outcome State Fault Refusal :=
  .next (onRequest (fun s =>
    if s.mgt.pldm ≠ .idle then pldmOut "RequestUpdate" 0x81 [] s
    else if stagingBusy s then pldmOut "RequestUpdate" 0x8E [] s
    else pldmOut "RequestUpdate" 0 [] (setPldm .learn { s with fw := { s.fw with staging := .pldm } })) s)

/-- PASS_COMPONENT_TABLE. -/
def execPassComponentTable (s : State) : Host.Outcome State Fault Refusal :=
  .next (onRequest (fun s =>
    if s.mgt.pldm = .learn then pldmOut "PassComponentTable" 0 [] (setPldm .ready s) else misplaced "PassComponentTable" s) s)

/-- UPDATE_COMPONENT: the transfer begins. -/
def execUpdateComponent (imageSize : Word) (s : State) : Host.Outcome State Fault Refusal :=
  .next (onRequest (fun s =>
    if s.mgt.pldm = .ready then
      pldmOut "UpdateComponent" 0 [] (setPldm (.download imageSize.toNat 0) { s with mgt := { s.mgt with image := [] } })
    else misplaced "UpdateComponent" s) s)

/-- REQUEST_FIRMWARE_DATA: the answer to the module's own request for the next 1,024 B; after the last it sends TransferComplete. -/
def execRequestFirmwareData (offset : Nat) (data : List Byte) (s : State) : Host.Outcome State Fault Refusal :=
  .next (onRequest (fun s =>
    match s.mgt.pldm with
    | .download size got =>
      let want := min 1024 (size - got)
      if offset ≠ got ∨ data.length ≠ want then s
      else
        let s := { s with mgt := { s.mgt with image := cellWrite offset data s.mgt.image } }
        if got + want < size then setPldm (.download size (got + want)) s
        else pldmOut "TransferComplete" 0 [] (setPldm (.verify size) s)
    | _ => s) s)

/-- The image transferred. -/
def pldmImage (s : State) (size : Nat) : List Byte := cellRead 0 size s.mgt.image

/-- VERIFY_COMPLETE: the checks of SEC.FW_STAGE; a failed one ends the update. -/
def execVerifyComplete (s : State) : Host.Outcome State Fault Refusal :=
  .next (if !portUp s then s
    else match s.mgt.pldm with
      | .verify size =>
        let img := pldmImage s size
        if imageLength img = size ∧ verifyImage s.fw img = .good then pldmOut "VerifyComplete" 0 [] (setPldm .apply s)
        else pldmOut "VerifyComplete" 1 [] (endUpdate s)
      | _ => s)

/-- APPLY_COMPLETE: the inactive slot is erased, written and read back. -/
def execApplyComplete (readBackOk : Bool) (s : State) : Host.Outcome State Fault Refusal :=
  .next (if !portUp s then s
    else match s.mgt.pldm with
      | .apply =>
        let img := pldmImage s (imageLength (pldmImage s 16))
        let s := writeSlot img readBackOk s
        if readBackOk then pldmOut "ApplyComplete" 0 [] (setPldm .activate s) else pldmOut "ApplyComplete" 1 [] (endUpdate s)
      | _ => s)

/-- ACTIVATE_FIRMWARE: as SEC.FW_ACTIVATE on the slot written. -/
def execActivateFirmware (s : State) : Host.Outcome State Fault Refusal :=
  .next (onRequest (fun s =>
    if s.mgt.pldm = .activate then pldmOut "ActivateFirmware" 0 [] (endUpdate (activateSlot (spareSlot s.fw) s))
    else misplaced "ActivateFirmware" s) s)

/-- CANCEL_UPDATE_COMPONENT: a write under way leaves the slot without a valid image. -/
def execCancelUpdateComponent (s : State) : Host.Outcome State Fault Refusal :=
  .next (onRequest (fun s =>
    if 3 ≤ pldmCode s.mgt.pldm ∧ pldmCode s.mgt.pldm ≤ 5 then
      let s := interruptStaging s
      pldmOut "CancelUpdateComponent" 0 [] (setPldm .ready { s with mgt := { s.mgt with image := [] } })
    else misplaced "CancelUpdateComponent" s) s)

/-- CANCEL_UPDATE. -/
def execCancelUpdate (s : State) : Host.Outcome State Fault Refusal :=
  .next (onRequest (fun s =>
    if s.mgt.pldm = .idle then misplaced "CancelUpdate" s else pldmOut "CancelUpdate" 0 [] (endUpdate (interruptStaging s))) s)

/-! ## The IEEE 1149.1 port (R477, R504) -/

def jtagOut (v : Nat) (s : State) : State := mgtOut (.jtag v) s

/-- One private instruction. Fuses only burn. -/
def jtagDo (op : JtagOp) (s : State) : State :=
  match op with
  | .readMem pa =>
    if backed s pa then jtagOut (memByte s pa).1.toNat s
    else
      let r := drawFree s
      jtagOut (r.2.toNat % 256) r.1
  | .writeMem pa v => if backed s pa then physPut pa [v] s else s
  | .readReg off => jtagOut (barRead s (off / 4 * 4)).toNat s
  | .writeReg off v => barStore (off / 4 * 4) 4 (v.setWidth 64) s
  | .readSecret => jtagOut s.fw.uniqueSecret.toNat s
  | .readFuses => jtagOut (leNat (Config.fuseBlock s.fw.keyHash s.fw.keyRevoked s.fw.rollback s.fw.fuseRemoved)) s
  | .writeFuses k n => { s with fw := { s.fw with keyRevoked := s.fw.keyRevoked ||| k, rollback := min 64 (max s.fw.rollback n) } }
  | .burnRemoval p => if strandOk p then { s with fw := { s.fw with fuseRemoved := insNat (strandId p) s.fw.fuseRemoved } } else s
  | .burnKeyHash k v => { s with fw := { s.fw with keyHash := setAt k (fun h => h ||| v) s.fw.keyHash } }
  | .burnSecret v => { s with fw := { s.fw with uniqueSecret := s.fw.uniqueSecret ||| v } }
  | .sign d =>
    let sig := ecdsaSign (identityKey s) (Config.signatureNonce s.freeCtr) d.toNat
    jtagOut (sig.1 * 2 ^ 384 + sig.2) { s with freeCtr := s.freeCtr + 1 }
  | .haltCore n => { s with mgt := { s.mgt with halted := insNat n s.mgt.halted } }
  | .programSlot b img => { s with fw := setVerified b false (setSlot b img s.fw) }
  | .programBoot b t ca cb => { s with fw := { s.fw with prefB := b, tries := t, confA := ca, confB := cb } }
  | .programMap es => { s with fw := { s.fw with stagedMap := es } }
  | .programCert c => { s with fw := { s.fw with cert := c } }
  | .programRecord n r =>
    { s with log := { s.log with area := if r.all (· == 0xFF) then kvErase n s.log.area else kvSet n r s.log.area } }
  | .eraseLogline => { s with log := { s.log with area := [] } }

/-- JTAG_PRIVATE_INSTRUCTION: from phase 1 until power is removed, whatever the service levels. -/
def execJtagPrivateInstruction (op : JtagOp) (s : State) : Host.Outcome State Fault Refusal :=
  .next (if boardUp s && s.pwr.phase != .tripped && decide (1 ≤ s.str.phasesDone) then jtagDo op s else s)

end Sys2Proof.Machine
end

