-- ==== Sys2Proof/Machine/Splice.lean ====
section
/-! DEFINITION. Splice: check fields, merging in order of arrival, finishing chunks, and what splice messages and time-outs do (R258, R265 to R280, R286 to R289, R420). -/

namespace Sys2Proof.Machine

/-! ## Check fields (R275) -/

/-- The 24-bit significand integer. -/
def sigOf (w : Word) : Nat :=
  let n := w.toNat
  n % 2 ^ 23 + (if n / 2 ^ 23 % 256 = 0 then 0 else 2 ^ 23)

def expOf (w : Word) : Nat := w.toNat / 2 ^ 23 % 256

/-- Bit 4 of a check field: with the sign and the exponent bits it holds an even number of ones. -/
def expParity (w : Word) : Nat := ((List.range 9).map fun i => bnat (bit w.toNat (23 + i))).sum % 2

/-- The check field of an element. The residue of a non-finite one is open (log 2). -/
def checkField (w : Word) : BitVec 5 :=
  BitVec.ofNat 5 ((if expOf w = 255 then Config.nonfiniteResidue w else sigOf w) % 15 + 16 * expParity w)

/-- Does an element agree with its check field? -/
def checkOk (w : Word) (c : BitVec 5) : Bool :=
  let r := c.toNat % 16
  r != 15 && c.toNat / 16 == expParity w && (expOf w == 255 || r == sigOf w % 15)

/-- Check an arriving packet's elements: a failing one is poisoned, with the field of the value that goes on, and the packet is marked; were there any (R275, R278)? -/
def checkArrival (m : SplMsg) : SplMsg × Bool :=
  let bad := List.zipWith (fun w c => !checkOk w c) m.elems m.checks
  let any := bad.any id
  let fields := List.zipWith (fun (e : Word × BitVec 5) (b : Bool) => if b then checkField e.1 else e.2) (List.zip m.elems m.checks) bad
  ({ m with checks := fields, poison := List.zipWith or m.poison bad, pflags := if any then m.pflags ||| 1 else m.pflags }, any)

/-! ## Slots and inputs (R266, R270) -/

/-- The local input among the inputs of a slot. -/
def localPos : Nat := 255

def slotAt (b : Bkt) (c : Nat) : Option Slot := b.slots.find? fun t => t.chunk == c

def putSlot (t : Slot) (b : Bkt) : Bkt := { b with slots := b.slots.filter (fun x => x.chunk != t.chunk) ++ [t] }

/-- The lowest chunk whose slot has not been released (R267). -/
def lowestChunk (b : Bkt) : Nat := firstGap 0 b.released

/-- A FIRST_MISSING field read (R273). -/
def missingOf (m : SplMsg) : Option Nat := if m.firstMissing.getLsbD 15 then some (m.firstMissing.toNat % 2 ^ 14) else none

/-- The lower of two missing devices. -/
def lowMissing (a b : Option Nat) : Option Nat :=
  match a, b with
  | some x, some y => some (min x y)
  | some x, none => some x
  | none, y => y

/-- Inputs a chunk still expects of: the local one and the upstreams not given up. -/
def expected (r : Route) (b : Bkt) : List Nat :=
  (if r.contrib then [localPos] else []) ++ (List.range r.ups.length).filter fun i => !b.upGone.contains i

def slotFull (r : Route) (b : Bkt) (t : Slot) : Bool := (expected r b).all t.taken.contains

/-- The first input of a chunk is stored unchanged (R270). -/
def firstInput (c pos : Nat) (m : SplMsg) : Slot :=
  { chunk := c, taken := [pos], elems := m.elems, checks := m.checks, poison := m.poison, count := m.count, devSum := m.devSum
    checkFail := m.pflags.getLsbD 0, partialSum := m.pflags.getLsbD 1, missing := missingOf m, sent := false }

/-- One addition of two running elements (R270). -/
def addEl (a b : Word) : Word := toB32 (rne32 ((b32 a).add (b32 b)))

/-! ## Lanes and their checkers (R272, R276, R277) -/

def splSign (w : Word) : Int := if w.toNat < 2 ^ 31 then 1 else -1

/-- Exponent of the significand's unit plus 23. -/
def splExp (w : Word) : Int := (max 1 (expOf w) : Nat) - 127

/-- The checker's prediction of the residue of a sum from the carried residues (R276). -/
def predict (x y : Word) (rx ry : Nat) : Nat :=
  let (a, b, ra, rb) := if splExp x < splExp y then (y, x, ry, rx) else (x, y, rx, ry)
  let d := (splExp a - splExp b).toNat
  let sum := splSign a * (sigOf a : Int) * 2 ^ d + splSign b * (sigOf b : Int)
  let n := sum.natAbs
  let er := max (-126) (splExp b - 23 + (Nat.log2 n : Int))
  let k := er - splExp b
  let f := if k ≤ 0 then 0 else n % 2 ^ k.toNat
  let t := if k ≤ 0 then n * 2 ^ (-k).toNat else n / 2 ^ k.toNat
  let inc := if 0 < k ∧ (2 ^ k.toNat < 2 * f ∨ (2 ^ k.toNat = 2 * f ∧ t % 2 = 1)) then 1 else 0
  let rs := (if sum < 0 then -1 else 1) * (splSign a * (ra : Int) * 2 ^ (d % 4) + splSign b * (rb : Int)) % 15
  let rt := (rs - (f % 15 : Nat)) * 2 ^ ((-k) % 4).toNat % 15
  let rr := (rt.toNat + inc) % 15
  if t + inc = 2 ^ 24 then rr * 8 % 15 else rr

/-- Does a checker reject an adder's result: its residue against the prediction, its sign and exponent against those of the sum? An addition with a non-finite operand or result is not checked (R276). -/
def checkerRejects (a b : Word) (ca cb : BitVec 5) (res : Word) : Bool :=
  expOf a != 255 && expOf b != 255 && expOf res != 255
    && (predict a b (ca.toNat % 16) (cb.toNat % 16) != sigOf res % 15 || res.toNat / 2 ^ 23 != (addEl a b).toNat / 2 ^ 23)

/-- The lane that adds an element, and its partner, among the working lanes paired in ascending order (log 14). -/
def lanePair (lanes : List Nat) (e : Nat) : Option (Nat × Nat) :=
  let n := lanes.length / 2 * 2
  if n = 0 then none else some (lanes.getD (e % n) 0, lanes.getD ((e % n) ^^^ 1) 0)

/-- What an addition comes to (R277): the element's value and poison, whether a checker disagreed, what is fenced, and whether the running value's or the input's source is charged. -/
structure LaneOut where
  value : Word
  poison : Bool
  seen : Bool
  fence : List Strand
  slot : Bool
  input : Bool
  deriving DecidableEq, Repr

/-- The table Splice arbitration, for a running value a and an input b (R277). -/
def splLaneOut (lanes : List Nat) (a b : Word) (u : LaneUpset) : LaneOut :=
  let ca := u.slotField.getD (checkField a)
  let cb := u.inputField.getD (checkField b)
  let r1 := u.first.getD (addEl a b)
  let r2 := u.second.getD (addEl a b)
  let rejects := fun (r : Word) (errs : Bool) => expOf a != 255 && expOf b != 255 && expOf r != 255 && (checkerRejects a b ca cb r != errs)
  match lanePair lanes u.elem with
  | none => { value := r1, poison := false, seen := false, fence := [], slot := false, input := false }
  | some (x, y) =>
    if !rejects r1 u.firstErrs then { value := r1, poison := false, seen := false, fence := [], slot := false, input := false }
    else if !rejects r2 u.secondErrs then
      { value := r2, poison := false, seen := true, fence := [if r1 = r2 then sCHK x else sADD x], slot := false, input := false }
    else if r1 = r2 ∧ (checkOk a ca = false ∨ checkOk b cb = false) then
      { value := r2, poison := true, seen := true, fence := [], slot := !checkOk a ca, input := !checkOk b cb }
    else
      { value := if r1 = r2 then r2 else Config.rejectedSum r1 r2, poison := true, seen := true
        fence := [sADD x, sCHK x, sADD y, sCHK y], slot := false, input := false }

/-- The disturbed additions of an input: element and outcome. -/
def laneOuts (lanes : List Nat) (t : Slot) (m : SplMsg) (us : List LaneUpset) : List (Nat × LaneOut) :=
  (us.filter fun u => decide (u.elem < m.elems.length)).map fun u => (u.elem, splLaneOut lanes (t.elems.getD u.elem 0) (m.elems.getD u.elem 0) u)

/-- A later input added into the slot (R270, R272, R277). -/
def laterInput (t : Slot) (pos : Nat) (m : SplMsg) (outs : List (Nat × LaneOut)) : Slot :=
  let es := outs.foldl (fun (es : List Word) o => setAt o.1 (fun _ => o.2.value) es) (List.zipWith addEl t.elems m.elems)
  let po := outs.foldl (fun (po : List Bool) o => setAt o.1 (fun p => p || o.2.poison) po) (List.zipWith or t.poison m.poison)
  { t with taken := t.taken ++ [pos], elems := es, checks := es.map checkField, poison := po, count := t.count + m.count
           devSum := t.devSum + m.devSum, checkFail := t.checkFail || m.pflags.getLsbD 0 || outs.any fun o => o.2.poison
           partialSum := t.partialSum || m.pflags.getLsbD 1, missing := lowMissing t.missing (missingOf m) }

/-- Adders and checkers that an addition of n elements uses. -/
def lanesUsed (lanes : List Nat) (n : Nat) : List Strand :=
  (lanes.take (min n (lanes.length / 2 * 2))).flatMap fun k => [sADD k, sCHK k]

/-- The lanes' part of an addition: injections, which strike and are found, what the arbitration fences, and the sources it charges: that of the input, and IZ/SPILL for the running value (R277, R407; log 136). -/
def addLanes (n : Nat) (from_ : Strand × Nat) (outs : List (Nat × LaneOut)) (s : State) : State :=
  let s := if s.str.armed.isEmpty then s else (lanesUsed (splLanes s) n).foldl (fun s p => fireArmed p 0 .none s) s
  let s := (outs.flatMap fun o => o.2.fence).foldl (fun s p => raiseEvent p 0 .none false false s) s
  let s := if outs.any fun o => o.2.slot then raiseEvent sSPILL 1 .none false false s else s
  if outs.any fun o => o.2.input then raiseEvent from_.1 from_.2 .none false false s else s

/-- Is an injection armed on a lane that the addition uses? -/
def laneArmed (s : State) (n : Nat) : Bool := !s.str.armed.isEmpty && (lanesUsed (splLanes s) n).any fun p => armedOn s p 0

/-- Storing a running chunk is a write of the spill store, at the chunk's slot (R266, R407). -/
def slotStored (b : Bkt) (c : Nat) (s : State) : State :=
  let at_ := 131072 * s.arr.splitApplied.toNat + 256 * (b.firstSlot + c % windowOf b)
  fireArmed sSPILL 1 (.word (8 * at_)) (fireArmed sSPILL 0 .none s)

/-! ## Messages of a bucket (R273) -/

def bktMsg (s : State) (x : Plan) (b : Bkt) (kind : Nat) : SplMsg :=
  { blankSpl with kind := BitVec.ofNat 8 kind, tag := BitVec.ofNat 16 b.tag, step := x.armed.getD 0, srcDev := ownDev s, jobKey := x.jobKey }

/-- The packet that carries a slot's contents: RUN or FINAL. -/
def slotMsg (s : State) (x : Plan) (b : Bkt) (kind : Nat) (t : Slot) : SplMsg :=
  { bktMsg s x b kind with
    pflags := BitVec.ofNat 8 (bnat t.checkFail + 2 * bnat t.partialSum), chunk := BitVec.ofNat 32 t.chunk, valid := t.elems.length
    count := t.count, devSum := t.devSum, firstMissing := BitVec.ofNat 16 (missingField t.missing), poison := t.poison
    elems := t.elems, checks := t.checks }

def sendTo (dests : List Nat) (m : SplMsg) (s : State) : State := dests.foldl (fun s d => sendSpl d m s) s

/-! ## Writing a finished chunk (R270, R271, R278 to R280, R287) -/

/-- The plan's context as an operand environment. -/
def planEnv (s : State) (x : Plan) : Env := { c := x.owner, x := ctxOf s x.owner, reach := reachHN }

/-- Where the elements of a chunk stand: local input and finished sum of a FULL bucket, or P and Q' in the work buffer. -/
def chunkVa (b : Bkt) (full c : Nat) : Nat :=
  let sp := chunkSpan b c
  (if b.lowrank then b.workVa + (if sp.1 = 0 then lrP b else lrQp b) else full) + 4 * sp.2.1

/-- Elements as bytes: every NaN canonical (R279). -/
def elemBytes (es : List Word) (po : List Bool) : List PByte :=
  (List.zip es po).flatMap fun (e : Word × Bool) => (leBytes 4 (toB32 (b32 e.1)).toNat).map fun v => (v, e.2)

/-- What a finished chunk adds to the bucket's record (R278 to R280, R287, R289). -/
def noteFinal (m : SplMsg) (b : Bkt) : Bkt :=
  let sound := (List.zip m.elems m.poison).filter fun (e : Word × Bool) => !e.2
  let bad := (m.poison.filter id).length
  let nf := (sound.filter fun e => expOf e.1 == 255).length
  { b with finals := insNat m.chunk.toNat b.finals
           statuses := b.statuses ++ (if m.pflags.getLsbD 0 then [stFLT_CHECK] else [])
             ++ (if b.receive && decide (0 < bad) then [stFLT_POISON] else [])
           partialSeen := b.partialSeen || m.pflags.getLsbD 1
           missing := lowMissing b.missing (missingOf m)
           nonfinite := b.nonfinite + (if b.receive then nf else 0)
           poisoned := b.poisoned + (if b.receive && !b.lowrank then bad else 0)
           contribCount := if b.finals.isEmpty then m.count else min b.contribCount m.count }

/-- A finished chunk reaches its place on this module: a write fault is the bucket's status and stops nothing else; the work buffer of a low-rank bucket is read later, so there it abandons (R271, R286). -/
def takeFinal (p e : Nat) (m : SplMsg) (s : State) : State :=
  match planOf s p, bktOf s p e with
  | some x, some b =>
    let w := if b.receive then stateWrite (planEnv s x) (chunkVa b b.outVa m.chunk.toNat) (elemBytes m.elems m.poison) s else (s, none)
    match w.2 with
    | none => updBkt p e (noteFinal m) w.1
    | some f =>
      let s := reportTable f w.1
      if b.lowrank then abandonBkt p e 3 none s
      else updBkt p e (fun b => let n := noteFinal m b; { n with poisoned := b.poisoned, statuses := n.statuses ++ [stFLT_ACCESS] }) s
  | _, _ => s

def isActive (s : State) (p e : Nat) : Bool := (bktOf s p e).any fun b => b.state == .active

/-! ## Finishing a chunk (R270, R272) -/

/-- The tail's check of count and device sum (R272). -/
def countOk (r : Route) (b : Bkt) (t : Slot) : Bool :=
  if b.proceed then decide (t.count ≤ r.c) else t.count == r.c && t.devSum == r.contribSum

def allSent (b : Bkt) : Bool := b.released.length + (b.slots.filter Slot.sent).length == chunksOf b

/-- A slot as it leaves: upstreams given up before they delivered the chunk are left out of its sum (R287). -/
def leaving (r : Route) (t : Slot) : Slot :=
  let out := (List.range r.ups.length).filter fun i => !t.taken.contains i
  { t with sent := true, partialSum := t.partialSum || !out.isEmpty
           missing := out.foldl (fun m i => lowMissing m (some (r.ups.getD i 0))) t.missing }

/-- A chunk that has taken every expected input: it goes downstream once its limit is granted, or at the tail is written and sent to the children. -/
def finishChunk (p e c : Nat) (s : State) : State :=
  match planOf s p, bktOf s p e with
  | some x, some b =>
    let r := routeOf x b
    match slotAt b c with
    | none => s
    | some t =>
      if b.state != .active || t.sent || !slotFull r b t then s
      else
        let t := leaving r t
        if r.tail then
          if !countOk r b t then abandonBkt p e 2 none s
          else
            let m := slotMsg s x b 1 t
            let s := takeFinal p e m (updBkt p e (putSlot t) s)
            if isActive s p e then sendTo r.children m s else s
        else if b.grantIn ≤ c then s
        else
          let s := sendSpl r.down (slotMsg s x b 0 t) s
          updBkt p e (fun b =>
            let b := putSlot t b
            if allSent b then { b with sentLastMs := some s.clk.uptimeMs } else b) s
  | _, _ => s

/-- Every chunk that can be finished is. -/
def flushBkt (p e : Nat) (s : State) : State :=
  match bktOf s p e with
  | some b => (sortBy id (b.slots.map Slot.chunk)).foldl (fun s c => finishChunk p e c s) s
  | none => s

/-! ## Merging an input (R270, R277) -/

/-- An input from a source, which a check error of it would charge, reaches its chunk's slot. -/
def mergeInput (p e pos : Nat) (from_ : Strand × Nat) (m : SplMsg) (us : List LaneUpset) (s : State) : State :=
  match bktOf s p e with
  | none => s
  | some b =>
    let c := m.chunk.toNat
    let s := match slotAt b c with
      | none => updBkt p e (putSlot (firstInput c pos m)) s
      | some t =>
        let outs := laneOuts (splLanes s) t m us
        let t' := laterInput t pos m outs
        let seen := outs.any (fun o => o.2.seen) || laneArmed s m.elems.length
        let s := updBkt p e (fun b => putSlot t' { b with
          checkSeen := b.checkSeen || seen
          statuses := if outs.any (fun o => o.2.poison) then b.statuses ++ [stFLT_CHECK] else b.statuses }) s
        addLanes m.elems.length from_ outs s
    finishChunk p e c (slotStored b c s)

/-! ## Arriving messages (R274, R275, R420) -/

/-- The bucket that a tag names among the loaded plans: plan, entry. -/
def splMatch (s : State) (tag : Nat) : Option (Nat × Nat) :=
  s.spl.plans.findSome? fun (kv : Nat × Plan) => (kv.2.buckets.findIdx? fun b => b.tag == tag).map fun e => (kv.1, e)

/-- Is a step older than another, counted modulo 2^16? -/
def olderStep (a b : BitVec 16) : Bool := a != b && decide ((b - a).toNat < 2 ^ 15)

def countStray (p : Nat) (s : State) : State := updPlan p (fun x => { x with stray := satWord x.stray 1 }) s
def countStale (p : Nat) (s : State) : State := updPlan p (fun x => { x with stale := satWord x.stale 1 }) s

/-- A message that fails a check of R274: dropped and counted. -/
def dropSpl (p : Nat) (m : SplMsg) (s : State) : State :=
  match (planOf s p).bind Plan.armed with
  | some st => if olderStep m.step st then countStale p s else countStray p s
  | none => countStray p s

/-- Does a message name the armed step of the plan under its job key? -/
def splNames (x : Plan) (m : SplMsg) : Bool := x.armed == some m.step && x.jobKey == m.jobKey

/-- The bucket is found by TAG, which no two loaded buckets share; a message whose TAG no loaded plan holds is dropped and counted in no plan's STRAY (DESIGN CHOICE, log 137: R274 does not say which plan would count it).
Act on a delivered splice message of a kind, read back from its bytes; from STOP of a reset of IZ on, once ABANDON has gone out, it is dropped and its credits return (R420). -/
def onSpl (l kind : Nat) (m : SplMsg) (act : Nat → Nat → Plan → Bkt → SplMsg → State → State) (s : State) : State :=
  let bytes := splBytes { m with kind := BitVec.ofNat 8 kind }
  match takeArrival l 2 bytes s with
  | none => s
  | some (_, s) =>
    if 3 ≤ phaseAt s sIZ then s
    else
      let m := splOf bytes
      match splMatch s m.tag.toNat with
      | none => s
      | some (p, e) =>
        match planOf s p, bktOf s p e with
        | some x, some b => if splNames x m then act p e x b m s else dropSpl p m s
        | _, _ => s

/-- Does a packet spell a chunk of the bucket, whole? -/
def chunkFits (b : Bkt) (m : SplMsg) : Bool :=
  decide (m.chunk.toNat < chunksOf b) && m.valid == (chunkSpan b m.chunk.toNat).2.2

def upPos (r : Route) (m : SplMsg) : Option Nat := r.ups.findIdx? fun d => d == m.srcDev.toNat

def runArrives (l : Nat) (us : List LaneUpset) (p e : Nat) (x : Plan) (b : Bkt) (m : SplMsg) (s : State) : State :=
  match upPos (routeOf x b) m with
  | none => countStray p s
  | some pos =>
    if b.state != .active then countStray p s
    else if b.upGone.contains pos then countStale p s
    else if !chunkFits b m || decide (b.grantOut ≤ m.chunk.toNat) || b.upTaken.contains (pos, m.chunk.toNat) then countStray p s
    else
      let k := checkArrival m
      let s := updBkt p e (fun b => { b with
        upTaken := b.upTaken ++ [(pos, m.chunk.toNat)]
        checkSeen := b.checkSeen || k.2
        statuses := if k.2 then b.statuses ++ [stFLT_CHECK] else b.statuses }) s
      let s := mergeInput p e pos (sL l, 2) k.1 us s
      if k.2 then raiseEvent (sL l) 2 .none false false s else s

/-- SPL_MSG_RUN (R270, R274, R275). -/
def execSplMsgRun (l : Nat) (m : SplMsg) (us : List LaneUpset) (s : State) : Host.Outcome State Fault Refusal :=
  .next (met s (onSpl l 0 m (runArrives l us) s))

/-- A bucket that does not reduce in low-rank mode is complete when every chunk is written and forwarded (R289). -/
def finalsDone (p e : Nat) (s : State) : State :=
  match bktOf s p e with
  | some b => if b.state = .active ∧ b.lowrank = false ∧ b.finals.length = chunksOf b then completeBkt p e .done s else s
  | none => s

def finalArrives (l p e : Nat) (x : Plan) (b : Bkt) (m : SplMsg) (s : State) : State :=
  let r := routeOf x b
  if r.tail || r.parent != m.srcDev.toNat || b.state != .active || !chunkFits b m || b.finals.contains m.chunk.toNat then countStray p s
  else
    let k := checkArrival m
    let s := if k.2 then updBkt p e (fun b => { b with checkSeen := true }) s else s
    let s := takeFinal p e k.1 s
    let s := if isActive s p e then sendTo r.children { k.1 with srcDev := ownDev s } s else s
    let s := if k.2 then raiseEvent (sL l) 2 .none false false s else s
    finalsDone p e s

/-- SPL_MSG_FINAL (R271, R278). -/
def execSplMsgFinal (l : Nat) (m : SplMsg) (s : State) : Host.Outcome State Fault Refusal := .next (met s (onSpl l 1 m (finalArrives l) s))

def grantArrives (p e : Nat) (x : Plan) (b : Bkt) (m : SplMsg) (s : State) : State :=
  let r := routeOf x b
  if r.tail || r.down != m.srcDev.toNat || bktDone b || b.state == .idle then countStray p s
  else flushBkt p e (updBkt p e (fun b => { b with grantIn := max b.grantIn m.chunk.toNat }) s)

/-- SPL_MSG_GRANT (R267, R274). -/
def execSplMsgGrant (l : Nat) (m : SplMsg) (s : State) : Host.Outcome State Fault Refusal := .next (met s (onSpl l 2 m grantArrives s))

/-- SPL_MSG_ABANDON: an active bucket is abandoned with the same cause, and the message goes on (R286). -/
def execSplMsgAbandon (l : Nat) (m : SplMsg) (s : State) : Host.Outcome State Fault Refusal :=
  .next (met s (onSpl l 3 m (fun p e _ b m s => if b.state = .active then abandonBkt p e m.cause.toNat (missingOf m) s else s) s))

/-! ## Activation (R265, R267, R171) -/

/-- The next bucket of a plan to become active: every earlier one is, or was. -/
def nextArmed (x : Plan) : Option Nat :=
  match x.buckets.findIdx? fun b => b.state == .armed with
  | some e => if (x.buckets.take e).any (fun b => b.state == .idle) then none else some e
  | none => none

/-- Plans armed before this one that still have a bucket waiting (log 14). -/
def earlierWaits (s : State) (p : Nat) : Bool :=
  (s.spl.order.takeWhile (· != p)).any fun q => (planOf s q).any fun x => (nextArmed x).isSome

def sendGrant (x : Plan) (b : Bkt) (limit : Nat) (s : State) : State :=
  sendTo (routeOf x b).ups { bktMsg s x b 2 with chunk := BitVec.ofNat 32 limit } s

/-- The window that the bucket's activation takes now, if it can become active. -/
def activation (s : State) (p : Nat) : Option (Plan × Nat × Bkt × Nat) :=
  match planOf s p with
  | none => none
  | some x =>
    if x.armed.isNone || s.arr.splitReq != s.arr.splitApplied || earlierWaits s p || outOfUse s sIZ then none
    else
      match nextArmed x with
      | none => none
      | some e =>
        match x.buckets[e]? with
        | none => none
        | some b => (freeWindow s (windowOf b)).map fun f => (x, e, b, f)

/-- SPL_BUCKET_ACTIVATE. -/
def execSplBucketActivate (p : Nat) (s : State) : Host.Outcome State Fault Refusal :=
  .next (match activation s p with
    | none => s
    | some (x, e, b, f) =>
      let s := updBkt p e (fun b => { b with state := .active, activeMs := s.clk.uptimeMs, firstSlot := f, grantOut := windowOf b }) s
      let s := sendGrant x b (windowOf b) s
      -- with fewer than two lanes working no bucket stays active (R277)
      if (splLanes s).length < 2 then abandonBkt p e 4 none s else s)

/-! ## The local contribution (R258, R267, R269, R270) -/

/-- May the chunk be read now? A low-rank bucket reads P after step 2 and Q' after step 5 (R281). -/
def mayRead (x : Plan) (b : Bkt) (c : Nat) : Bool :=
  b.state == .active && x.begun && (routeOf x b).contrib && (!b.startContrib || b.contribGiven.isSome)
    && decide (c < chunksOf b) && decide (c < lowestChunk b + windowOf b) && !b.localRead.contains c
    && (!b.lowrank || (if c < pChunks b then decide (2 ≤ b.lrStep) else decide (5 ≤ b.lrStep)))

/-- The elements of a chunk read from memory, with their poison. -/
def readElems (s : State) (x : Plan) (va n : Nat) : Except AFault (List (Word × Bool)) :=
  match stateRead s (planEnv s x) va (4 * n) with
  | .error f => .error f
  | .ok bs => .ok ((chunks 4 bs).map fun (w : List PByte) => (BitVec.ofNat 32 (leNat (w.map Prod.fst)), anyPoison w))

def localMsg (s : State) (x : Plan) (b : Bkt) (c : Nat) (els : List (Word × Bool)) : SplMsg :=
  { bktMsg s x b 0 with
    chunk := BitVec.ofNat 32 c, valid := els.length, count := 1, devSum := (ownDev s).setWidth 32, poison := els.map Prod.snd
    elems := els.map Prod.fst, checks := els.map fun v => checkField v.1 }

/-- SPL.CONTRIB replies when the last local chunk has been read (R269). -/
def contribRead (p e : Nat) (s : State) : State :=
  match bktOf s p e with
  | some b =>
    match b.contribGiven with
    | some uid => if b.localRead.length = chunksOf b then finish uid (okCnt (sat32 (chunksOf b)) 0 0 0) s else s
    | none => s
  | none => s

/-- SPL_LOCAL_READ. -/
def execSplLocalRead (p e c : Nat) (us : List LaneUpset) (s : State) : Host.Outcome State Fault Refusal :=
  .next (met s (match planOf s p, bktOf s p e with
    | some x, some b =>
      if !mayRead x b c then s
      else
        let n := (chunkSpan b c).2.2
        match readElems s x (chunkVa b b.gVa c) n with
        | .error f => abandonBkt p e 3 none (reportTable f s)
        | .ok els =>
          let s := detectVa reachHN x.owner (chunkVa b b.gVa c) (4 * n) s
          let s := contribRead p e (updBkt p e (fun b => { b with localRead := insNat c b.localRead }) s)
          -- an injected residue is found, and charged to the generator (R277, R396)
          let s := fireArmed sGEN 0 .none s
          if isActive s p e then mergeInput p e localPos (sGEN, 0) (localMsg s x b c els) us s else s
    | _, _ => s))

/-! ## Releasing slots (R267, R268, R289) -/

/-- Does a splice packet of the bucket's chunk still wait for a link? -/
def waitsForLink (s : State) (x : Plan) (b : Bkt) (c : Nat) : Bool :=
  let kind : Nat := bnat (routeOf x b).tail
  s.lnk.links.any fun k => (((k.vcs.getD 2 Vc.initial).tx.map Prod.fst).toList ++ (k.vcs.getD 2 Vc.initial).txq).any fun (o : Outbound) =>
    o.origin.isNone && (o.bytes.getD 0 0).toNat == kind && leAt 2 2 o.bytes == b.tag && leAt 12 4 o.bytes == c
      && leAt 8 4 o.bytes == x.jobKey.toNat

/-- SPL_SLOT_RELEASE: the slot is free, and the limit of the upstreams rises. -/
def execSplSlotRelease (p e c : Nat) (s : State) : Host.Outcome State Fault Refusal :=
  .next (met s (match planOf s p, bktOf s p e with
    | some x, some b =>
      if b.state != .active || !((slotAt b c).any Slot.sent) || waitsForLink s x b c then s
      else
        let b' := { b with released := insNat c b.released, slots := b.slots.filter fun t => t.chunk != c }
        let limit := lowestChunk b' + windowOf b'
        let b'' := { b' with grantOut := max b'.grantOut limit }
        let s := updBkt p e (fun _ => b'') s
        let s := if b.grantOut < limit then sendGrant x b limit s else s
        if (routeOf x b).tail then (if b''.released.length = chunksOf b then finalsDone p e s else s) else s
    | _, _ => s))

/-! ## Time-outs (R287) -/

/-- Upstream positions that have not delivered every chunk. -/
def undelivered (r : Route) (b : Bkt) : List Nat :=
  (List.range r.ups.length).filter fun i =>
    !b.upGone.contains i && decide ((b.upTaken.filter fun t => t.1 == i).length < chunksOf b)

def elapsedMs (s : State) (since : Word) : Nat := (s.clk.uptimeMs - since).toNat

/-- SPL_WAIT_TIMEOUT: WAIT_MS has passed since the bucket's activation with an upstream undelivered. -/
def execSplWaitTimeout (p e : Nat) (s : State) : Host.Outcome State Fault Refusal :=
  .next (met s (match planOf s p, bktOf s p e with
    | some x, some b =>
      let r := routeOf x b
      let late := undelivered r b
      if b.state != .active || late.isEmpty || decide (elapsedMs s b.activeMs < r.waitMs) then s
      else
        let named := late.foldl (fun m i => lowMissing m (some (r.ups.getD i 0))) none
        if b.proceed then
          flushBkt p e (updBkt p e (fun b => { b with upGone := b.upGone ++ late, missing := lowMissing b.missing named }) s)
        else abandonBkt p e 1 named s
    | _, _ => s))

/-- SPL_FINAL_TIMEOUT: FINAL_MS has passed since the last running sum was sent, and the finished sum has not arrived. -/
def execSplFinalTimeout (p e : Nat) (s : State) : Host.Outcome State Fault Refusal :=
  .next (met s (match planOf s p, bktOf s p e with
    | some x, some b =>
      let r := routeOf x b
      match b.sentLastMs with
      | none => s
      | some t =>
        if b.state != .active || r.tail || b.finals.length == chunksOf b || decide (elapsedMs s t < r.finalMs) then s
        else abandonBkt p e 1 none s
    | _, _ => s))

end Sys2Proof.Machine
end

