-- ==== Sys2Proof/Machine/SpliceCommands.lean ====
section
/-! DEFINITION. The splice commands: SPL.PLAN, OPEN, CONTRIB, LOWRANK, CLOSE, STATUS; and SPILL_SPLIT_APPLY, for which SPL.OPEN waits (R171, R259 to R264, R269, R285, R290, R291, R376, R377). -/

namespace Sys2Proof.Machine

/-- Word 0, where splice is below service level C (R400). -/
def splDegraded (s : State) : List Nat := badIf (!levelC s) 0

/-! ## A plan in memory (R260 to R262) -/

/-- The word that holds byte `off` of a plan, as CNT0 names it (R360). -/
def planWord (off : Nat) : Nat := 0x80000000 + off / 4 * 4

/-- Nonzero bytes among [off, off + n) that must be 0. -/
def zeroBytes (b : List Byte) (off n : Nat) : List Nat := ((List.range n).filter fun i => leAt (off + i) 1 b != 0).map fun i => off + i

/-- An offending byte offset, where the condition holds. -/
def badAt (c : Bool) (off : Nat) : List Nat := if c then [off] else []

def devAt (o : Nat) (b : List Byte) : Nat := leAt o 2 b

def routeAt (b : List Byte) : Route :=
  let fl := leAt 1 1 b
  { contrib := bit fl 0, tail := bit fl 1, down := devAt 4 b, parent := devAt 6 b
    ups := (List.range (min 4 (leAt 0 1 b))).map fun i => devAt (8 + 2 * i) b
    children := (List.range (min 8 (leAt 2 1 b))).map fun i => devAt (16 + 2 * i) b
    c := leAt 32 2 b, contribSum := BitVec.ofNat 32 (leAt 36 4 b), waitMs := leAt 40 4 b, finalMs := leAt 44 4 b }

/-- Is a device ID none that a route may name: above 16,383, or this module's own (R261)? -/
def devBad (s : State) (d : Nat) : Bool := decide (16383 < d) || (s.lnk.deviceIdValid && d == s.lnk.deviceId.toNat)

/-- Offending bytes of a route set. -/
def routeBad (s : State) (b : List Byte) : List Nat :=
  let nUp := leAt 0 1 b
  let fl := leAt 1 1 b
  let nChild := leAt 2 1 b
  let tail := bit fl 1
  badAt (decide (4 < nUp) || (nUp == 0 && !bit fl 0)) 0 ++ badAt (decide (3 < fl)) 1 ++ badAt (decide (8 < nChild)) 2 ++ zeroBytes b 3 1
    ++ badAt (!tail && devBad s (devAt 4 b)) 4 ++ badAt (!tail && devBad s (devAt 6 b)) 6
    ++ (List.range 4).flatMap (fun i => badAt (if i < nUp then devBad s (devAt (8 + 2 * i) b) else devAt (8 + 2 * i) b != 0) (8 + 2 * i))
    ++ (List.range 8).flatMap (fun i => badAt (if i < nChild then devBad s (devAt (16 + 2 * i) b) else devAt (16 + 2 * i) b != 0) (16 + 2 * i))
    ++ badAt (leAt 32 2 b == 0 || decide (16384 < leAt 32 2 b)) 32 ++ zeroBytes b 34 2
    ++ badAt (leAt 40 4 b == 0 || decide (60000 < leAt 40 4 b)) 40 ++ badAt (leAt 44 4 b == 0 || decide (60000 < leAt 44 4 b)) 44
    ++ zeroBytes b 48 16

/-- Is the entry loaded as FULL because its tensor is small (R263)? -/
def demotes (lrMin : Nat) (b : List Byte) : Bool := leAt 2 1 b == 1 && decide (leAt 8 4 b * leAt 12 4 b < lrMin)

/-- A bucket entry as it is loaded. -/
def bktAt (lrMin : Nat) (b : List Byte) : Bkt :=
  let fl := leAt 3 1 b
  let dem := demotes lrMin b
  { tag := leAt 0 2 b, lowrank := leAt 2 1 b == 1 && !dem, demoted := dem, receive := bit fl 0, startContrib := bit fl 1
    proceed := bit fl 2, doneSignal := bit fl 3, route := leAt 4 1 b, rank := leAt 5 1 b, windowLog2 := leAt 6 1 b, rows := leAt 8 4 b
    cols := leAt 12 4 b, gVa := leAt 16 8 b, outVa := leAt 24 8 b, eVa := leAt 32 8 b, qVa := leAt 40 8 b, workVa := leAt 48 8 b
    doneHitch := leAt 56 2 b, state := .idle, activeMs := 0, sentLastMs := none, firstSlot := 0, slots := [], released := []
    grantIn := 0, grantOut := 0, localRead := [], contribGiven := none, upTaken := [], upGone := [], finals := [], statuses := []
    partialSeen := false, checkSeen := false, missing := none, cause := 0, nonfinite := 0, poisoned := 0, contribCount := 0
    deficient := 0, mFormed := false, reformed := false, lrStep := 0 }

/-- Do any two of the ranges (address, length) overlap? -/
def anyOverlap : List (Nat × Nat) → Bool
  | [] => false
  | a :: t => t.any (fun b => overlap a.1 a.2 b.1 b.2) || anyOverlap t

/-- What R263 asks of an entry that stays LOWRANK. -/
def lowrankBad (routes : List Route) (k : Bkt) (pr : Bool) : List Nat :=
  let r := k.rank
  let mn := k.rows * k.cols
  badAt (pr || !k.receive) 3
    ++ badAt (!(routes.getD k.route noRoute).contrib || decide (k.rows < r) || decide (k.cols < r) || decide (2 ^ 24 < k.rows * r)) 4
    ++ badAt (anyOverlap [(k.gVa, 4 * mn), (k.outVa, 4 * mn), (k.eVa, 4 * mn), (k.workVa, lrWork k)]) 16

/-- Offending bytes of a bucket entry. -/
def bktBad (lrMin : Nat) (routes : List Route) (b : List Byte) : List Nat :=
  let mode := leAt 2 1 b
  let rank := leAt 5 1 b
  let w := leAt 6 1 b
  let rows := leAt 8 4 b
  let cols := leAt 12 4 b
  let k := bktAt lrMin b
  badAt (decide (1 < mode)) 2 ++ badAt (decide (15 < leAt 3 1 b)) 3 ++ badAt (decide (routes.length ≤ leAt 4 1 b)) 4
    ++ badAt (if mode = 1 then rank == 0 || decide (64 < rank) else rank != 0) 5
    ++ badAt (w != 0 && (decide (w < 4) || decide (10 < w))) 6 ++ zeroBytes b 7 1
    ++ badAt (rows == 0 || decide (2 ^ 30 < rows)) 8 ++ badAt (cols == 0 || decide (2 ^ 30 < cols) || decide (2 ^ 30 < rows * cols)) 12
    ++ [16, 24, 32, 40, 48].flatMap (fun o => badAt (leAt o 8 b % 64 != 0) o) ++ zeroBytes b 58 6
    ++ (if k.lowrank then lowrankBad routes k k.proceed else [])

/-- Routes and buckets of a header. -/
def planRoutes (h : List Byte) : Nat := leAt 8 1 h
def planBkts (h : List Byte) : Nat := leAt 2 2 h
def planLrMin (h : List Byte) : Nat := if leAt 12 4 h = 0 then 65536 else leAt 12 4 h

/-- Offending bytes of the header, apart from its addresses. -/
def planHeadBad (h : List Byte) : List Nat :=
  badAt (decide (15 < leAt 0 1 h)) 0 ++ zeroBytes h 1 1 ++ badAt (planBkts h == 0 || decide (4096 < planBkts h)) 2
    ++ badAt (planRoutes h == 0 || decide (16 < planRoutes h)) 8 ++ zeroBytes h 9 3 ++ zeroBytes h 28 36

/-- The bytes of a plan: its header, and the rest where the header says how much there is. -/
def planBytes (s : State) (v : Env) (va : Nat) : Except AFault (List PByte) :=
  match vaRead s v.reach v.c va 64 with
  | .error f => .error f
  | .ok h =>
    if anyPoison h || !(planHeadBad (h.map Prod.fst)).isEmpty then .ok h
    else vaRead s v.reach v.c va (64 + 64 * (planRoutes (h.map Prod.fst) + planBkts (h.map Prod.fst)))

def loadedEntries (s : State) : Nat := (s.spl.plans.map fun kv => kv.2.buckets.length).sum

/-- A plan read from its bytes. -/
def planAt (owner : Nat) (b : List Byte) : Plan :=
  { owner := owner, jobKey := BitVec.ofNat 32 (leAt 4 4 b), lrMin := planLrMin b, statusVa := leAt 16 8 b, spWork := leAt 24 4 b
    routes := (List.range (planRoutes b)).map fun i => routeAt (slice (64 + 64 * i) 64 b)
    buckets := (List.range (planBkts b)).map fun i => bktAt (planLrMin b) (slice (64 + 64 * (planRoutes b + i)) 64 b)
    armed := none, prevStep := none, hitch := 0, v := 0, begun := false, stray := 0, stale := 0 }

/-- Entries whose tag an earlier entry or a loaded plan has. -/
def repeatedTags (s : State) (tags : List Nat) : List Nat :=
  let loaded := s.spl.plans.flatMap fun kv => kv.2.buckets.map Bkt.tag
  (List.range tags.length).filter fun i => loaded.contains (tags.getD i 0) || (tags.take i).contains (tags.getD i 0)

def planParam (p : Packet) : List Nat := vaField p 4 ++ badIf (dw p 4 % 64 != 0) 4 ++ zeroWords p [6, 7]

/-- Offending words of a plan that was read. -/
def planBad (s : State) (v : Env) (b : List Byte) : List Nat :=
  let head := planHeadBad b
  let sva := leAt 16 8 b
  let x := planAt v.c b
  let first := 64 + 64 * planRoutes b
  if !head.isEmpty then head
  else
    badAt (sva % 32 != 0 || (stateFault s v sva (32 * planBkts b) true).isSome) 16
      ++ (List.range (planRoutes b)).flatMap (fun i => (routeBad s (slice (64 + 64 * i) 64 b)).map (· + (64 + 64 * i)))
      ++ (List.range (planBkts b)).flatMap (fun i => (bktBad (planLrMin b) x.routes (slice (first + 64 * i) 64 b)).map (· + (first + 64 * i)))

def planChecks (s : State) (p : Packet) (b : List Byte) : Checks :=
  let v := envHN s p
  let x := planAt v.c b
  let first := 64 + 64 * planRoutes b
  let loaded := planOf s (leAt 0 1 b)
  { noChecks with
    param := planParam p ++ (planBad s v b).map planWord
    permission := badIf (loaded.any fun y => y.owner != v.c) (planWord 0)
      ++ (List.range x.buckets.length).flatMap fun i => match x.buckets[i]? with
          | some k => badIf (k.doneSignal && !ownsHitch s v.c k.doneHitch) (planWord (first + 64 * i + 56))
          | none => []
    degraded := splDegraded s
    conflict := badIf loaded.isSome (planWord 0) ++ (repeatedTags s (x.buckets.map Bkt.tag)).map fun i => planWord (first + 64 * i)
    resource := badIf (decide (4096 < loadedEntries s + planBkts b)) (planWord 2) }

/-- Load a plan (R259, R263, R377). -/
def loadPlan (p : Packet) (b : List Byte) (s : State) : State × Result :=
  let x := planAt (issuerCtx s p.issuer) b
  let dem := (x.buckets.filter Bkt.demoted).length
  let s := setPlan (leAt 0 1 b) x s
  (s, { okRes with cnt0 := sat32 dem, cnt1 := sat32 x.buckets.length, cnt2 := sat32 (4096 - loadedEntries s), detail := dIf (decide (0 < dem)) (dfOp 40) })

def runPlan (uid : Nat) (p : Packet) (s : State) : State :=
  let early := verdict { noChecks with param := planParam p, degraded := splDegraded s }
  let free := fun (s : State) (r : Result) => ({ r with cnt2 := sat32 (4096 - loadedEntries s) } : Result)
  match planBytes s (envHN s p) (dw p 4) with
  | .error f => runNow (fun s p => { noChecks with param := planParam p, degraded := splDegraded s }) (fun _ s => let r := faulted f s; (r.1, free s r.2)) uid p s
  | .ok bs =>
    let s := if early.isNone then detectVa reachHN (issuerCtx s p.issuer) (dw p 4) bs.length s else s
    if anyPoison bs then
      runNow (fun s p => { noChecks with param := planParam p, degraded := splDegraded s }) (fun _ s => (s, free s (ranResult none true false 0 0 0 0 0))) uid p s
    else runNow (fun s p => planChecks s p (bs.map Prod.fst)) (fun p s => loadPlan p (bs.map Prod.fst) s) uid p s

/-- SPL.PLAN. -/
def execSplPlan (p : Packet) (s : State) : Host.Outcome State Fault Refusal := .next (met s (takeUp 0x0701 runPlan p s))

/-! ## Fields shared by the other commands -/

def splPlanId (p : Packet) : Nat := pf p 4 3 0
def splTag (p : Packet) : Nat := pf p 4 31 16

/-- Word 4, where the plan it names is not loaded. -/
def notLoaded (s : State) (p : Packet) : List Nat := badIf (planOf s (splPlanId p)).isNone 4

/-- Word 4, where the plan belongs to another context (R259). -/
def notOwner (s : State) (p : Packet) : List Nat :=
  badIf ((planOf s (splPlanId p)).any fun x => x.owner != issuerCtx s p.issuer) 4

/-- The entry of a tag in a plan. -/
def entryOf (s : State) (p tag : Nat) : Option Nat := (planOf s p).bind fun x => x.buckets.findIdx? fun b => b.tag == tag

def isArmed (s : State) (p : Nat) : Bool := (planOf s p).any fun x => x.armed.isSome

/-- The bucket that word 4 names. -/
def splBkt (s : State) (p : Packet) : Option Bkt := (entryOf s (splPlanId p) (splTag p)).bind fun e => bktOf s (splPlanId p) e

/-! ## SPL.OPEN (R264) -/

def openStep (p : Packet) : BitVec 16 := BitVec.ofNat 16 (splTag p)

def largestWindow (x : Plan) : Nat := x.buckets.foldl (fun m b => max m (windowOf b)) 0

/-- What rejects SPL.OPEN whatever the split: the unit must be able to start a plan (R264, R396, R400). -/
def openEarly (s : State) (p : Packet) : Checks :=
  { noChecks with
    param := resv p 4 0xFFFF000F ++ resv p 5 0xFFFF ++ notLoaded s p
    permission := notOwner s p ++ badIf (!ownsHitch s (issuerCtx s p.issuer) (pf p 5 15 0)) 5
    degraded := badIf (!levelC s || !levelF s || outOfUse s sSPILL || outOfUse s sGEN || outOfUse s sSPL || decide ((splLanes s).length < 2)) 0
    conflict := badIf ((planOf s (splPlanId p)).any fun x => x.armed.isSome || x.prevStep == some (openStep p)) 4 }

def openChecks (s : State) (p : Packet) : Checks :=
  { openEarly s p with resource := badIf ((planOf s (splPlanId p)).any fun x => decide (slotsTotal s < largestWindow x)) 4 }

/-- A bucket armed afresh; REFORMED stays for its next activation (R285). -/
def armBkt (b : Bkt) : Bkt :=
  { b with state := .armed, activeMs := 0, sentLastMs := none, firstSlot := 0, slots := [], released := [], grantIn := 0, grantOut := 0
           localRead := [], contribGiven := none, upTaken := [], upGone := [], finals := [], statuses := [], partialSeen := false
           checkSeen := false, missing := none, cause := 0, nonfinite := 0, poisoned := 0, contribCount := 0, deficient := 0
           mFormed := false, lrStep := 0 }

def openEffect (p : Packet) (s : State) : State × Result :=
  match planOf s (splPlanId p) with
  | none => (s, okRes)
  | some x =>
    let h := pf p 5 15 0
    let v : DWord := BitVec.ofNat 64 (dw p 6)
    let x' := { x with armed := some (openStep p), prevStep := some (openStep p), hitch := h, v := v
                       begun := decide (v.toNat ≤ (hitchOf s h).value.toNat), buckets := x.buckets.map armBkt }
    let s := setPlan (splPlanId p) x' s
    ({ s with spl := { s.spl with order := s.spl.order ++ [splPlanId p] } }, okCnt (sat32 x.buckets.length) (sat32 (largestWindow x)) 0 0)

def runOpen (uid : Nat) (p : Packet) (s : State) : State :=
  if splitPending s && (verdict (openEarly s p)).isNone then addJob (newJob s uid p .splOpen) s
  else runNow openChecks openEffect uid p s

/-- SPL.OPEN. -/
def execSplOpen (p : Packet) (s : State) : Host.Outcome State Fault Refusal := .next (met s (takeUp 0x0702 runOpen p s))

/-- An SPL.OPEN that waited for the split arms now, or is rejected (R171, R264). -/
def retryOpen (s : State) (j : Job) : State :=
  match j.work, j.res with
  | .splOpen, none =>
    match verdict (openChecks s j.pkt) with
    | some r => finish j.uid r s
    | none => let r := openEffect j.pkt s; finish j.uid r.2 r.1
  | _, _ => s

/-- Does the splice unit hold a merge slot (R171)? -/
def mergeHeld (s : State) : Bool := !(activeWindows s).isEmpty

/-- SPILL_SPLIT_APPLY: the pending split takes force, and what waited for it goes on (R171). -/
def execSpillSplitApply (s : State) : Host.Outcome State Fault Refusal :=
  .next (if areaHeld s || mergeHeld s then s
    else
      let s := { s with arr := { s.arr with splitApplied := s.arr.splitReq } }
      s.jobs.foldl retryOpen s)

/-! ## SPL.CONTRIB (R269) -/

def contribChecks (s : State) (p : Packet) : Checks :=
  { noChecks with
    param := resv p 4 0xFFFF000F ++ zeroWords p [5, 6, 7] ++ notLoaded s p ++ badIf (!((splBkt s p).any Bkt.startContrib)) 4
    permission := notOwner s p
    degraded := splDegraded s
    conflict := badIf (!isArmed s (splPlanId p) || !((planOf s (splPlanId p)).any Plan.begun) || (splBkt s p).any fun b => b.contribGiven.isSome) 4 }

/-- The contribution is given: the reply waits for the last local chunk, where there is one to read. -/
def giveContrib (uid p e : Nat) (s : State) : State :=
  let s := updBkt p e (fun b => { b with contribGiven := some uid }) s
  match planOf s p, bktOf s p e with
  | some x, some b => if bktDone b || !(routeOf x b).contrib then endContrib b s else s
  | _, _ => s

def runContrib (uid : Nat) (p : Packet) (s : State) : State :=
  match verdict (contribChecks s p) with
  | some r => answerAtOnce uid p r s
  | none =>
    let s := addJob (newJob s uid p (.splContrib (splPlanId p) (splTag p))) s
    match entryOf s (splPlanId p) (splTag p) with
    | some e => giveContrib uid (splPlanId p) e s
    | none => s

/-- SPL.CONTRIB. -/
def execSplContrib (p : Packet) (s : State) : Host.Outcome State Fault Refusal := .next (met s (takeUp 0x0703 runContrib p s))

/-! ## SPL.LOWRANK (R285) -/

def lrOp (p : Packet) : Nat := pf p 4 9 8

def lowrankChecks (s : State) (p : Packet) : Checks :=
  { noChecks with
    param := resv p 4 0xFFFF030F ++ zeroWords p [5] ++ badIf (lrOp p == 3) 4 ++ (if lrOp p = 0 then vaField p 6 else zeroWords p [6, 7])
      ++ notLoaded s p ++ badIf (!((splBkt s p).any Bkt.lowrank)) 4
    permission := notOwner s p
    degraded := splDegraded s
    conflict := badIf (isArmed s (splPlanId p)) 4 }

def copyQ (p : Packet) (x : Plan) (b : Bkt) (s : State) : State × Result :=
  match vaRead s reachHN x.owner (dw p 6) (4 * b.cols * b.rank) with
  | .error f => faulted f s
  | .ok bs =>
    let s := detectVa reachHN x.owner (dw p 6) bs.length s
    match stateWrite (planEnv s x) b.qVa bs s with
    | (s, some f) => faulted f s
    | (s, none) => (s, ranResult none (anyPoison bs) false 0 0 0 0 0)

def clearE (x : Plan) (b : Bkt) (s : State) : State × Result :=
  match stateWrite (planEnv s x) b.eVa (List.replicate (4 * b.rows * b.cols) (0, false)) s with
  | (s, some f) => faulted f s
  | (s, none) => (s, okRes)

def lowrankEffect (p : Packet) (s : State) : State × Result :=
  match planOf s (splPlanId p), entryOf s (splPlanId p) (splTag p), splBkt s p with
  | some x, some e, some b =>
    if lrOp p = 0 then copyQ p x b s
    else if lrOp p = 1 then clearE x b s
    else (updBkt (splPlanId p) e (fun b => { b with reformed := true }) s, okRes)
  | _, _, _ => (s, okRes)

/-- SPL.LOWRANK. -/
def execSplLowrank (p : Packet) (s : State) : Host.Outcome State Fault Refusal := .next (met s (takeUp 0x0704 (runNow lowrankChecks lowrankEffect) p s))

/-! ## SPL.CLOSE (R290) -/

def closeAbort (p : Packet) : Bool := pb p 4 8
def closeDrop (p : Packet) : Bool := pb p 4 9

def closeChecks (s : State) (p : Packet) : Checks :=
  { noChecks with
    param := resv p 4 0x30F ++ zeroWords p [5, 6, 7] ++ notLoaded s p
    permission := notOwner s p
    degraded := splDegraded s
    conflict := badIf (!isArmed s (splPlanId p) && !closeAbort p && !closeDrop p) 4 }

/-- Abandon every bucket of a plan that has not completed (R290). -/
def abandonPlan (p cause : Nat) (s : State) : State :=
  match planOf s p with
  | some x => (List.range x.buckets.length).foldl (fun s e => abandonBkt p e cause none s) s
  | none => s

def runClose (uid : Nat) (p : Packet) (s : State) : State :=
  match verdict (closeChecks s p) with
  | some r => answerAtOnce uid p r s
  | none =>
    let n := splPlanId p
    if !isArmed s n then
      let s := answerAtOnce uid p okRes s
      if closeDrop p then { s with spl := { s.spl with plans := kvErase n s.spl.plans } } else s
    else
      let s := addJob (newJob s uid p (.splClose n (closeDrop p))) s
      closeCheck n (if closeAbort p then abandonPlan n 6 s else s)

/-- SPL.CLOSE. -/
def execSplClose (p : Packet) (s : State) : Host.Outcome State Fault Refusal := .next (met s (takeUp 0x0705 runClose p s))

/-! ## SPL.STATUS (R291) -/

def statusChecks (s : State) (p : Packet) : Checks :=
  { noChecks with
    param := resv p 4 0xFFFF010F ++ zeroWords p [5, 6, 7] ++ notLoaded s p
      ++ badIf (if pb p 4 8 then (splBkt s p).isNone else splTag p != 0) 4
    permission := notOwner s p
    degraded := splDegraded s }

def bktStateNo : BktState → Nat
  | .idle => 0
  | .armed => 1
  | .active => 2
  | .done => 3
  | .abandoned => 4

def statusEffect (p : Packet) (s : State) : State × Result :=
  (s, match planOf s (splPlanId p) with
    | none => okRes
    | some x =>
      if pb p 4 8 then
        match splBkt s p with
        | none => okRes
        | some b => okCnt (BitVec.ofNat 32 (bktStateNo b.state)) (sat32 b.finals.length) (sat32 (windowOf b))
            (if b.state = .active then BitVec.ofNat 32 b.firstSlot else 0xFFFFFFFF)
      else okCnt x.stray x.stale (sat32 (x.buckets.filter fun b => b.state == .active).length) 0)

/-- SPL.STATUS. -/
def execSplStatus (p : Packet) (s : State) : Host.Outcome State Fault Refusal := .next (met s (takeUp 0x0706 (runNow statusChecks statusEffect) p s))

end Sys2Proof.Machine
end

