-- ==== Sys2Proof/Machine/SpliceLow.lean ====
section
/-! DEFINITION. SPL_LOWRANK_STEP: the local steps of a low-rank bucket, and its endings (R281 to R283, R286, R289). -/

namespace Sys2Proof.Machine

/-! ## Matrices in memory -/

/-- The elements of a matrix of `cols` columns whose elements have a width of w bytes, row by row. -/
def matOf (f : Fp) (w cols : Nat) (bs : List PByte) : List (List PEl) :=
  chunks cols ((chunks w bs).map fun (b : List PByte) => (fpValue f (leNat (b.map Prod.fst)), anyPoison b))

def bytesOf (f : Fp) : Nat := (f.p + f.eb + 1) / 8

/-- Read a matrix of the plan's context from tier H. -/
def matRead (s : State) (x : Plan) (f : Fp) (va rows cols : Nat) : Except AFault (List (List PEl)) :=
  match stateRead s (planEnv s x) va (bytesOf f * rows * cols) with
  | .error e => .error e
  | .ok bs => .ok (matOf f (bytesOf f) cols bs)

/-- A matrix as bytes in a format, written by conversion (R92). -/
def matBytes (f : Fp) (rows : List (List PEl)) : List PByte :=
  rows.flatMap fun r => r.flatMap fun v => (leBytes (bytesOf f) (fpBits f (cvtFp f v.1).1)).map fun b => (b, v.2)

/-- Writes that happen together: all of them, or none where one would fault. -/
def writeAll (x : Plan) (ws : List (Nat × List PByte)) (s : State) : State × Option AFault :=
  match ws.findSome? fun w => stateFault s (planEnv s x) w.1 w.2.length true with
  | some f => (s, some f)
  | none => (ws.foldl (fun s w => (stateWrite (planEnv s x) w.1 w.2 s).1) s, none)

/-- The product of two matrices on the BF16 path: default L and S, started from zero (R154, R281). -/
def matMul (k : Nat) (rows cols : List (List PEl)) : List (List PEl) :=
  let ar : Arith := { kind := .mma, w := 1, l := 64, s := 2 ^ 16, k := k }
  rows.map fun r => cols.map fun c =>
    let a := dotWhole ar (List.zipWith (fun (p q : PEl) =>
      (({ skip := false, v := p.1, poison := p.2 } : AEl), ({ kept := true, v := q.1, poison := q.2 } : BEl))) r c)
    (a.total, a.poison)

def matZip (f : FV → FV → FV) (a b : List (List PEl)) : List (List PEl) :=
  List.zipWith (fun (r q : List PEl) => List.zipWith (fun (u v : PEl) => (f u.1 v.1, u.2 || v.2)) r q) a b

def matAny (t : PEl → Bool) (m : List (List PEl)) : Bool := m.any fun r => r.any t

/-! ## The steps -/

/-- What a step comes to: it abandons at a fault, or the bucket goes on. -/
def afterStep (p e n : Nat) (r : State × Option AFault) : State :=
  match r.2 with
  | some f => abandonBkt p e 3 none (reportTable f r.1)
  | none => updBkt p e (fun b => { b with lrStep := n }) r.1

def readFault (p e : Nat) (f : AFault) (s : State) : State := abandonBkt p e 3 none (reportTable f s)

/-- Step 1: M, M_b and Q_b; with REFORMED G holds M already (R285). -/
def lrStep1 (p e : Nat) (x : Plan) (b : Bkt) (s : State) : State :=
  match stateFault s (planEnv s x) b.workVa (lrWork b) true with
  | some f => readFault p e f s
  | none =>
    match matRead s x fpB32 b.gVa b.rows b.cols, matRead s x fpB32 b.qVa b.cols b.rank,
        (if b.reformed then .ok [] else matRead s x fpB32 b.eVa b.rows b.cols) with
    | .ok g, .ok q, .ok ev =>
      let m := if b.reformed then g else matZip (fun u v => rne32 (u.add v)) g ev
      let s := detectVa reachHN x.owner b.qVa (4 * b.cols * b.rank) (detectVa reachHN x.owner b.gVa (4 * b.rows * b.cols) s)
      let s := if b.reformed then s else detectVa reachHN x.owner b.eVa (4 * b.rows * b.cols) s
      let r := writeAll x ((if b.reformed then [] else [(b.gVa, matBytes fpB32 m)])
        ++ [(b.workVa + lrM b, matBytes fpBF16 m), (b.workVa + lrQb b, matBytes fpBF16 q)]) s
      let s := afterStep p e 1 r
      if r.2.isNone then updBkt p e (fun b => { b with mFormed := true, reformed := false }) s else s
    | .error f, _, _ => readFault p e f s
    | _, .error f, _ => readFault p e f s
    | _, _, .error f => readFault p e f s

/-- Step 2: P = M_b·Q_b. -/
def lrStep2 (p e : Nat) (x : Plan) (b : Bkt) (s : State) : State :=
  match matRead s x fpBF16 (b.workVa + lrM b) b.rows b.cols, matRead s x fpBF16 (b.workVa + lrQb b) b.cols b.rank with
  | .ok m, .ok q => afterStep p e 2 (writeAll x [(b.workVa + lrP b, matBytes fpB32 (matMul b.cols m (transpose b.rank q)))] s)
  | .error f, _ => readFault p e f s
  | _, .error f => readFault p e f s

/-- R283: OUT_VA written throughout with the canonical NaN, poisoned for a poisoned factor; E and Q stay as they are. -/
def lrEnd (p e : Nat) (x : Plan) (b : Bkt) (poisoned : Bool) (s : State) : State :=
  let n := b.rows * b.cols
  let r := stateWrite (planEnv s x) b.outVa ((List.replicate n (leBytes 4 0x7FC00000)).flatMap fun w => w.map fun v => (v, poisoned)) s
  let s := match r.2 with
    | some f => updBkt p e (fun b => { b with statuses := b.statuses ++ [stFLT_ACCESS] }) (reportTable f r.1)
    | none => updBkt p e (fun b => { b with poisoned := if poisoned then n else b.poisoned }) r.1
  completeBkt p e .done s

/-- The finished factor at a place of the work buffer ends the bucket (R283). -/
def factorBad (m : List (List PEl)) : Bool := matAny (fun v => v.2 || !v.1.isFin) m

/-- Step 4: P̂ = VEC.ORTHO(P), in BF16. -/
def lrStep4 (p e : Nat) (x : Plan) (b : Bkt) (s : State) : State :=
  match matRead s x fpB32 (b.workVa + lrP b) b.rows b.rank with
  | .error f => readFault p e f s
  | .ok m =>
    if factorBad m then lrEnd p e x b (matAny Prod.snd m) s
    else
      let q := orthoRows b.rows b.rank m
      let r := writeAll x [(b.workVa + lrPh b, matBytes fpBF16 q.1)] s
      afterStep p e 4 (updBkt p e (fun b => { b with deficient := q.2.1 }) r.1, r.2)

/-- Step 5: Q' = M_bᵀ·P̂. -/
def lrStep5 (p e : Nat) (x : Plan) (b : Bkt) (s : State) : State :=
  match matRead s x fpBF16 (b.workVa + lrM b) b.rows b.cols, matRead s x fpBF16 (b.workVa + lrPh b) b.rows b.rank with
  | .ok m, .ok q => afterStep p e 5 (writeAll x [(b.workVa + lrQp b, matBytes fpB32 (matMul b.rows (transpose b.cols m) (transpose b.rank q)))] s)
  | .error f, _ => readFault p e f s
  | _, .error f => readFault p e f s

/-- Ĝ = P̂·Q'_bᵀ scaled by rne_fp32(1/C), in binary32 (R109). -/
def estimate (c : Nat) (b : Bkt) (ph qb : List (List PEl)) : List (List PEl) :=
  let k := fdiv fpB32 (fvOfNat 1) (fvOfNat c)
  (matMul b.rank ph qb).map fun r => r.map fun v => asB32 (rne64 (v.1.mul k), v.2)

/-- Steps 6 and 7: Q'_b, then Ĝ to OUT_VA, where a write fault is the bucket's status and no more (R286). -/
def lrStep7 (p e : Nat) (x : Plan) (b : Bkt) (s : State) : State :=
  match matRead s x fpB32 (b.workVa + lrQp b) b.cols b.rank, matRead s x fpBF16 (b.workVa + lrPh b) b.rows b.rank with
  | .ok q, .ok ph =>
    if factorBad q then lrEnd p e x b (matAny Prod.snd q) s
    else
      let r := writeAll x [(b.workVa + lrQpb b, matBytes fpBF16 q)] s
      match r.2 with
      | some f => readFault p e f r.1
      | none =>
        let qb := matOf fpBF16 2 b.rank (matBytes fpBF16 q)
        let w := stateWrite (planEnv r.1 x) b.outVa (matBytes fpB32 (estimate (routeOf x b).c b ph qb)) r.1
        let s := match w.2 with
          | some f => updBkt p e (fun b => { b with statuses := b.statuses ++ [stFLT_ACCESS] }) (reportTable f w.1)
          | none => w.1
        updBkt p e (fun b => { b with lrStep := 7 }) s
  | .error f, _ => readFault p e f s
  | _, .error f => readFault p e f s

/-- Step 8: E ← rne_fp32(M − Ĝ), then Q ← Q'; the bucket is complete (R281, R289). -/
def lrStep8 (p e : Nat) (x : Plan) (b : Bkt) (s : State) : State :=
  match matRead s x fpB32 b.gVa b.rows b.cols, matRead s x fpB32 (b.workVa + lrQp b) b.cols b.rank,
      matRead s x fpBF16 (b.workVa + lrPh b) b.rows b.rank, matRead s x fpBF16 (b.workVa + lrQpb b) b.cols b.rank with
  | .ok m, .ok q, .ok ph, .ok qb =>
    let g := estimate (routeOf x b).c b ph qb
    let r := writeAll x [(b.eVa, matBytes fpB32 (matZip (fun u v => rne32 (u.sub v)) m g)), (b.qVa, matBytes fpB32 q)] s
    match r.2 with
    | some f => readFault p e f r.1
    | none => completeBkt p e .done (updBkt p e (fun b => { b with lrStep := 8 }) r.1)
  | .error f, _, _, _ => readFault p e f s
  | _, .error f, _, _ => readFault p e f s
  | _, _, .error f, _ => readFault p e f s
  | _, _, _, .error f => readFault p e f s

/-! ## When a step may run -/

/-- The unit that the next step runs on serves: the array for 2, 5 and 7, the vector engine for the rest. -/
def lrServes (s : State) (b : Bkt) : Bool :=
  levelC s && (if lrOnArray b then hasShape s else vecServes s)

/-- Is it the step's turn on the array: free, its map built, and the owner's context the one chosen (R78, R140, R281)? -/
def lrTurn (s : State) (x : Plan) : Bool :=
  s.arr.run.isNone && s.arr.next.isNone && !s.arr.rebuild && chooseCtx s == some x.owner

/-- SPL_LOWRANK_STEP: the next local step of the bucket, where its turn has come. Each step uses the scratchpad region under the grant then in force (R522). -/
def execSplLowrankStep (p e : Nat) (s : State) : Host.Outcome State Fault Refusal :=
  .next (met s (match planOf s p, bktOf s p e with
    | some x, some b =>
      if !lrDue x e b || outOfUse s sIZ then s
      -- the unit has left service (R286)
      else if !lrServes s b then abandonBkt p e 4 none s
      else if lrOnArray b && !lrTurn s x then s
      else if !inGrant (ctxOf s x.owner) x.spWork (lrPad b) then abandonBkt p e 3 none s
      else
      let s : State := if lrOnArray b then { s with arr := { s.arr with lastCtx := x.owner } } else s
      if b.lrStep = 0 then lrStep1 p e x b s
      else if b.lrStep = 1 then lrStep2 p e x b s
      else if b.lrStep = 2 then lrStep4 p e x b s
      else if b.lrStep = 4 then lrStep5 p e x b s
      else if b.lrStep = 5 then lrStep7 p e x b s
      else lrStep8 p e x b s
    | _, _ => s))

end Sys2Proof.Machine
end

