-- ==== Sys2Proof/Machine/Tackle.lean ====
section
/-! DEFINITION. Tackle: the group table, its records, and the commands other than TKL.STEP (R292 to R300, R303, R311, R314 to R318, R378, R379). -/

namespace Sys2Proof.Machine

/-! ## Groups (R298) -/

def noGroup : TklGroup :=
  { base := 0, nParams := 0, gVa := 0, wVa := 0, scaleVa := 0, hitch := 0, wFmt := 0, wBlocking := 0, wCols := 0, gflags := 0, rsvd := zeros 18
    b1 := 0, c1 := 0, b2 := 0, c2 := 0, am := 0, ag := 0, ap := 0, eps := 0, t := 0, p1 := 0, p2 := 0, eta := 0, mu := 0, stepArmed := false }

def groupOf (s : State) (g : Nat) : TklGroup := kvGetD g noGroup s.tkl.groups

def setGroup (g : Nat) (x : TklGroup) (s : State) : State := { s with tkl := { s.tkl with groups := kvSet g x s.tkl.groups } }

def TklGroup.enabled (g : TklGroup) : Bool := g.gflags.getLsbD 0
def TklGroup.bcM (g : TklGroup) : Bool := g.gflags.getLsbD 1
def TklGroup.bcV (g : TklGroup) : Bool := g.gflags.getLsbD 2
def TklGroup.denom (g : TklGroup) : Bool := g.gflags.getLsbD 3
def TklGroup.mult (g : TklGroup) : Bool := g.gflags.getLsbD 4
def TklGroup.hitchEn (g : TklGroup) : Bool := g.gflags.getLsbD 5
def TklGroup.keep (g : TklGroup) : Bool := g.gflags.getLsbD 6

/-- Update blocks of a group, and bytes of its state (R295). -/
def TklGroup.blocks (g : TklGroup) : Nat := ceilDiv g.nParams 128
def TklGroup.bytes (g : TklGroup) : Nat := 1536 * g.blocks

/-- Parameters in block b. -/
def TklGroup.inBlock (g : TklGroup) (b : Nat) : Nat := min 128 (g.nParams - 128 * b)

/-- The 128-byte record of a group. -/
def groupBytes (g : TklGroup) : List Byte :=
  leBytes 8 g.base ++ leBytes 8 g.nParams ++ leBytes 8 g.gVa ++ leBytes 8 g.wVa ++ leBytes 8 g.scaleVa ++ leBytes 2 g.hitch
    ++ [g.wFmt, g.wBlocking] ++ leBytes 4 g.wCols ++ leBytes 2 g.gflags.toNat ++ g.rsvd.take 14
    ++ ([g.b1, g.c1, g.b2, g.c2, g.am, g.ag, g.ap, g.eps, g.t].flatMap fun (w : Word) => leBytes 4 w.toNat) ++ (g.rsvd.drop 14).take 4
    ++ leBytes 8 g.p1.toNat ++ leBytes 8 g.p2.toNat ++ leBytes 4 g.eta.toNat ++ leBytes 4 g.mu.toNat

/-- A record as it is stored: ETA and MU +0, and not armed (R299). -/
def groupAt (b : List Byte) : TklGroup :=
  let w := fun (o : Nat) => (BitVec.ofNat 32 (leAt o 4 b) : Word)
  { base := leAt 0 8 b, nParams := leAt 8 8 b, gVa := leAt 16 8 b, wVa := leAt 24 8 b, scaleVa := leAt 32 8 b, hitch := leAt 40 2 b
    wFmt := b.getD 42 0, wBlocking := b.getD 43 0, wCols := leAt 44 4 b, gflags := BitVec.ofNat 16 (leAt 48 2 b)
    rsvd := slice 50 14 b ++ slice 100 4 b, b1 := w 64, c1 := w 68, b2 := w 72, c2 := w 76, am := w 80, ag := w 84, ap := w 88, eps := w 92
    t := w 96, p1 := BitVec.ofNat 64 (leAt 104 8 b), p2 := BitVec.ofNat 64 (leAt 112 8 b), eta := 0, mu := 0, stepArmed := false }

/-- The working-weight tensor of a group, as a descriptor under JIT (R308). -/
def groupDesc (g : TklGroup) : Desc :=
  let k := g.wBlocking.toNat
  { present := true, layout := false, grant := false, wmode := 0, width8 := bit k 4, col := bit k 3, block := k % 8, fmt := g.wFmt.toNat, aux := 0
    addr := g.wVa, scale := g.scaleVa, raw := [] }

/-- Rows and columns of the working-weight tensor; BF16 is one row. -/
def groupCols (g : TklGroup) : Nat := if g.wBlocking.toNat % 8 = 0 then g.nParams else g.wCols
def groupRows (g : TklGroup) : Nat := ceilDiv g.nParams (max 1 (groupCols g))

/-! ## Checks of a record (R299) -/

def isFin32 (w : Word) : Bool := (b32 w).isFin
def inUnit (top : Bool) (v : FV) : Bool := v.isFin && !v.lt fv0 && (if top then !(fvOfNat 1).lt v else v.lt (fvOfNat 1))

/-- Offending bytes of W_FMT, W_BLOCKING and W_COLS. -/
def formatBad (g : TklGroup) : List Nat :=
  let k := g.wBlocking.toNat
  let b := k % 8
  let fp8 := g.wFmt == 3 || g.wFmt == 4
  (if g.wFmt != 2 && !fp8 then [42] else [])
    ++ (if decide (32 ≤ k) || decide (4 < b) || (g.wFmt == 2 && k != 0) || (fp8 && b == 0) || (bit k 4 && b != 2) then [43] else [])
    ++ (if b != 0 && (g.wCols == 0 || g.nParams % max 1 g.wCols != 0 || (bit k 3 && decide (2 ^ 19 < g.wCols * blockLen b))) then [44] else [])

/-- Offending bytes of an enabled record. -/
def groupBad (g : TklGroup) : List Nat :=
  let at_ := fun (c : Bool) (o : Nat) => if c then [o] else []
  at_ (g.base % 12288 != 0) 0 ++ at_ (g.nParams == 0 || decide (120 * 2 ^ 30 < g.nParams)) 8 ++ formatBad g
    ++ at_ (decide (128 ≤ g.gflags.toNat)) 48 ++ ((List.range 14).filter fun i => g.rsvd.getD i 0 != 0).map (· + 50)
    ++ ((List.range 4).filter fun i => g.rsvd.getD (14 + i) 0 != 0).map (· + 100)
    ++ at_ (!isFin32 g.b1 || (g.bcM && !inUnit false (b32 g.b1))) 64 ++ at_ (!isFin32 g.c1) 68
    ++ at_ (!isFin32 g.b2 || g.b2.getLsbD 31 || (g.bcV && !inUnit false (b32 g.b2))) 72 ++ at_ (!isFin32 g.c2 || g.c2.getLsbD 31) 76
    ++ at_ (!isFin32 g.am) 80 ++ at_ (!isFin32 g.ag) 84 ++ at_ (!isFin32 g.ap) 88
    ++ at_ (!isFin32 g.eps || (g.denom && !fv0.lt (b32 g.eps))) 92 ++ at_ (!inUnit true (b64 g.p1)) 104 ++ at_ (!inUnit true (b64 g.p2)) 112

/-! ## Who may issue (R293, R294) -/

/-- Word 0, where the module is below service level T. -/
def tklDegraded (s : State) : List Nat := badIf (!levelT s) 0

/-- Word 0, where another context owns the chip, or none does and the issuer is not context 0. -/
def notTklOwner (s : State) (p : Packet) : List Nat :=
  let c := issuerCtx s p.issuer
  badIf (c != 0 && s.tkl.owner != some c) 0

/-- The context whose addresses the group entries hold. -/
def tklCtx (s : State) : Nat := s.tkl.owner.getD 0

def tklEnv (s : State) : Env := { c := tklCtx s, x := ctxOf s (tklCtx s), reach := reachHN }

/-- Group ranges: FIRST_GROUP and COUNT, or FIRST_GROUP and LAST_GROUP (R378). -/
def tklFirst (p : Packet) : Nat := pf p 4 9 0
def tklCount (p : Packet) : Nat := pf p 4 20 10
def tklLast (p : Packet) : Nat := pf p 4 19 10

def rangeGroups (p : Packet) : List Nat := (List.range (tklLast p + 1 - tklFirst p)).map (· + tklFirst p)

/-- The enabled groups of the range FIRST_GROUP to LAST_GROUP, ascending. -/
def enabledIn (s : State) (p : Packet) : List Nat := (rangeGroups p).filter fun g => (groupOf s g).enabled

/-! ## TKL.COEF (R299, R300) -/

def coefWrite (p : Packet) : Bool := pb p 4 24
def coefRead (p : Packet) : Bool := pb p 4 25
def coefRelease (p : Packet) : Bool := pb p 4 26

def coefParam (p : Packet) : List Nat :=
  let n := bnat (coefWrite p) + bnat (coefRead p) + bnat (coefRelease p)
  resv p 4 0x71FFFFF ++ zeroWords p [5] ++ vaField p 6
    ++ badIf (n != 1 || (if coefRelease p then tklCount p != 0 else tklCount p == 0 || decide (1024 < tklFirst p + tklCount p))) 4
    ++ badIf (coefRelease p && dw p 6 != 0) 6

/-- A context other than the owner, while there is one (R293). -/
def coefOther (s : State) (p : Packet) : List Nat :=
  let c := issuerCtx s p.issuer
  badIf (c != 0 && s.tkl.owner.any fun o => o != c) 0

def coefEarly (s : State) (p : Packet) : Checks :=
  { noChecks with param := coefParam p, permission := coefOther s p, degraded := tklDegraded s }

/-- The records of a write, numbered. -/
def coefRecords (p : Packet) (b : List Byte) : List (Nat × TklGroup) :=
  (List.range (tklCount p)).map fun i => (i, groupAt (slice (128 * i) 128 b))

/-- CNT0 of a field of a record (R360). -/
def recordWord (i off : Nat) : Nat := 0x80000000 + (128 * i + off) / 4 * 4

/-- The enabled groups as they would stand after the write: number, entry. -/
def groupsAfter (s : State) (p : Packet) (rs : List (Nat × TklGroup)) : List (Nat × TklGroup) :=
  let kept := s.tkl.groups.filter fun (kv : Nat × TklGroup) => !(decide (tklFirst p ≤ kv.1) && decide (kv.1 < tklFirst p + tklCount p))
  (kept ++ rs.map fun x => (tklFirst p + x.1, x.2)).filter fun kv => kv.2.enabled

def coefChecks (s : State) (p : Packet) (b : List Byte) : Checks :=
  let c := issuerCtx s p.issuer
  let owner := s.tkl.owner.getD c
  let rs := coefRecords p b
  let live := rs.filter fun x => x.2.enabled
  let all := groupsAfter s p rs
  { noChecks with
    param := coefParam p ++ live.flatMap fun x => (groupBad x.2).map (recordWord x.1)
    permission := coefOther s p
      ++ live.flatMap fun x => badIf (x.2.hitchEn && (hitchOf s x.2.hitch).owner != some owner) (recordWord x.1 40)
    degraded := tklDegraded s
      ++ live.flatMap fun x => badIf (decide (2 ^ 37 * s.mem.tsChannels.length < x.2.base + x.2.bytes)) (recordWord x.1 0)
    conflict := live.flatMap fun x => badIf (all.any fun y => y.1 != tklFirst p + x.1 && overlap x.2.base x.2.bytes y.2.base y.2.bytes) (recordWord x.1 0)
    resource := badIf (decide (120 * 2 ^ 30 < (all.map fun x => x.2.nParams).sum)) (recordWord 0 8) }

def ownedWord (s : State) : Word := match s.tkl.owner with
  | some o => BitVec.ofNat 32 (2 ^ 12 + o)
  | none => 0

/-- A command that stopped at its records: CNT1 still tells the owner, where no address stands there (R360, R379). -/
def coefStopped (fault : Option AFault) (s : State) : State × Result :=
  match fault with
  | some f => let r := faulted f s; (r.1, if f.cause = 0 then { r.2 with cnt1 := ownedWord s } else r.2)
  | none => (s, { ranResult none true false 0 0 0 0 0 with cnt1 := ownedWord s })

def writeGroups (p : Packet) (b : List Byte) (s : State) : State × Result :=
  let s := (coefRecords p b).foldl (fun s x => setGroup (tklFirst p + x.1) x.2 s) s
  let s := { s with tkl := { s.tkl with owner := some (s.tkl.owner.getD (issuerCtx s p.issuer)) } }
  (s, okCnt (sat32 (tklCount p)) (ownedWord s) 0 0)

def readGroups (p : Packet) (s : State) : State × Result :=
  let bs := (List.range (tklCount p)).flatMap fun i => groupBytes (groupOf s (tklFirst p + i))
  match vaWrite reachQueue (issuerCtx s p.issuer) (dw p 6) (bs.map fun b => (b, false)) s with
  | (s, some f) => coefStopped (some f) s
  | (s, none) => (s, okCnt (sat32 (tklCount p)) (ownedWord s) 0 0)

def releaseGroups (s : State) : State × Result :=
  let s := if s.tkl.owner.isSome then tklRelease s else s
  (s, okCnt 0 (ownedWord s) 0 0)

def runCoef (uid : Nat) (p : Packet) (s : State) : State :=
  if !coefWrite p || !(coefParam p).isEmpty then
    runNow coefEarly (fun p s => if coefRead p then readGroups p s else releaseGroups s) uid p s
  else
    match vaRead s reachQueue (issuerCtx s p.issuer) (dw p 6) (128 * tklCount p) with
    | .error f => runNow coefEarly (fun _ s => coefStopped (some f) s) uid p s
    | .ok bs =>
      if anyPoison bs then runNow coefEarly (fun _ s => coefStopped none s) uid p s
      else runNow (fun s p => coefChecks s p (bs.map Prod.fst))
        (fun p s => writeGroups p (bs.map Prod.fst) (detectVa reachQueue (issuerCtx s p.issuer) (dw p 6) bs.length s)) uid p s

/-- TKL.COEF. -/
def execTklCoef (p : Packet) (s : State) : Host.Outcome State Fault Refusal := .next (met s (takeUp 0x0801 runCoef p s))

/-! ## TKL.STEPSIZE (R303) -/

def stepScalar (p : Packet) : Bool := pb p 4 24

def stepsizeParam (p : Packet) : List Nat :=
  resv p 4 0x11FFFFF ++ badIf (tklCount p == 0 || decide (1024 < tklFirst p + tklCount p)) 4
    ++ (if stepScalar p then badIf (!isFin32 (BitVec.ofNat 32 (wd p 5))) 5 ++ badIf (!isFin32 (BitVec.ofNat 32 (wd p 6))) 6 ++ zeroWords p [8, 9]
        else zeroWords p [5, 6] ++ vaField p 8)
    ++ zeroWords p [7, 10, 11]

def stepsizeChecks (s : State) (p : Packet) (pairs : List Word) : Checks :=
  { noChecks with
    param := stepsizeParam p ++ ((List.range pairs.length).filter fun i => !isFin32 (pairs.getD i 0)).map fun i => 0x80000000 + 4 * i
    permission := notTklOwner s p
    degraded := tklDegraded s }

/-- Arm groups with pairs of step size and multiplier. -/
def stepsizeEffect (pairs : List Word) (p : Packet) (s : State) : State × Result :=
  let s := (List.range (tklCount p)).foldl (fun s i =>
    let g := tklFirst p + i
    setGroup g { groupOf s g with eta := pairs.getD (2 * i) 0, mu := pairs.getD (2 * i + 1) 0, stepArmed := true } s) s
  (s, okCnt (sat32 (tklCount p)) 0 0 0)

def scalarPairs (p : Packet) : List Word :=
  (List.replicate (tklCount p) [(BitVec.ofNat 32 (wd p 5) : Word), BitVec.ofNat 32 (wd p 6)]).flatten

def runStepsize (uid : Nat) (p : Packet) (s : State) : State :=
  if stepScalar p then runNow (fun s p => stepsizeChecks s p []) (fun p s => stepsizeEffect (scalarPairs p) p s) uid p s
  else
    match vaRead s reachHN (issuerCtx s p.issuer) (dw p 8) (8 * tklCount p) with
    | .error f => runNow (fun s p => stepsizeChecks s p []) (fun _ s => faulted f s) uid p s
    | .ok bs =>
      if anyPoison bs then runNow (fun s p => stepsizeChecks s p []) (fun _ s => (s, ranResult none true false 0 0 0 0 0)) uid p s
      else
        let pairs := (chunks 4 (bs.map Prod.fst)).map fun (w : List Byte) => (BitVec.ofNat 32 (leNat w) : Word)
        runNow (fun s p => stepsizeChecks s p pairs)
          (fun p s => stepsizeEffect pairs p (detectVa reachHN (issuerCtx s p.issuer) (dw p 8) bs.length s)) uid p s

/-- TKL.STEPSIZE. -/
def execTklStepsize (p : Packet) (s : State) : Host.Outcome State Fault Refusal := .next (met s (takeUp 0x0802 runStepsize p s))

/-! ## State in tier S (R295, R296) -/

/-- Address of array n of block b: 0 W, 1 M, 2 V. -/
def tsArray (g : TklGroup) (b n : Nat) : Nat := 512 * n + (paS + g.base + 1536 * b)

/-- Read one array of a block: its 128 words with their poison. -/
def tsRead (s : State) (g : TklGroup) (b n : Nat) : Except AFault (List (Word × Bool)) :=
  if backedRange s (tsArray g b n) 512 then
    .ok ((chunks 4 (physRead s (tsArray g b n) 512)).map fun (w : List PByte) => (BitVec.ofNat 32 (leNat (w.map Prod.fst)), anyPoison w))
  else .error (unbackedFault 0)

def wordBytes (ws : List (Word × Bool)) : List PByte := ws.flatMap fun (w : Word × Bool) => (leBytes 4 w.1.toNat).map fun b => (b, w.2)

/-- Write one array of a block. -/
def tsWrite (g : TklGroup) (b n : Nat) (ws : List (Word × Bool)) (s : State) : State × Option AFault :=
  if backedRange s (tsArray g b n) 512 then (physWrite (tsArray g b n) (wordBytes ws) s, none) else (s, some (unbackedFault 0))

def tsDetect (g : TklGroup) (b n : Nat) (s : State) : State := detectRead (tsArray g b n) 512 s

def isFrozen (w : Word) : Bool := w.getLsbD 31
def withFrozen (f : Bool) (w : Word) : Word := (w &&& 0x7FFFFFFF) ||| (if f then 0x80000000 else 0)

/-- Fold over the blocks of a group until a fault. -/
def eachBlock {α : Type} (f : Nat → State → α → State × α × Option AFault) (n : Nat) (a : α) (s : State) : State × α × Option AFault :=
  (List.range n).foldl (fun (acc : State × α × Option AFault) b =>
    match acc.2.2 with
    | some _ => acc
    | none => f b acc.1 acc.2.1) (s, a, none)

/-! ## The digest (R311, R318) -/

/-- The message bytes of a block's master weights, and whether any was poisoned. -/
def digestBytes (ws : List (Word × Bool)) : List Byte × Bool :=
  (ws.flatMap fun (w : Word × Bool) => leBytes 4 (if w.2 then 0x7FC00000 else w.1.toNat), ws.any Prod.snd)

/-- The CRC of one group's master weights as they stand. -/
def groupCrc (g : TklGroup) (s : State) : State × (DWord × Bool) × Option AFault :=
  eachBlock (fun b s (a : DWord × Bool) =>
    match tsRead s g b 0 with
    | .error f => (s, a, some f)
    | .ok ws =>
      let m := digestBytes (ws.take (g.inBlock b))
      (tsDetect g b 0 s, (BitVec.ofNat 64 (crc64 a.1.toNat m.1), a.2 || m.2), none)) g.blocks (0, false) s

def rangeParam (s : State) (p : Packet) (opts : Nat) (need : Bool) : List Nat :=
  resv p 4 (0xFFFFF ||| opts) ++ badIf (decide (tklLast p < tklFirst p) || (need && (enabledIn s p).isEmpty)) 4

def digestChecks (s : State) (p : Packet) : Checks :=
  { noChecks with param := rangeParam s p 0 false ++ zeroWords p [5, 6, 7], permission := notTklOwner s p, degraded := tklDegraded s }

def digestEffect (p : Packet) (s : State) : State × Result :=
  let r := (enabledIn s p).foldl (fun (acc : State × (List (Nat × Nat × DWord) × Bool) × Option AFault) n =>
    match acc.2.2 with
    | some _ => acc
    | none =>
      let g := groupOf acc.1 n
      let c := groupCrc g acc.1
      (c.1, (acc.2.1.1 ++ [(g.base, 4 * g.nParams, c.2.1.1)], acc.2.1.2 || c.2.1.2), c.2.2)) (s, ([], false), none)
  match r.2.2 with
  | some f => faulted f r.1
  | none =>
    let d := combineCrcs r.2.1.1
    (r.1, { ranResult none r.2.1.2 false (dIf r.2.1.2 (dfOp 44)) 0 0 0 0 with cnt2 := lo32 d, cnt3 := hi32 d })

/-- TKL.DIGEST. -/
def execTklDigest (p : Packet) (s : State) : Host.Outcome State Fault Refusal := .next (met s (takeUp 0x0808 (runNow digestChecks digestEffect) p s))

/-! ## TKL.NORM (R314) -/

def normV (p : Packet) : Bool := pb p 4 24

def tklNormChecks (s : State) (p : Packet) : Checks :=
  { noChecks with
    param := rangeParam s p 0x1000000 true ++ zeroWords p [5]
      ++ (if normV p then vaField p 6 else zeroWords p [6, 7])
    permission := notTklOwner s p
    degraded := tklDegraded s }

/-- sum64 of the squares of a group's gradient, its non-finite and its poisoned elements. -/
def gradientNorm (els : List PEl) : FV × Nat × Nat :=
  let use := fun (e : PEl) => !e.2 && e.1.isFin
  (sum64 (els.map fun e => if use e then rne64 (e.1.mul e.1) else fv0), (els.filter fun e => !e.2 && !e.1.isFin).length, (els.filter Prod.snd).length)

structure NormSum where
  total : FV
  sums : List (Nat × FV)
  nonfin : Nat
  poison : Nat
  deriving DecidableEq, Repr

/-- The enabled groups one after another; a fault ends them. -/
def normGroups (p : Packet) (s : State) : State × NormSum × Option AFault :=
  (enabledIn s p).foldl (fun (acc : State × NormSum × Option AFault) n =>
    match acc.2.2 with
    | some _ => acc
    | none =>
      let g := groupOf acc.1 n
      match floatsAt acc.1 (tklEnv acc.1) false g.gVa g.nParams with
      | .error f => (acc.1, acc.2.1, some f)
      | .ok els =>
        let v := gradientNorm els
        let a := acc.2.1
        (detectVa reachHN (tklCtx acc.1) g.gVa (4 * g.nParams) acc.1,
          { total := rne64 (a.total.add v.1), sums := a.sums ++ [(n, v.1)], nonfin := a.nonfin + v.2.1, poison := a.poison + v.2.2 }, none))
    (s, { total := fv0, sums := [], nonfin := 0, poison := 0 }, none)

/-- The result of TKL.NORM over the groups summed so far (R314, R379). -/
def normResult (a : NormSum) (fault : Option AFault) : Result :=
  let t := (toB64 a.total).toNat
  ranResult fault (decide (0 < a.poison)) (decide (0 < a.nonfin)) (dIf (decide (0 < a.nonfin)) (dfOp 45)) (t % 2 ^ 32) (t / 2 ^ 32) a.nonfin a.poison

def tklNormEffect (p : Packet) (s : State) : State × Result :=
  let r := normGroups p s
  let a := r.2.1
  let rows := (rangeGroups p).flatMap fun g => leBytes 8 (toB64 (((a.sums.find? fun x => x.1 == g).map Prod.snd).getD fv0)).toNat
  let w := if normV p && r.2.2.isNone then vaWrite reachHN (issuerCtx r.1 p.issuer) (dw p 6) (rows.map fun b => (b, false)) r.1 else (r.1, r.2.2)
  (match w.2 with
    | some f => reportTable f w.1
    | none => w.1, normResult a w.2)

/-- TKL.NORM. -/
def execTklNorm (p : Packet) (s : State) : Host.Outcome State Fault Refusal := .next (met s (takeUp 0x0804 (runNow tklNormChecks tklNormEffect) p s))

/-! ## TKL.LOAD and TKL.STORE (R315, R316) -/

def mvW (p : Packet) : Bool := pb p 4 24
def mvM (p : Packet) : Bool := pb p 4 25
def mvV (p : Packet) : Bool := pb p 4 26
def mvMask (p : Packet) : Bool := pb p 4 27
def mvZero (p : Packet) : Bool := pb p 4 28

def tklGroupNo (p : Packet) : Nat := pf p 4 9 0

/-- Word 4, where the group is disabled (R315). -/
def groupOff (s : State) (p : Packet) : List Nat := badIf (!(groupOf s (tklGroupNo p)).enabled) 4

def moveParam (p : Packet) (zero : Bool) : List Nat :=
  resv p 4 (0xF0003FF ||| (if zero then 0x10000000 else 0)) ++ zeroWords p [5, 14, 15]
    ++ badIf (!mvW p && !mvM p && !mvV p && !mvMask p && !mvZero p) 4 ++ badIf (mvZero p && (mvW p || mvM p || mvV p || mvMask p)) 4
    ++ ([(mvW p, 6), (mvM p, 8), (mvV p, 10), (mvMask p, 12)].flatMap fun (x : Bool × Nat) =>
        if x.1 then vaField p x.2 ++ badIf (dw p x.2 % 4 != 0) x.2 else zeroWords p [x.2, x.2 + 1])

def moveChecks (zero : Bool) (s : State) (p : Packet) : Checks :=
  { noChecks with param := moveParam p zero, permission := notTklOwner s p, degraded := tklDegraded s, conflict := groupOff s p }

/-- Words of a source array, each with its poison; none where the option is absent. -/
def sourceWords (s : State) (p : Packet) (use : Bool) (w n : Nat) : Except AFault (List (Word × Bool)) :=
  if !use then .ok []
  else match vaRead s reachHN (issuerCtx s p.issuer) (dw p w) (4 * n) with
    | .error f => .error f
    | .ok bs => .ok ((chunks 4 bs).map fun (b : List PByte) => (BitVec.ofNat 32 (leNat (b.map Prod.fst)), anyPoison b))

/-- Bits of a bitmap, each with its poison. -/
def bitmapBits (s : State) (c : Nat) (use : Bool) (va n : Nat) : Except AFault (List (Bool × Bool)) :=
  if !use then .ok []
  else match vaRead s reachHN c va (ceilDiv n 8) with
    | .error f => .error f
    | .ok bs => .ok ((List.range n).map fun i => let b := bs.getD (i / 8) (0, false); (b.1.getLsbD (i % 8), b.2))

/-- 128 words of a block from a source, the unused ones +0. -/
def blockWords (src : List (Word × Bool)) (b : Nat) : List (Word × Bool) :=
  let l := (src.drop (128 * b)).take 128
  l ++ List.replicate (128 - l.length) (0, false)

/-- The V words of a block that a load with these options writes, over those it finds: values as magnitudes, and the mask (R315). -/
def loadedV (p : Packet) (g : TklGroup) (b : Nat) (v : List (Word × Bool)) (mask : List (Bool × Bool)) (old : List (Word × Bool)) : List (Word × Bool) :=
  (List.range 128).map fun i =>
    let base : Word × Bool := if mvV p || mvZero p then (blockWords v b).getD i (0, false) else old.getD i (0, false)
    let m := mask.getD (128 * b + i) (false, false)
    if decide (g.inBlock b ≤ i) then (0, false)
    else if mvMask p then (withFrozen m.1 base.1, base.2 || m.2)
    else (withFrozen false base.1, base.2)

/-- What a load has met: poison, and V values loaded as magnitudes (R315). -/
structure LoadSeen where
  poison : Bool
  neg : Nat
  deriving DecidableEq, Repr

/-- Write the arrays of a block that the load names. -/
def loadBlock (p : Packet) (g : TklGroup) (w m v : List (Word × Bool)) (mask : List (Bool × Bool)) (b : Nat) (s : State) (a : LoadSeen) : State × LoadSeen × Option AFault :=
  let put := fun (use : Bool) (n : Nat) (ws : List (Word × Bool)) (a : State × Option AFault) =>
    match a.2 with
    | some _ => a
    | none => if use then tsWrite g b n ws a.1 else a
  let needOld := mvMask p && !mvV p
  match (if needOld then tsRead s g b 2 else .ok []) with
  | .error f => (s, a, some f)
  | .ok old =>
    let s := if needOld then tsDetect g b 2 s else s
    let vs := loadedV p g b v mask old
    let r := put (mvV p || mvMask p || mvZero p) 2 vs (put (mvM p || mvZero p) 1 (blockWords m b) (put (mvW p) 0 (blockWords w b) (s, none)))
    let neg := (((v.drop (128 * b)).take 128).filter fun x => isFrozen x.1).length
    (r.1, { poison := a.poison || (needOld && old.any Prod.snd), neg := a.neg + (if r.2.isNone then neg else 0) }, r.2)

def loadEffect (p : Packet) (s : State) : State × Result :=
  let g := groupOf s (tklGroupNo p)
  let c := issuerCtx s p.issuer
  match sourceWords s p (mvW p) 6 g.nParams, sourceWords s p (mvM p) 8 g.nParams, sourceWords s p (mvV p) 10 g.nParams,
      bitmapBits s c (mvMask p) (dw p 12) g.nParams with
  | .ok w, .ok m, .ok v, .ok mask =>
    let see := fun (use : Bool) (wd n : Nat) (s : State) => if use then detectVa reachHN c (dw p wd) n s else s
    let s := see (mvMask p) 12 (ceilDiv g.nParams 8) (see (mvV p) 10 (4 * g.nParams) (see (mvM p) 8 (4 * g.nParams) (see (mvW p) 6 (4 * g.nParams) s)))
    let pois := (w ++ m ++ v).any Prod.snd || mask.any Prod.snd
    let r := eachBlock (fun b s a => loadBlock p g w m v mask b s a) g.blocks { poison := pois, neg := 0 } s
    let neg := r.2.1.neg
    (match r.2.2 with
      | some f => reportTable f r.1
      | none => r.1, ranResult r.2.2 r.2.1.poison (decide (0 < neg)) (dIf (decide (0 < neg)) (dfOp 46)) neg 0 0 0)
  | .error f, _, _, _ => faulted f s
  | _, .error f, _, _ => faulted f s
  | _, _, .error f, _ => faulted f s
  | _, _, _, .error f => faulted f s

/-- TKL.LOAD. -/
def execTklLoad (p : Packet) (s : State) : Host.Outcome State Fault Refusal := .next (met s (takeUp 0x0806 (runNow (moveChecks true) loadEffect) p s))

/-- The mask bits of V words as bytes. -/
def maskBytes (vs : List (Word × Bool)) : List PByte :=
  (chunks 8 vs).map fun (l : List (Word × Bool)) => (BitVec.ofNat 8 (packBits (l.map fun w => isFrozen w.1 && !w.2)), l.any Prod.snd)

/-- Poisoned 32-bit words of a byte string. -/
def poisonCount (bs : List PByte) : Nat := ((chunks 4 bs).filter anyPoison).length

/-- Store one block's share of the arrays named; counts words written poisoned. The words are copied as they stand, the payload of a NaN too (R315), where R87 would make every NaN written canonical (DESIGN CHOICE, log 143). -/
def storeBlock (p : Packet) (g : TklGroup) (c b : Nat) (s : State) (n : Nat) : State × Nat × Option AFault :=
  let k := g.inBlock b
  let out := fun (use : Bool) (arr w off : Nat) (f : List (Word × Bool) → List PByte) (a : State × Nat × Option AFault) =>
    match a.2.2 with
    | some _ => a
    | none =>
      if !use then a
      else match tsRead a.1 g b arr with
        | .error e => (a.1, a.2.1, some e)
        | .ok ws =>
          let bs := f (ws.take k)
          let r := vaWrite reachHN c (dw p w + off) bs (tsDetect g b arr a.1)
          (r.1, a.2.1 + (if r.2.isNone then poisonCount bs else 0), r.2)
  out (mvMask p) 2 12 (16 * b) maskBytes
    (out (mvV p) 2 10 (512 * b) (fun ws => wordBytes (ws.map fun w => (withFrozen false w.1, w.2)))
      (out (mvM p) 1 8 (512 * b) wordBytes (out (mvW p) 0 6 (512 * b) wordBytes (s, n, none))))

def storeEffect (p : Packet) (s : State) : State × Result :=
  let g := groupOf s (tklGroupNo p)
  let r := eachBlock (fun b s n => storeBlock p g (issuerCtx s p.issuer) b s n) g.blocks 0 s
  (match r.2.2 with
    | some f => reportTable f r.1
    | none => r.1, ranResult r.2.2 (decide (0 < r.2.1)) false 0 r.2.1 0 0 0)

/-- TKL.STORE. -/
def execTklStore (p : Packet) (s : State) : Host.Outcome State Fault Refusal := .next (met s (takeUp 0x0807 (runNow (moveChecks false) storeEffect) p s))

/-! ## TKL.MASK (R317) -/

def maskOp (p : Packet) : Nat := pf p 4 25 24

def maskChecks (s : State) (p : Packet) : Checks :=
  let g := groupOf s (tklGroupNo p)
  { noChecks with
    param := resv p 4 0x30003FF ++ zeroWords p [5] ++ badIf (maskOp p == 3) 4 ++ badIf (dw p 8 == 0) 8
      ++ badIf (g.enabled && decide (g.nParams < dw p 6 + dw p 8)) (if decide (g.nParams ≤ dw p 6) then 6 else 8)
      ++ (if maskOp p = 2 then vaField p 10 else zeroWords p [10, 11])
    permission := notTklOwner s p
    degraded := tklDegraded s
    conflict := groupOff s p }

/-- New V words of a block: the mask of the range changes, except on words read poisoned. -/
def maskedV (p : Packet) (bits : List (Bool × Bool)) (b : Nat) (old : List (Word × Bool)) : List (Word × Bool) :=
  (List.range old.length).map fun i =>
    let w := old.getD i (0, false)
    let n := 128 * b + i
    if w.2 || decide (n < dw p 6) || decide (dw p 6 + dw p 8 ≤ n) then w
    else if maskOp p = 2 then let m := bits.getD (n - dw p 6) (false, false); (withFrozen m.1 w.1, m.2)
    else (withFrozen (maskOp p == 0) w.1, false)

def touches (p : Packet) (g : TklGroup) (b : Nat) : Bool := overlap (dw p 6) (dw p 8) (128 * b) (g.inBlock b)

/-- One block: rewritten where the range meets it, its frozen parameters counted. -/
def maskBlock (p : Packet) (g : TklGroup) (bits : List (Bool × Bool)) (b : Nat) (s : State) (a : Nat × Bool) : State × (Nat × Bool) × Option AFault :=
  match tsRead s g b 2 with
  | .error f => (s, a, some f)
  | .ok old =>
    let s := tsDetect g b 2 s
    let new := maskedV p bits b old
    let frozen := ((new.take (g.inBlock b)).filter fun w => !w.2 && isFrozen w.1).length
    let a := (a.1 + frozen, a.2 || (old.take (g.inBlock b)).any Prod.snd)
    if touches p g b then
      let r := tsWrite g b 2 new s
      (r.1, a, r.2)
    else (s, a, none)

def maskEffect (p : Packet) (s : State) : State × Result :=
  let g := groupOf s (tklGroupNo p)
  let c := issuerCtx s p.issuer
  match bitmapBits s c (maskOp p == 2) (dw p 10) (dw p 8) with
  | .error f => faulted f s
  | .ok bits =>
    let s := if maskOp p = 2 then detectVa reachHN c (dw p 10) (ceilDiv (dw p 8) 8) s else s
    let r := eachBlock (fun b s a => maskBlock p g bits b s a) g.blocks (0, bits.any Prod.snd) s
    match r.2.2 with
    | some f => faulted f r.1
    | none =>
      let n : DWord := BitVec.ofNat 64 r.2.1.1
      (r.1, { ranResult none r.2.1.2 false 0 0 0 0 0 with cnt0 := lo32 n, cnt1 := hi32 n })

/-- TKL.MASK. -/
def execTklMask (p : Packet) (s : State) : Host.Outcome State Fault Refusal := .next (met s (takeUp 0x0803 (runNow maskChecks maskEffect) p s))

end Sys2Proof.Machine
end

