-- ==== Sys2Proof/Machine/TackleStep.lean ====
section
/-! DEFINITION. TKL.STEP: the update rule, one block in a lane, working weights, and the end of a group and of the step (R301, R302, R304 to R313, R320 to R323). -/

namespace Sys2Proof.Machine

/-! ## The update rule (R301) -/

/-- A group's entry after group_begin. -/
def groupBegin (g : TklGroup) : TklGroup :=
  { g with t := g.t + 1, p1 := toB64 (rne64 ((b64 g.p1).mul (b32 g.b1))), p2 := toB64 (rne64 ((b64 g.p2).mul (b32 g.b2)))
           stepArmed := g.stepArmed && g.keep }

/-- The bias corrections bc1 and bc2, from the running products as group_begin left them. -/
def biasOf (on : Bool) (prod : DWord) : FV := if on then rne64 ((fvOfNat 1).sub (b64 prod)) else fvOfNat 1

/-- New p, m and v of one parameter. -/
def updateParam (g : TklGroup) (bc1 bc2 : FV) (p m v gin : FV) : FV × FV × FV :=
  let gr := if g.mult then rne32 ((b32 g.mu).mul gin) else gin
  let m' := rne32 (((b32 g.b1).mul m).add ((b32 g.c1).mul gr))
  let v' := rne32 (((b32 g.b2).mul v).add (((b32 g.c2).mul gr).mul gr))
  let r := fdiv fpB64 m' bc1
  let r := if g.denom then fdiv fpB64 r (rne64 ((fsqrt fpB64 (fdiv fpB64 v' bc2)).add (b32 g.eps))) else r
  let u := rne64 ((((b32 g.am).mul r).add ((b32 g.ag).mul gr)).add ((b32 g.ap).mul p))
  (rne32 (p.sub ((b32 g.eta).mul u)), m', v')

/-! ## A block (R302, R306) -/

inductive SkipCause where
  | none
  | poison
  | nonfinite
  | overflow
  deriving DecidableEq, Repr

/-- The state words of a block, and its gradient elements. -/
structure BlockIn where
  w : List (Word × Bool)
  m : List (Word × Bool)
  v : List (Word × Bool)
  grad : List PEl
  deriving DecidableEq, Repr

/-- Was any of the block's 24 lines delivered poisoned? -/
def BlockIn.bad (x : BlockIn) : Bool := (x.w ++ x.m ++ x.v).any Prod.snd

/-- One parameter as the lane leaves it: new W, M and V words, and whether all three are finite. -/
def laneParam (g : TklGroup) (bc1 bc2 : FV) (w m v : Word) (gr : FV) : (Word × Word × Word) × Bool :=
  if isFrozen v then ((w, m, v), true)
  else
    let r := updateParam g bc1 bc2 (b32 w) (b32 m) (b32 (withFrozen false v)) gr
    ((toB32 r.1, toB32 r.2.1, withFrozen false (toB32 r.2.2)), r.1.isFin && r.2.1.isFin && r.2.2.isFin)

/-- The parameters of a block of n, through the lane. -/
def laneOut (g : TklGroup) (x : BlockIn) (n : Nat) : List ((Word × Word × Word) × Bool) :=
  let bc1 := biasOf g.bcM g.p1
  let bc2 := biasOf g.bcV g.p2
  (List.range n).map fun i =>
    laneParam g bc1 bc2 (x.w.getD i (0, false)).1 (x.m.getD i (0, false)).1 (x.v.getD i (0, false)).1 (x.grad.getD i (fv0, false)).1

/-- Gradient elements of parameters that are not frozen. -/
def liveGrad (x : BlockIn) (n : Nat) : List PEl :=
  (List.range n).filterMap fun i => if isFrozen (x.v.getD i (0, false)).1 then none else some (x.grad.getD i (fv0, false))

/-- Why a block is skipped, in the order of R306. -/
def skipCause (g : TklGroup) (x : BlockIn) (n : Nat) : SkipCause :=
  if x.bad || (liveGrad x n).any Prod.snd then .poison
  else if (liveGrad x n).any fun e => !e.1.isFin then .nonfinite
  else if (laneOut g x n).all Prod.snd then .none
  else .overflow

/-- The first n words of a list replaced. -/
def overWords (ws : List (Word × Bool)) (new : List Word) : List (Word × Bool) := new.map (fun w => (w, false)) ++ ws.drop new.length

/-- Write a block back whole (R306, R308). -/
def writeBack (g : TklGroup) (b n : Nat) (x : BlockIn) (s : State) : State × Option AFault :=
  let out := (laneOut g x n).map Prod.fst
  let r := tsWrite g b 0 (overWords x.w (out.map fun o => o.1)) s
  let r := if r.2.isSome then r else tsWrite g b 1 (overWords x.m (out.map fun o => o.2.1)) r.1
  if r.2.isSome then r else tsWrite g b 2 (overWords x.v (out.map fun o => o.2.2)) r.1

/-- Read a block: its lines, and its gradient elements from the owner's memory. -/
def readBlock (s : State) (g : TklGroup) (b n : Nat) : Except AFault BlockIn :=
  match tsRead s g b 0, tsRead s g b 1, tsRead s g b 2, floatsAt s (tklEnv s) false (g.gVa + 512 * b) n with
  | .ok w, .ok m, .ok v, .ok gr => .ok { w := w, m := m, v := v, grad := gr }
  | .error f, _, _, _ => .error f
  | _, .error f, _, _ => .error f
  | _, _, .error f, _ => .error f
  | _, _, _, .error f => .error f

/-! ## Working weights (R308) -/

/-- Elements of a band of `len` that make its next piece: all of them unscaled, one scale block of a row, or the rows of a COL block row. -/
def bandNeed (g : TklGroup) (done len : Nat) : Nat :=
  let d := groupDesc g
  let bs := blockLen d.block
  let cols := max 1 (groupCols g)
  if bs = 0 then len
  else if d.col then min bs (groupRows g - done / cols) * cols
  else min cols ((done % cols / bs + 1) * bs) - done % cols

structure WWrite where
  band : List (Word × Bool)
  saturated : Nat
  fault : Option AFault
  deriving DecidableEq, Repr

def asEl (w : Word × Bool) : PEl := (b32 w.1, w.2)

/-- Write the elements of a piece whose first element is number `at_`, and its scale entries. -/
def writePiece (v : Env) (g : TklGroup) (at_ : Nat) (els : List PEl) (s : State) : State × Nat × Option AFault :=
  let d := groupDesc g
  let bs := blockLen d.block
  let cols := max 1 (groupCols g)
  let size := fmtBits d.fmt / 8
  let rows := if d.col then chunks cols els else [els]
  let old := List.replicate (if d.col then cols else 1) (0, false)
  let r := groupEls d cols old rows
  let flat := r.1.flatMap id
  let sc := if d.col then at_ / cols / max 1 bs * cols else at_ / cols * ceilDiv cols (max 1 bs) + at_ % cols / max 1 bs
  let w := locWrite v false (d.addr + size * at_) (packEls (fmtBits d.fmt) flat) s
  let w := if w.2.isSome || bs == 0 then w
           else locWrite v false (d.scale + sc * scaleSize d) (r.2.flatMap fun e => (leBytes (scaleSize d) e.1).map fun b => (b, e.2)) w.1
  (w.1, (flat.filter fun e => e.sat && !e.poison).length, w.2)

/-- Write every whole piece that the band holds; `done` elements of the group are written before it. -/
def drainBandW (v : Env) (g : TklGroup) : Nat → Nat → WWrite → State → State × WWrite
  | 0, _, a, s => (s, a)
  | fuel + 1, done, a, s =>
    let n := bandNeed g done a.band.length
    if a.fault.isSome || n = 0 || a.band.length < n then (s, a)
    else
      let r := writePiece v g done ((a.band.take n).map asEl) s
      drainBandW v g fuel (done + n) { band := a.band.drop n, saturated := a.saturated + r.2.1, fault := r.2.2 } r.1

/-! ## Ending a step (R311 to R313, R323) -/

def tklJob (s : State) : Option (TklRun × Job) := s.tkl.run.bind fun r => (jobOf s r.uid).map fun j => (r, j)

def setTklRun (r : TklRun) (s : State) : State := { s with tkl := { s.tkl with run := some r } }

def stepReportV (p : Packet) : Bool := pb p 4 24
def stepSkipV (p : Packet) : Bool := pb p 4 25

/-- The result of a step that ends at a fault or with its groups processed (R57, R313). -/
def stepResult (r : TklRun) (fault : Option AFault) : Result :=
  let x := stepCounts r
  match fault with
  | none => { x with status := if 0 < r.skipPoison then stFLT_POISON else if 0 < r.skipNonfinite + r.skipOverflow + r.wSaturated then stFLAGGED else stOK }
  | some f =>
    let x : Result := { x with status := f.status, detail := x.detail ||| dIf (f.status == stFLT_POISON) dfPOISON }
    if f.cause = 0 then x else { x with cnt0 := f.res.cnt0, cnt1 := f.res.cnt1 }

/-- The step report (R312). -/
def reportBytes (r : TklRun) (uptime : Word) : List Byte :=
  leBytes 8 r.frozenSkips ++ leBytes 8 r.skipNonfinite ++ leBytes 8 r.skipOverflow ++ leBytes 8 r.skipPoison
    ++ leBytes 8 (combineCrcs r.crcs).toNat ++ leBytes 8 r.wSaturated ++ leBytes 4 r.groupsDone ++ leBytes 4 (r.paramsDone / 2 ^ 32)
    ++ leBytes 4 uptime.toNat ++ leBytes 4 r.paramsDone

/-- Stop inside the group at a fault (R323). -/
def stepFault (r : TklRun) (f : AFault) (s : State) : State := tklInterrupt (fun _ => stepResult r (some f)) (reportTable f s)

/-- End between groups: nothing is left incomplete. -/
def stepEnd (r : TklRun) (fault : Option AFault) (s : State) : State :=
  finish r.uid (stepResult r fault) { s with tkl := { s.tkl with run := none } }

/-- Every group is done: the report, then the reply. -/
def stepDone (r : TklRun) (p : Packet) (s : State) : State :=
  if !stepReportV p then stepEnd r none s
  else
    let w := vaWrite reachHN (issuerCtx s p.issuer) (dw p 6) ((reportBytes r s.clk.uptimeMs).map fun b => (b, false)) s
    match w.2 with
    | some f => stepEnd r (some f) (reportTable f w.1)
    | none => stepEnd r none w.1

/-- The first fault that a group's ranges would meet (R305). -/
def groupFault (s : State) (g : TklGroup) : Option AFault :=
  let d := groupDesc g
  let c := tklCtx s
  (vaCheck s reachHN c g.gVa (4 * g.nParams) false).or
    ((vaCheck s reachHN c g.wVa (g.nParams * (fmtBits d.fmt / 8)) true).or
      (if d.block = 0 then none else vaCheck s reachHN c g.scaleVa (scaleEntries d (groupRows g) (groupCols g) * scaleSize d) true))

/-- Go on with the first enabled group from number n on: its translation, then group_begin; without one the step is done. -/
def nextGroup (r : TklRun) (p : Packet) (n : Nat) (s : State) : State :=
  match (enabledIn s p).find? fun k => decide (n ≤ k) with
  | none => stepDone r p s
  | some k =>
    let g := groupOf s k
    match groupFault s g with
    | some f => stepEnd r (some f) (reportTable f s)
    | none => setTklRun { r with group := k, block := 0, crc := 0, skips := [], band := [] } (setGroup k (groupBegin g) s)

/-! ## TKL.STEP (R304, R305) -/

def stepChecks (s : State) (p : Packet) : Checks :=
  { noChecks with
    param := rangeParam s p 0x3000000 true ++ zeroWords p [5, 10, 11]
      ++ (if stepReportV p then vaField p 6 ++ badIf (dw p 6 % 64 != 0) 6 else zeroWords p [6, 7])
      ++ (if stepSkipV p then vaField p 8 else zeroWords p [8, 9])
    permission := notTklOwner s p
    degraded := tklDegraded s
    conflict := badIf ((enabledIn s p).any fun g => !(groupOf s g).stepArmed && !(groupOf s g).keep) 4 }

def newRun (uid : Nat) (p : Packet) : TklRun :=
  { uid := uid, first := tklFirst p, last := tklLast p, group := tklFirst p, block := 0, frozenSkips := 0, skipNonfinite := 0, skipOverflow := 0
    skipPoison := 0, wSaturated := 0, groupsDone := 0, paramsDone := 0, anyUnfrozen := false, digestPoisoned := false, crc := 0, crcs := []
    skips := [], band := [] }

def runStep (uid : Nat) (p : Packet) (s : State) : State :=
  match verdict (stepChecks s p) with
  | some r => answerAtOnce uid p r s
  | none => nextGroup (newRun uid p) p (tklFirst p) (addJob (newJob s uid p .tklStep) s)

/-- TKL.STEP: starts; its blocks and groups follow as steps of the chip. -/
def execTklStep (p : Packet) (s : State) : Host.Outcome State Fault Refusal := .next (met s (takeUp 0x0805 runStep p s))

/-! ## TKL_BLOCK_UPDATE (R306, R308, R321, R322) -/

/-- A lane in service: working and not on STANDBY (R520). -/
def laneActive (s : State) (n : Nat) : Bool := (tackleLanes s).contains n && !s.str.standby.contains (strandId (sTKL n))

/-- Frames that cross the Tackle link meet its injections (R396). -/
def linkFlits (s : State) : State := fireArmed sTX 0 .none (fireArmed sTL 0 .none s)

def countCause (c : SkipCause) (r : TklRun) : TklRun :=
  match c with
  | .none => r
  | .poison => { r with skipPoison := r.skipPoison + 1 }
  | .nonfinite => { r with skipNonfinite := r.skipNonfinite + 1 }
  | .overflow => { r with skipOverflow := r.skipOverflow + 1 }

/-- What the run keeps of a block: counts, digest, skip bit (R306, R311, R312). A frozen parameter counts where its own words were read unpoisoned; one whose V word was read poisoned is not known to be frozen. -/
def runAfter (r : TklRun) (x : BlockIn) (n : Nat) (cause : SkipCause) (masters : List (Word × Bool)) : TklRun :=
  let at_ := fun (l : List (Word × Bool)) (i : Nat) => l.getD i (0, false)
  let frozen := (List.range n).filter fun i => !(at_ x.v i).2 && isFrozen (at_ x.v i).1
  let sound := frozen.filter fun i => !(at_ x.w i).2 && !(at_ x.m i).2
  let d := digestBytes masters
  let r := countCause cause r
  { r with block := r.block + 1, frozenSkips := r.frozenSkips + sound.length, anyUnfrozen := r.anyUnfrozen || decide (frozen.length < n)
           crc := BitVec.ofNat 64 (crc64 r.crc.toNat d.1), digestPoisoned := r.digestPoisoned || d.2, skips := r.skips ++ [cause != .none]
           band := r.band ++ masters.map fun w => (w.1, w.2 || x.bad) }

/-- A block through a sound lane: its requests pass the tracker, and it is updated or skipped, written back, its working weights written (R226, R323). -/
def runBlock (r : TklRun) (s : State) : State :=
  let t := passEntry (tklCtx s) r.uid sTL s
  let s := t.1
  let g := groupOf s r.group
  let b := r.block
  let n := g.inBlock b
  if s.tkl.run.isNone then s
  else if t.2 then stepFault r { status := stFLT_TIMEOUT, cause := 0, va := 0, table := none } s
  else
  match readBlock s g b n with
  | .error f => stepFault r f s
  | .ok x =>
    let s := (List.range 3).foldl (fun s k => tsDetect g b k s) (detectVa reachHN (tklCtx s) (g.gVa + 512 * b) (4 * n) (linkFlits s))
    if s.tkl.run.isNone then s
    else
      let cause := skipCause g x n
      let wb := if cause = .none then writeBack g b n x s else (s, none)
      match wb.2 with
      | some f => stepFault r f wb.1
      | none =>
        let masters := if cause = .none then (laneOut g x n).map fun o => (o.1.1, false) else x.w.take n
        let r' := runAfter r x n cause masters
        let w := drainBandW (tklEnv s) g 256 (128 * b - r.band.length) { band := r'.band, saturated := 0, fault := none } wb.1
        let r' := { r' with band := w.2.band, wSaturated := r'.wSaturated + w.2.saturated }
        match w.2.fault with
        | some f => stepFault r' f w.1
        | none => if w.1.tkl.run.isNone then w.1 else setTklRun r' w.1

/-- TKL_BLOCK_UPDATE: the next block of the group in a lane. A failed write-back check drops it: it is handed out again, and the lane is fenced. -/
def execTklBlockUpdate (block lane : Nat) (parityFail : Bool) (s : State) : Host.Outcome State Fault Refusal :=
  .next (match s.tkl.run with
    | none => s
    | some r =>
      if block ≠ r.block ∨ (groupOf s r.group).blocks ≤ block ∨ !laneActive s lane ∨ entriesLeft s (tklCtx s) = 0 then s
      else if parityFail then raiseEvent (sTKL lane) 0 .none false false s
      else if armedOn s (sTKL lane) 0 then fireArmed (sTKL lane) 0 .none s
      else runBlock r s)

/-! ## TKL_GROUP_DONE (R309, R310) -/

/-- The skip bitmap bytes of a group: place and bytes. -/
def skipBytes (r : TklRun) (g : TklGroup) : Nat × List Byte := (g.base / 1536 / 8, (chunks 8 r.skips).map fun l => BitVec.ofNat 8 (packBits l))

/-- TKL_GROUP_DONE: the skip bitmap, then the hitch; the next group, or the end of the step. -/
def execTklGroupDone (s : State) : Host.Outcome State Fault Refusal :=
  .next (met s (match tklJob s with
    | none => s
    | some (r, j) =>
      let g := groupOf s r.group
      if r.block < g.blocks then s
      else
        let sk := skipBytes r g
        let w := if stepSkipV j.pkt then vaWrite reachHN j.ctx (dw j.pkt 8 + sk.1) (sk.2.map fun b => (b, false)) s else (s, none)
        match w.2 with
        | some f => stepFault r f w.1
        | none =>
          let s := if g.hitchEn then hitchAdd g.hitch 1 w.1 else w.1
          let r := { r with crcs := r.crcs ++ [(g.base, 4 * g.nParams, r.crc)], groupsDone := r.groupsDone + 1, paramsDone := r.paramsDone + g.nParams }
          nextGroup r j.pkt (r.group + 1) s))

end Sys2Proof.Machine
end

