-- ==== Sys2Proof/Machine/Telltales.lean ====
section
/-! DEFINITION. Telltale slots: TTL.BIND, TTL.READ and TTL.RESET (R232 to R234, R380). -/

namespace Sys2Proof.Machine

def slotNo (p : Packet) : Nat := pf p 4 11 0

/-- The slot TTL.BIND binds: the one named, or the lowest free one. -/
def slotToBind (s : State) (p : Packet) : Option Nat := if pb p 4 12 then kvFree 4096 s.ttls else some (slotNo p)

def bindChecks (s : State) (p : Packet) : Checks :=
  { noChecks with
    param := resv p 4 0x1FFF ++ badIf (pb p 4 12 && decide (slotNo p ≠ 0)) 4 ++ zeroWords p [5, 6, 7]
    conflict := badIf (!pb p 4 12 && (match (ttlOf s (slotNo p)).owner with
      | some c => c != issuerCtx s p.issuer
      | none => false)) 4
    resource := badIf (slotToBind s p).isNone 4 }

/-- TTL.BIND: a slot already bound to the context stays as it is. -/
def bindEffect (p : Packet) (s : State) : State × Result :=
  let n := (slotToBind s p).getD 0
  let c := issuerCtx s p.issuer
  let s := if slotBound s c n then s else { s with ttls := kvSet n { noTelltale with owner := some c } s.ttls }
  (fireArmed sDSP 3 (.slot n) s, okCnt (BitVec.ofNat 32 n) 0 0 0)

def execTtlBind (p : Packet) (s : State) : Host.Outcome State Fault Refusal :=
  .next (met s (takeUp 0x0901 (runNow bindChecks bindEffect) p s))

/-- A slot not bound to the issuing context, unless context 0 asks (R380). -/
def slotOwner (s : State) (p : Packet) : List Nat :=
  badIf (!(privileged s p || slotBound s (issuerCtx s p.issuer) (slotNo p))) 4

/-- The counters at their start; the binding stands. -/
def clearSlot (n : Nat) (s : State) : State :=
  match kvGet n s.ttls with
  | some k => fireArmed sDSP 3 (.slot n) { s with ttls := kvSet n { noTelltale with owner := k.owner } s.ttls }
  | none => s

/-- The 32-byte record (R234). -/
def slotRecord (s : State) (n : Nat) : List Byte :=
  let k := ttlOf s n
  leBytes 6 k.written ++ leBytes 6 k.zeros ++ leBytes 6 k.saturated ++ leBytes 6 k.nonfinite
    ++ leBytes 2 ((k.maxExp % 2 ^ 16).toNat) ++ leBytes 2 n ++ zeros 4

def ttlReadChecks (s : State) (p : Packet) : Checks :=
  { noChecks with
    param := resv p 4 0x2FFF ++ zeroWords p [5] ++ vaRange p 6 32 ++ badIf (decide (dw p 6 % 32 ≠ 0)) 6
    permission := slotOwner s p }

/-- A fault of the record's write as class 0x09 returns it: FLT_ACCESS alone is listed for it, so a target that is unbacked is answered as a hole, and a table that cannot be read under its own cause (R47, R82, log 130). -/
def slotFault (f : AFault) : AFault := { f with status := stFLT_ACCESS, cause := if f.cause = 0 then causeHOLE else f.cause }

/-- TTL.READ: the record is written; with CLEAR the slot is cleared in the same step. -/
def ttlReadEffect (p : Packet) (s : State) : State × Result :=
  match vaWrite reachQueue (issuerCtx s p.issuer) (dw p 6) ((slotRecord s (slotNo p)).map fun b => (b, false)) s with
  | (s, some f) => (reportTable f s, (slotFault f).res)
  | (s, none) => (if pb p 4 13 then clearSlot (slotNo p) s else s, okRes)

def execTtlRead (p : Packet) (s : State) : Host.Outcome State Fault Refusal :=
  .next (met s (takeUp 0x0902 (runNow ttlReadChecks ttlReadEffect) p s))

def ttlResetChecks (s : State) (p : Packet) : Checks :=
  { noChecks with param := resv p 4 0x4FFF ++ zeroWords p [5, 6, 7], permission := slotOwner s p }

/-- TTL.RESET: the slot is cleared, and with RELEASE its binding ends. -/
def ttlResetEffect (p : Packet) (s : State) : State × Result :=
  let s := clearSlot (slotNo p) s
  (if pb p 4 14 then { s with ttls := kvErase (slotNo p) s.ttls } else s, okRes)

def execTtlReset (p : Packet) (s : State) : Host.Outcome State Fault Refusal :=
  .next (met s (takeUp 0x0903 (runNow ttlResetChecks ttlResetEffect) p s))

end Sys2Proof.Machine
end

