-- ==== Sys2Proof/Machine/Dispatch.lean ====
section
/-! DEFINITION. The meaning of each command, one arm a constructor. -/

namespace Sys2Proof.Machine

def exec (i : Instr) (s : State) : Host.Outcome State Fault Refusal :=
  match i with
  | .ctlNop p => Sys2Proof.Machine.execCtlNop p s
  | .ctlBarrier p => Sys2Proof.Machine.execCtlBarrier p s
  | .ctxCreate p => Sys2Proof.Machine.execCtxCreate p s
  | .ctxDestroy p => Sys2Proof.Machine.execCtxDestroy p s
  | .ctxMap p => Sys2Proof.Machine.execCtxMap p s
  | .ctxUnmap p => Sys2Proof.Machine.execCtxUnmap p s
  | .qCreate p => Sys2Proof.Machine.execQCreate p s
  | .qDestroy p => Sys2Proof.Machine.execQDestroy p s
  | .hchSignal p => Sys2Proof.Machine.execHchSignal p s
  | .hchAdd p => Sys2Proof.Machine.execHchAdd p s
  | .hchWait p => Sys2Proof.Machine.execHchWait p s
  | .hchRead p => Sys2Proof.Machine.execHchRead p s
  | .hchProducer p => Sys2Proof.Machine.execHchProducer p s
  | .hchRemoteSignal p => Sys2Proof.Machine.execHchRemoteSignal p s
  | .xfrCopy p => Sys2Proof.Machine.execXfrCopy p s
  | .xfrCopy2d p => Sys2Proof.Machine.execXfrCopy2d p s
  | .xfrFill p => Sys2Proof.Machine.execXfrFill p s
  | .xfrPrefetch p => Sys2Proof.Machine.execXfrPrefetch p s
  | .xfrRemoteWrite p => Sys2Proof.Machine.execXfrRemoteWrite p s
  | .xfrRemoteRead p => Sys2Proof.Machine.execXfrRemoteRead p s
  | .xfrWindowGrant p => Sys2Proof.Machine.execXfrWindowGrant p s
  | .xfrWindowRevoke p => Sys2Proof.Machine.execXfrWindowRevoke p s
  | .arrMma p => Sys2Proof.Machine.execArrMma p s
  | .arrMmaPacked p => Sys2Proof.Machine.execArrMmaPacked p s
  | .arrDist p => Sys2Proof.Machine.execArrDist p s
  | .arrSelftest p => Sys2Proof.Machine.execArrSelftest p s
  | .accSave p => Sys2Proof.Machine.execAccSave p s
  | .accResume p => Sys2Proof.Machine.execAccResume p s
  | .vecMap p => Sys2Proof.Machine.execVecMap p s
  | .vecReduce p => Sys2Proof.Machine.execVecReduce p s
  | .vecSoftmax p => Sys2Proof.Machine.execVecSoftmax p s
  | .vecNorm p => Sys2Proof.Machine.execVecNorm p s
  | .vecConvert p => Sys2Proof.Machine.execVecConvert p s
  | .vecQuant p => Sys2Proof.Machine.execVecQuant p s
  | .vecOrtho p => Sys2Proof.Machine.execVecOrtho p s
  | .vecSummary p => Sys2Proof.Machine.execVecSummary p s
  | .gsxGather p => Sys2Proof.Machine.execGsxGather p s
  | .gsxScatter p => Sys2Proof.Machine.execGsxScatter p s
  | .gsxRoute p => Sys2Proof.Machine.execGsxRoute p s
  | .rnkTopk p => Sys2Proof.Machine.execRnkTopk p s
  | .attSelect p => Sys2Proof.Machine.execAttSelect p s
  | .attFwd p => Sys2Proof.Machine.execAttFwd p s
  | .attBwd p => Sys2Proof.Machine.execAttBwd p s
  | .splPlan p => Sys2Proof.Machine.execSplPlan p s
  | .splOpen p => Sys2Proof.Machine.execSplOpen p s
  | .splContrib p => Sys2Proof.Machine.execSplContrib p s
  | .splLowrank p => Sys2Proof.Machine.execSplLowrank p s
  | .splClose p => Sys2Proof.Machine.execSplClose p s
  | .splStatus p => Sys2Proof.Machine.execSplStatus p s
  | .tklCoef p => Sys2Proof.Machine.execTklCoef p s
  | .tklStepsize p => Sys2Proof.Machine.execTklStepsize p s
  | .tklMask p => Sys2Proof.Machine.execTklMask p s
  | .tklNorm p => Sys2Proof.Machine.execTklNorm p s
  | .tklStep p => Sys2Proof.Machine.execTklStep p s
  | .tklLoad p => Sys2Proof.Machine.execTklLoad p s
  | .tklStore p => Sys2Proof.Machine.execTklStore p s
  | .tklDigest p => Sys2Proof.Machine.execTklDigest p s
  | .ttlBind p => Sys2Proof.Machine.execTtlBind p s
  | .ttlRead p => Sys2Proof.Machine.execTtlRead p s
  | .ttlReset p => Sys2Proof.Machine.execTtlReset p s
  | .strQuery p => Sys2Proof.Machine.execStrQuery p s
  | .strFence p => Sys2Proof.Machine.execStrFence p s
  | .strUnfence p refault => Sys2Proof.Machine.execStrUnfence p refault s
  | .strReset p => Sys2Proof.Machine.execStrReset p s
  | .strInject p => Sys2Proof.Machine.execStrInject p s
  | .strRepairCommit p => Sys2Proof.Machine.execStrRepairCommit p s
  | .strService p => Sys2Proof.Machine.execStrService p s
  | .logMark p => Sys2Proof.Machine.execLogMark p s
  | .logRead p => Sys2Proof.Machine.execLogRead p s
  | .logLimit p => Sys2Proof.Machine.execLogLimit p s
  | .secIdent p => Sys2Proof.Machine.execSecIdent p s
  | .secAttest p => Sys2Proof.Machine.execSecAttest p s
  | .secFwStage p readBackOk => Sys2Proof.Machine.execSecFwStage p readBackOk s
  | .secFwActivate p => Sys2Proof.Machine.execSecFwActivate p s
  | .doorbellWrite offset size value host => Sys2Proof.Machine.execDoorbellWrite offset size value host s
  | .packetFetch gqid host => Sys2Proof.Machine.execPacketFetch gqid host s
  | .packetComplete uid => Sys2Proof.Machine.execPacketComplete uid s
  | .hchWaitTimeout gqid => Sys2Proof.Machine.execHchWaitTimeout gqid s
  | .batchDeadline batch => Sys2Proof.Machine.execBatchDeadline batch s
  | .arraySchedule failing units => Sys2Proof.Machine.execArraySchedule failing units s
  | .arrMapRebuild => Sys2Proof.Machine.execArrMapRebuild s
  | .tileDrain upsets => Sys2Proof.Machine.execTileDrain upsets s
  | .arraySpill => Sys2Proof.Machine.execArraySpill s
  | .spillSplitWrite value => Sys2Proof.Machine.execSpillSplitWrite value s
  | .spillSplitApply => Sys2Proof.Machine.execSpillSplitApply s
  | .msgWrite link m => Sys2Proof.Machine.execMsgWrite link m s
  | .msgReadReq link m => Sys2Proof.Machine.execMsgReadReq link m s
  | .msgHitchOp link m => Sys2Proof.Machine.execMsgHitchOp link m s
  | .msgWindowRevoke link m => Sys2Proof.Machine.execMsgWindowRevoke link m s
  | .msgAck link m => Sys2Proof.Machine.execMsgAck link m s
  | .msgReadData link m => Sys2Proof.Machine.execMsgReadData link m s
  | .msgNeg link m => Sys2Proof.Machine.execMsgNeg link m s
  | .msgMgtReq link localOnly m => Sys2Proof.Machine.execMsgMgtReq link localOnly m s
  | .msgMgtRsp link m => Sys2Proof.Machine.execMsgMgtRsp link m s
  | .msgSend link vc => Sys2Proof.Machine.execMsgSend link vc s
  | .flitData link flit => Sys2Proof.Machine.execFlitData link flit s
  | .flitIdle link flit => Sys2Proof.Machine.execFlitIdle link flit s
  | .flitNak link flit => Sys2Proof.Machine.execFlitNak link flit s
  | .flitCreditAudit link flit => Sys2Proof.Machine.execFlitCreditAudit link flit s
  | .flitTrain link peerDev peerLink badLanes rtt => Sys2Proof.Machine.execFlitTrain link peerDev peerLink badLanes rtt s
  | .linkRetrainEnd link ok => Sys2Proof.Machine.execLinkRetrainEnd link ok s
  | .laneSymbolLimit link lane => Sys2Proof.Machine.execLaneSymbolLimit link lane s
  | .splMsgRun link m upsets => Sys2Proof.Machine.execSplMsgRun link m upsets s
  | .splMsgFinal link m => Sys2Proof.Machine.execSplMsgFinal link m s
  | .splMsgGrant link m => Sys2Proof.Machine.execSplMsgGrant link m s
  | .splMsgAbandon link m => Sys2Proof.Machine.execSplMsgAbandon link m s
  | .splBucketActivate plan => Sys2Proof.Machine.execSplBucketActivate plan s
  | .splLocalRead plan entry chunk upsets => Sys2Proof.Machine.execSplLocalRead plan entry chunk upsets s
  | .splLowrankStep plan entry => Sys2Proof.Machine.execSplLowrankStep plan entry s
  | .splSlotRelease plan entry chunk => Sys2Proof.Machine.execSplSlotRelease plan entry chunk s
  | .splWaitTimeout plan entry => Sys2Proof.Machine.execSplWaitTimeout plan entry s
  | .splFinalTimeout plan entry => Sys2Proof.Machine.execSplFinalTimeout plan entry s
  | .tklBlockUpdate block lane parityFail => Sys2Proof.Machine.execTklBlockUpdate block lane parityFail s
  | .tklGroupDone => Sys2Proof.Machine.execTklGroupDone s
  | .trackerTimeout tid => Sys2Proof.Machine.execTrackerTimeout tid s
  | .hostCompletion tid epoch how host => Sys2Proof.Machine.execHostCompletion tid epoch how host s
  | .pcieCompletionTimeout tid => Sys2Proof.Machine.execPcieCompletionTimeout tid s
  | .errorEvent strand src obj => Sys2Proof.Machine.execErrorEvent strand src obj s
  | .railFault strand src summary => Sys2Proof.Machine.execRailFault strand src summary s
  | .blockRemapDone unit block => Sys2Proof.Machine.execBlockRemapDone unit block s
  | .unitRedirectDone unit => Sys2Proof.Machine.execUnitRedirectDone unit s
  | .patrolScrub unit addr found => Sys2Proof.Machine.execPatrolScrub unit addr found s
  | .rootScan => Sys2Proof.Machine.execRootScan s
  | .stickyRearm strand src => Sys2Proof.Machine.execStickyRearm strand src s
  | .watchdogExpiry => Sys2Proof.Machine.execWatchdogExpiry s
  | .clockLoss strands => Sys2Proof.Machine.execClockLoss strands s
  | .sysRefclkLoss => Sys2Proof.Machine.execSysRefclkLoss s
  | .genResetDone uid => Sys2Proof.Machine.execGenResetDone uid s
  | .genResetForce uid => Sys2Proof.Machine.execGenResetForce uid s
  | .fndCaptureDone => Sys2Proof.Machine.execFndCaptureDone s
  | .fndStopDone => Sys2Proof.Machine.execFndStopDone s
  | .fndDrainDone => Sys2Proof.Machine.execFndDrainDone s
  | .fndResetDone => Sys2Proof.Machine.execFndResetDone s
  | .fndRestoreDone => Sys2Proof.Machine.execFndRestoreDone s
  | .ctxDestroyDone uid => Sys2Proof.Machine.execCtxDestroyDone uid s
  | .ctxDestroyForce uid => Sys2Proof.Machine.execCtxDestroyForce uid s
  | .snarlEval => Sys2Proof.Machine.execSnarlEval s
  | .captureDone silent => Sys2Proof.Machine.execCaptureDone silent s
  | .captTrigger => Sys2Proof.Machine.execCaptTrigger s
  | .sbTrigLow => Sys2Proof.Machine.execSbTrigLow s
  | .mboxGo => Sys2Proof.Machine.execMboxGo s
  | .mboxDone => Sys2Proof.Machine.execMboxDone s
  | .irqEnableWrite value => Sys2Proof.Machine.execIrqEnableWrite value s
  | .deviceIdWrite value => Sys2Proof.Machine.execDeviceIdWrite value s
  | .routingWrite offset size value => Sys2Proof.Machine.execRoutingWrite offset size value s
  | .apertureWrite offset size value => Sys2Proof.Machine.execApertureWrite offset size value s
  | .apertureRead => Sys2Proof.Machine.execApertureRead s
  | .bar4Read offset len => Sys2Proof.Machine.execBar4Read offset len s
  | .bar4Write offset data ep => Sys2Proof.Machine.execBar4Write offset data ep s
  | .regWrite offset size value => Sys2Proof.Machine.execRegWrite offset size value s
  | .msixUnmask vector => Sys2Proof.Machine.execMsixUnmask vector s
  | .pciePmStateWrite d3hot => Sys2Proof.Machine.execPciePmStateWrite d3hot s
  | .rebarSizeWrite log2GiB => Sys2Proof.Machine.execRebarSizeWrite log2GiB s
  | .pcieHotReset => Sys2Proof.Machine.execPcieHotReset s
  | .perstNAssert => Sys2Proof.Machine.execPerstNAssert s
  | .perstNRelease => Sys2Proof.Machine.execPerstNRelease s
  | .pcieCorrectable => Sys2Proof.Machine.execPcieCorrectable s
  | .sysResetNAssert => Sys2Proof.Machine.execSysResetNAssert s
  | .sysResetNRelease => Sys2Proof.Machine.execSysResetNRelease s
  | .inputInWindow => Sys2Proof.Machine.execInputInWindow s
  | .pwrEnAssert => Sys2Proof.Machine.execPwrEnAssert s
  | .pwrEnDeassert => Sys2Proof.Machine.execPwrEnDeassert s
  | .powerdownDone => Sys2Proof.Machine.execPowerdownDone s
  | .inputDrop millivolts kept => Sys2Proof.Machine.execInputDrop millivolts kept s
  | .thermalTrip source stack => Sys2Proof.Machine.execThermalTrip source stack s
  | .tripLatchClear => Sys2Proof.Machine.execTripLatchClear s
  | .startupSupply => Sys2Proof.Machine.execStartupSupply s
  | .startupRom straps => Sys2Proof.Machine.execStartupRom straps s
  | .startupMgmt => Sys2Proof.Machine.execStartupMgmt s
  | .startupHost failedCores => Sys2Proof.Machine.execStartupHost failedCores s
  | .startupPower failed => Sys2Proof.Machine.execStartupPower failed s
  | .startupTrain failed => Sys2Proof.Machine.execStartupTrain failed s
  | .startupTest failed failedBlocks => Sys2Proof.Machine.execStartupTest failed failedBlocks s
  | .startupReady elapsedMs => Sys2Proof.Machine.execStartupReady elapsedMs s
  | .startupPhaseTimeout unit => Sys2Proof.Machine.execStartupPhaseTimeout unit s
  | .logProgram => Sys2Proof.Machine.execLogProgram s
  | .logTokenRefill code => Sys2Proof.Machine.execLogTokenRefill code s
  | .opSecondsTick => Sys2Proof.Machine.execOpSecondsTick s
  | .uptimeMsTick => Sys2Proof.Machine.execUptimeMsTick s
  | .opSecondsPersist => Sys2Proof.Machine.execOpSecondsPersist s
  | .entdaa addr => Sys2Proof.Machine.execEntdaa addr s
  | .setdasa staticAddr addr => Sys2Proof.Machine.execSetdasa staticAddr addr s
  | .setEndpointId eid => Sys2Proof.Machine.execSetEndpointId eid s
  | .getEndpointId => Sys2Proof.Machine.execGetEndpointId s
  | .getMctpVersionSupport => Sys2Proof.Machine.execGetMctpVersionSupport s
  | .getMessageTypeSupport => Sys2Proof.Machine.execGetMessageTypeSupport s
  | .getVendorDefinedMessageSupport => Sys2Proof.Machine.execGetVendorDefinedMessageSupport s
  | .packetReq vendor tag rsvd words => Sys2Proof.Machine.execPacketReq vendor tag rsvd words s
  | .captReq vendor tag rsvd offset length => Sys2Proof.Machine.execCaptReq vendor tag rsvd offset length s
  | .getSensorReading sensor => Sys2Proof.Machine.execGetSensorReading sensor s
  | .getPdr record => Sys2Proof.Machine.execGetPdr record s
  | .setEventReceiver eid polling => Sys2Proof.Machine.execSetEventReceiver eid polling s
  | .queryDeviceIdentifiers => Sys2Proof.Machine.execQueryDeviceIdentifiers s
  | .getFirmwareParameters => Sys2Proof.Machine.execGetFirmwareParameters s
  | .getStatus => Sys2Proof.Machine.execGetStatus s
  | .requestUpdate => Sys2Proof.Machine.execRequestUpdate s
  | .passComponentTable => Sys2Proof.Machine.execPassComponentTable s
  | .updateComponent imageSize => Sys2Proof.Machine.execUpdateComponent imageSize s
  | .requestFirmwareData offset data => Sys2Proof.Machine.execRequestFirmwareData offset data s
  | .activateFirmware => Sys2Proof.Machine.execActivateFirmware s
  | .cancelUpdateComponent => Sys2Proof.Machine.execCancelUpdateComponent s
  | .cancelUpdate => Sys2Proof.Machine.execCancelUpdate s
  | .memoryReply tid epoch ecc => Sys2Proof.Machine.execMemoryReply tid epoch ecc s
  | .frameAlignmentLoss link => Sys2Proof.Machine.execFrameAlignmentLoss link s
  | .jtagPrivateInstruction op => Sys2Proof.Machine.execJtagPrivateInstruction op s
  | .verifyComplete => Sys2Proof.Machine.execVerifyComplete s
  | .applyComplete readBackOk => Sys2Proof.Machine.execApplyComplete readBackOk s

end Sys2Proof.Machine
end

