-- ==== Sys2Proof/Safety.lean ====
section
/-! DEFINITION. What a safe state is, in the terms the statements use: byte memories in canonical form, and when a packet is taken up and accepted. -/

namespace Sys2Proof

/-- Every byte memory of the state lists rising addresses and no zero (R4, log 7). -/
def Memory.wf (s : Machine.State) : Bool :=
  Machine.cellsWf 0 s.mem.cells && Machine.cellsWf 0 s.mem.host && Machine.cellsWf 0 s.pci.mbox && Machine.cellsWf 0 s.capt.sram
    && Machine.cellsWf 0 s.mgt.image

namespace Safety

open Machine

/-- A packet under the opcode of its command. -/
def asOp (op : Nat) (p : Packet) : Packet := { p with opcode := BitVec.ofNat 16 op }

/-- The number of a packet that is taken up: the one it was fetched under, or the next. -/
def packetNo (op : Nat) (p : Packet) (s : State) : Nat := (fetchedUid s (asOp op p)).getD s.nextUid

/-- The state with the packet taken out of those that wait, or counted where it was not among them. -/
def takenUp (op : Nat) (p : Packet) (s : State) : State :=
  if (fetchedUid s (asOp op p)).isNone then { s with nextUid := s.nextUid + 1 }
  else { s with fetched := s.fetched.filter fun kv => kv.1 != packetNo op p s }

/-- The packet can start now (R66, R67), on firmware that runs, and its header is right (R49 to R51, R355, R358). -/
def Ready (op : Nat) (p : Packet) (s : State) : Prop :=
  alive s = true ∧ mayStart s (packetNo op p s) (asOp op p) = true ∧ headerVerdict (takenUp op p s) (asOp op p) = none

/-- It is ready, and no rejection of R83 applies to it. -/
def Accepted (op : Nat) (checks : State → Packet → Checks) (p : Packet) (s : State) : Prop :=
  Ready op p s ∧ verdict (checks (takenUp op p s) (asOp op p)) = none

/-- Number and result of the packet that was answered last. -/
def lastReply (u : State) : Option (Nat × Option Result) := u.jobs.getLast?.map fun (j : Job) => (j.uid, j.res)

/-- Number and work of the packet that started last. -/
def lastWork (u : State) : Option (Nat × Work) := u.jobs.getLast?.map fun (j : Job) => (j.uid, j.work)

/-- The state with a packet added that has its result. -/
def answered (op : Nat) (p : Packet) (s : State) (r : Result) (u : State) : State :=
  addJob { newJob (takenUp op p s) (packetNo op p s) (asOp op p) .finished with res := some r } u

/-- Accepted, the command runs its effect whole in the step and is answered with the effect's result. -/
def RunsWhole (mk : Packet → Instr) (op : Nat) (checks : State → Packet → Checks) (effect : Packet → State → State × Result) : Prop :=
  ∀ (p : Packet) (s : State), Accepted op checks p s →
    exec (mk p) s
      = .next (met s (answered op p s (effect (asOp op p) (takenUp op p s)).2 (effect (asOp op p) (takenUp op p s)).1))

/-- As `RunsWhole`, for an engine whose operands stream through the tracker where `virt` says so: such a command waits while no entry is left to its context, and else passes an entry and runs whole (R226, R227). -/
def RunsTracked (mk : Packet → Instr) (op : Nat) (st : Strand) (virt : Packet → Bool) (checks : State → Packet → Checks)
    (effect : Packet → State → State × Result) : Prop :=
  ∀ (p : Packet) (s : State), Accepted op checks p s →
    let q := asOp op p
    let s0 := takenUp op p s
    let no := packetNo op p s
    let c := issuerCtx s0 q.issuer
    let t := (passEntry c no st s0).1
    (virt q = false → exec (mk p) s = .next (met s (answered op p s (effect q s0).2 (effect q s0).1)))
    ∧ (virt q = true → entriesLeft s0 c = 0 → exec (mk p) s = .next (met s { s0 with fetched := kvSet no q s0.fetched }))
    ∧ (virt q = true → entriesLeft s0 c ≠ 0 → s.str.armed = [] →
        exec (mk p) s = .next (met s (answered op p s (effect q t).2 (effect q t).1)))

/-- Accepted, the command starts under its number: what `start` makes of the state it is taken up in. -/
def StartsAs (mk : Packet → Instr) (op : Nat) (checks : State → Packet → Checks) (start : Nat → Packet → State → State) : Prop :=
  ∀ (p : Packet) (s : State), Accepted op checks p s →
    exec (mk p) s = .next (met s (start (packetNo op p s) (asOp op p) (takenUp op p s)))

/-- Rejected by its checks, the command is answered with the rejection, and that is all (R9, R83). -/
def RejectsOnly (mk : Packet → Instr) (op : Nat) (checks : State → Packet → Checks) : Prop :=
  ∀ (p : Packet) (s : State) (r : Result), Ready op p s → verdict (checks (takenUp op p s) (asOp op p)) = some r →
    exec (mk p) s = .next (met s (answerAtOnce (packetNo op p s) (asOp op p) r (takenUp op p s)))

/-- The management port is up and has its address (R455). -/
def Listening (s : State) : Prop := portUp s = true ∧ s.mgt.i3cAddr.isSome = true

/-- It also has an endpoint ID, and no packet of the port runs (R456, R458). -/
def Serving (s : State) : Prop := Listening s ∧ s.mgt.eid.isSome = true ∧ s.mgt.busyUid = none

end Safety

end Sys2Proof
end

