-- ==== Sys2Proof/Certificates/Slice0/Obligations.lean ====
section
/-! DEFINITION. The statements for the provers: what the spec's rules say the module does, command by command. -/

open Sys2Proof Sys2Proof.Machine Sys2Proof.Safety

/-- For every command c and state s, a step of s with c at the front of its queue is exec of c on s with the queue's rest; on an empty queue the state is answered as it is (that last part is the model's choice: log 1). (95) -/
def Obligations.StepRunsTheFrontCommand : Prop :=
  (∀ (c : Instr) (s : State), step { s with pending := c :: s.pending } = exec c s)
    ∧ ∀ s : State, s.pending = [] → step s = .next s

/-- Reset leaves the module unpowered, with no stopper, context, queue, packet or tracker entry, the Reset column of the registers, both splits at 4 MiB, every byte memory in its canonical form, and an empty log. (R25, R353, R485, R488, R169, R518) -/
def Obligations.ResetIsAsDelivered : Prop :=
  let s := State.reset
  s.pwr.phase = .unpowered ∧ s.str.stoppers = [] ∧ s.ctxs = [] ∧ s.queues = [] ∧ s.fetched = [] ∧ s.jobs = [] ∧ s.trk.entries = []
    ∧ s.pci.irqStatus = 0 ∧ s.pci.irqEnable = 0x1FF ∧ s.pci.badAccess = false ∧ s.arr.splitReq = 4
    ∧ (∀ l < 32, (linkOf s l).state = .down) ∧ s.log.area = [] ∧ s.clk.uptimeMs = 0 ∧ s.clk.opSeconds = 0
    ∧ s.arr.splitApplied = 4 ∧ Memory.wf s = true
    ∧ (∀ h, (hitchOf s h).value = 0) ∧ s.fw.slotA = s.fw.slotB ∧ s.fw.confA = true ∧ s.fw.confB = true

/-- When more than one rejection applies, the status is the first of REJ_OPCODE, REJ_PARAM, REJ_PERMISSION, REJ_DEGRADED, REJ_CONFLICT and REJ_RESOURCE that has a cause; a packet without a cause is not rejected. (R83) -/
def Obligations.RejectionOrder : Prop :=
  ∀ k : Checks,
    (verdict k).map Result.status
      = if k.opcode then some 0x10 else if k.param ≠ [] then some 0x11 else if k.permission ≠ [] then some 0x14
        else if k.degraded ≠ [] then some 0x15 else if k.conflict ≠ [] then some 0x13 else if k.resource ≠ [] then some 0x12 else none

/-- A packet command whose effect is whole in one step, when a check of R83 rejects it, only gets its reply. (R8, R9, R83) -/
def Obligations.RejectedPacketsOnlyAnswer : Prop :=
  RejectsOnly .ctxCreate 0x0110 createChecks ∧ RejectsOnly .ctxUnmap 0x0113 unmapChecks ∧ RejectsOnly .qCreate 0x0120 qCreateChecks
    ∧ RejectsOnly .hchSignal 0x0201 signalChecks ∧ RejectsOnly .hchAdd 0x0202 signalChecks ∧ RejectsOnly .hchWait 0x0203 waitChecks
    ∧ RejectsOnly .hchProducer 0x0205 producerChecks ∧ RejectsOnly .xfrFill 0x0303 (xferChecks fillParam fillXfer false)
    ∧ RejectsOnly .xfrCopy 0x0301 (xferChecks copyParam (copyXfer false) false) ∧ RejectsOnly .xfrWindowGrant 0x0320 windowChecks
    ∧ RejectsOnly .vecMap 0x0501 vecMapChecks ∧ RejectsOnly .gsxGather 0x0601 gatherChecks ∧ RejectsOnly .attFwd 0x0621 fwdChecks
    ∧ RejectsOnly .splClose 0x0705 closeChecks ∧ RejectsOnly .tklStep 0x0805 stepChecks ∧ RejectsOnly .ttlBind 0x0901 bindChecks
    ∧ RejectsOnly .strFence 0x0A02 fenceChecks ∧ RejectsOnly .logLimit 0x0B03 limitChecks ∧ RejectsOnly .secFwActivate 0x0C04 activateChecks

/-- A ready packet of a listed opcode that sets a reserved flag or reserved bit, whose LENGTH is not the opcode's, whose LONG flag does not match, or that sets BATCHABLE on another opcode than ARR.MMA, has REJ_PARAM as its header verdict; an opcode outside the table has REJ_OPCODE. (R8, R49, R50, R51, R83, R355) -/
def Obligations.HeaderFaultsAreRejected : Prop :=
  ∀ (s : State) (p : Packet),
    (opLength p.opcode.toNat = none → (headerVerdict s p).map Result.status = some stREJ_OPCODE)
    ∧ (opcodeBad p = false →
        p.flags.toNat / 64 ≠ 0 ∨ p.rsvd ≠ 0 ∨ opLength p.opcode.toNat ≠ some p.length.toNat
          ∨ hasFlag p flLONG = decide (p.length.toNat ≤ 4) ∨ (hasFlag p flBATCHABLE = true ∧ p.opcode ≠ 0x0401) →
        (headerVerdict s p).map Result.status = some stREJ_PARAM)

/-- On running firmware a packet that the order of its queue holds back is kept in the order of reading and nothing else happens; on a module whose firmware does not run nothing happens at all. (R66, R67, R403, R463) -/
def Obligations.PacketsWaitForTheirOrder : Prop :=
  ∀ (p : Packet) (s : State),
    (alive s = false → exec (.hchAdd p) s = .next (met s s))
    ∧ (alive s = true → mayStart s (packetNo 0x0202 p s) (asOp 0x0202 p) = false → fetchedUid s (asOp 0x0202 p) = none →
        exec (.hchAdd p) s = .next (met s { s with fetched := s.fetched ++ [(s.nextUid, asOp 0x0202 p)], nextUid := s.nextUid + 1 }))
    ∧ (alive s = true → mayStart s (packetNo 0x0202 p s) (asOp 0x0202 p) = false → fetchedUid s (asOp 0x0202 p) ≠ none →
        exec (.hchAdd p) s = .next (met s s))

/-- An accepted CTL.NOP completes OK and changes nothing; an accepted CTL.BARRIER completes OK when its scope has drained, and otherwise waits; neither changes anything but the list of packets. (R68, R355) -/
def Obligations.ControlCommandsComplete : Prop :=
  RunsWhole .ctlNop 0x0100 nopChecks (fun _ s => (s, okRes))
    ∧ ∀ (p : Packet) (s : State), Accepted 0x0101 barrierChecks p s →
        let s0 := takenUp 0x0101 p s
        let no := packetNo 0x0101 p s
        let drained := if pb p 4 0 then (openOf s0 (issuerCtx s p.issuer)).isEmpty
          else match fromQueue p.issuer with
            | some g => !earlierOpen s0 g no
            | none => true
        ∃ u, exec (.ctlBarrier p) s = .next (met s u) ∧ u = { s0 with jobs := u.jobs }
          ∧ lastReply u = some (no, if drained then some okRes else none)

/-- Each accepted hitch command completes: SIGNAL, ADD, READ and PRODUCER at once with their effects, WAIT at once when its condition holds on the value and else as a pending wait of its queue. (R70, R72, R73, R75, R364) -/
def Obligations.HitchCommandsComplete : Prop :=
  RunsWhole .hchSignal 0x0201 signalChecks signalEffect ∧ RunsWhole .hchAdd 0x0202 signalChecks addEffect
    ∧ RunsWhole .hchRead 0x0204 readChecks (fun p s => (s, hitchRes stOK (hitchOf s (hitchNo p)).value))
    ∧ RunsWhole .hchProducer 0x0205 producerChecks producerEffect
    ∧ StartsAs .hchWait 0x0203 waitChecks fun uid p s =>
        let eq := decide (pf p 4 17 16 = 1)
        let v := (hitchOf s (hitchNo p)).value
        if condHolds eq (valueOf p) v then answerAtOnce uid p (hitchRes stOK v) s
        else addJob (newJob s uid p (.wait (hitchNo p) eq (valueOf p) (wd p 5))) s

/-- SIGNAL stores V and replies the previous value; ADD stores the sum modulo 2^64, replies it, and is OK_FLAGGED exactly on a wrap; PRODUCER adds a registration once or removes it, and replies their number; every other hitch, the hitch's owner, memory and all other state are unchanged. (R70, R71, R75, R364) -/
def Obligations.HitchEffects : Prop :=
  ∀ (p : Packet) (s : State),
    let h := hitchNo p
    let v := (hitchOf s h).value
    let a := signalEffect p s
    let b := addEffect p s
    let c := producerEffect p s
    (hitchOf a.1 h).value = valueOf p ∧ a.2 = { okRes with cnt0 := lo32 v, cnt1 := hi32 v }
    ∧ (hitchOf b.1 h).value.toNat = (v.toNat + (valueOf p).toNat) % 2 ^ 64
    ∧ b.2.cnt0 = lo32 (v + valueOf p) ∧ b.2.cnt1 = hi32 (v + valueOf p)
    ∧ (b.2.status = 0x01 ↔ 2 ^ 64 ≤ v.toNat + (valueOf p).toNat) ∧ (b.2.status = 0x00 ↔ v.toNat + (valueOf p).toNat < 2 ^ 64)
    ∧ (hitchOf c.1 h).value = v ∧ c.2.cnt0 = BitVec.ofNat 32 (hitchOf c.1 h).regs.length
    ∧ (producerOf p ∈ (hitchOf c.1 h).regs ↔ pb p 4 16 = false)
    ∧ (∀ x, x ≠ producerOf p → (x ∈ (hitchOf c.1 h).regs ↔ x ∈ (hitchOf s h).regs))
    ∧ (∀ k, k ≠ h → hitchOf a.1 k = hitchOf s k ∧ hitchOf b.1 k = hitchOf s k ∧ hitchOf c.1 k = hitchOf s k)
    ∧ (hitchOf a.1 h).owner = (hitchOf s h).owner ∧ (hitchOf b.1 h).owner = (hitchOf s h).owner
    ∧ a.1 = { s with hitches := a.1.hitches, jobs := a.1.jobs, spl := a.1.spl }
    ∧ b.1 = { s with hitches := b.1.hitches, jobs := b.1.jobs, spl := b.1.spl }
    ∧ c.1 = { s with hitches := c.1.hitches }

/-- After a hitch takes a value, a pending wait on it has its result, with the value as counters, exactly when its condition holds for that value; a wait on another hitch, a wait already released, and every packet that does not wait are as before; a plan that waits for the hitch begins exactly when the value has reached its V. (R71, R72, R258) -/
def Obligations.EveryHitchUpdateTestsEveryWaiter : Prop :=
  ∀ (h : Nat) (v : DWord) (s : State) (j : Job), j ∈ s.jobs →
    (∀ eq w t, j.work = .wait h eq w t → j.res = none →
      (if (if eq then v = w else w.toNat ≤ v.toNat) then
        { j with work := .finished, res := some (okCnt (lo32 v) (hi32 v) 0 0) } ∈ (hitchPut h v s).jobs
      else j ∈ (hitchPut h v s).jobs))
    ∧ ((∀ eq w t, j.work ≠ .wait h eq w t) ∨ j.res ≠ none → j ∈ (hitchPut h v s).jobs)
    ∧ (hitchPut h v s).jobs.length = s.jobs.length
    ∧ (∀ n x, (n, x) ∈ s.spl.plans →
        (n, if x.armed.isSome ∧ x.hitch = h ∧ x.v.toNat ≤ v.toNat then { x with begun := true } else x) ∈ (hitchPut h v s).spl.plans)

/-- Each accepted command has its whole effect in its step; CTX.MAP of kind SCRATCHPAD waits until the packets of its target that had started have completed. (R34, R38, R44, R45, R58, R70, R203, R238) -/
def Obligations.ContextCommandsComplete : Prop :=
  RunsWhole .ctxCreate 0x0110 createChecks createEffect
    ∧ (∀ (p : Packet) (s : State), Accepted 0x0113 unmapChecks p s →
        let e := unmapEffect (asOp 0x0113 p) (takenUp 0x0113 p s)
        let out := (usersOf (takenUp 0x0113 p s) (asOp 0x0113 p)).any fun w => (kvGet w.1 e.1.trk.entries).any fun x => x.epoch == w.2
        if mapKind p = 0 then
          ∃ u, exec (.ctxUnmap p) s = .next (met s u) ∧ u = { e.1 with jobs := u.jobs }
            ∧ lastReply u = some (packetNo 0x0113 p s, if out then none else some e.2)
        else exec (.ctxUnmap p) s = .next (met s (answered 0x0113 p s e.2 e.1)))
    ∧ RunsWhole .qCreate 0x0120 qCreateChecks qCreateEffect
    ∧ (∀ (p : Packet) (s : State), Accepted 0x0112 mapChecks p s →
        let q := asOp 0x0112 p
        let s0 := takenUp 0x0112 p s
        if mapKind p = 2 then
          ∃ u, exec (.ctxMap p) s = .next (met s u) ∧ u = { s0 with jobs := u.jobs, ctxs := u.ctxs }
            ∧ (openOf s0 (mapCtx p) = [] → lastReply u = some (packetNo 0x0112 p s, some okRes)
                ∧ (ctxOf u (mapCtx p)).firstBank = wd p 6 ∧ (ctxOf u (mapCtx p)).nBanks = wd p 7)
            ∧ (openOf s0 (mapCtx p) ≠ [] → lastReply u = some (packetNo 0x0112 p s, none) ∧ u.ctxs = s.ctxs)
        else exec (.ctxMap p) s = .next (met s (answered 0x0112 p s (mapEffect q s0).2 (mapEffect q s0).1)))

/-- CTX.CREATE makes the context LIVE under its present generation with the pool and grant named and replies that generation; CTX.MAP of hitches sets each to 0 for its context without registrations, of placement sets the mode of each group of the run; CTX.UNMAP of hitches releases those of the run that the context holds; Q.CREATE gives the lowest free ID. Each changes only what is named. (R36, R38, R45, R58, R59, R70, R238, R361, R362) -/
def Obligations.ContextEffects : Prop :=
  ∀ (p : Packet) (s : State),
    let c := pf p 4 11 0
    let a := createEffect p s
    let m := mapEffect p s
    let d := unmapEffect p s
    let q := qCreateEffect p s
    let inRun := fun h => wd p 6 ≤ h ∧ h < wd p 6 + wd p 7
    (ctxOf a.1 c).state = .live ∧ (ctxOf a.1 c).gen = (ctxOf s c).gen ∧ a.2.cnt0 = (ctxOf s c).gen.setWidth 32 ∧ a.2.status = 0x00
    ∧ (ctxOf a.1 c).poolBase = dw p 6 ∧ (ctxOf a.1 c).poolSize = dw p 8 ∧ (ctxOf a.1 c).firstBank = pf p 10 5 0
    ∧ (ctxOf a.1 c).nBanks = pf p 10 21 16 ∧ (∀ k, k ≠ c → ctxOf a.1 k = ctxOf s k)
    ∧ a.1 = { s with ctxs := a.1.ctxs, mem := a.1.mem, str := a.1.str }
    ∧ (mapKind p = 1 → (∀ h, inRun h → hitchOf m.1 h = { value := 0, owner := some c, regs := [] })
        ∧ (∀ h, ¬ inRun h → hitchOf m.1 h = hitchOf s h) ∧ m.2 = okRes
        ∧ m.1 = { s with hitches := m.1.hitches, jobs := m.1.jobs, spl := m.1.spl })
    ∧ (mapKind p = 3 → (∀ g, inRun g → m.1.mem.stacked.contains g = pb p 4 19)
        ∧ (∀ g, ¬ inRun g → m.1.mem.stacked.contains g = s.mem.stacked.contains g) ∧ m.2 = okRes
        ∧ m.1 = { s with mem := { s.mem with stacked := m.1.mem.stacked } })
    ∧ (mapKind p = 1 → d.1 = { s with hitches := d.1.hitches } ∧ d.2 = okRes
        ∧ ∀ h, (hitchOf d.1 h).value = (hitchOf s h).value
          ∧ (hitchOf d.1 h).owner = if inRun h ∧ (hitchOf s h).owner = some c then none else (hitchOf s h).owner)
    ∧ (∀ g, freeQueue s = some g → queueOf q.1 g = some (createdQueue p) ∧ q.2.cnt0 = BitVec.ofNat 32 g ∧ q.2.status = 0x00
        ∧ (∀ k, k ≠ g → queueOf q.1 k = queueOf (vaWrite reachReply c (dw p 10) ((zeros 64).map fun b => (b, false)) s).1 k)
        ∧ q.1.mem = (vaWrite reachReply c (dw p 10) ((zeros 64).map fun b => (b, false)) s).1.mem)

/-- An accepted CTX.DESTROY makes its context DRAINING under a new generation and stays open as a teardown; an accepted Q.DESTROY stops its queue and stays open with the number of packets it discarded. (R36, R62, R422) -/
def Obligations.TeardownCommandsStart : Prop :=
  (∀ (p : Packet) (s : State), Accepted 0x0111 destroyChecks p s →
      let s0 := takenUp 0x0111 p s
      exec (.ctxDestroy p) s
        = .next (met s (beginDestroy (pf p 4 11 0) (addJob (newJob s0 (packetNo 0x0111 p s) (asOp 0x0111 p) (.ctxDestroy (pf p 4 11 0) s.clk.uptimeMs)) s0))))
    ∧ ∀ (p : Packet) (s : State), Accepted 0x0121 qDestroyChecks p s →
      let r := stopQueue (pf p 4 13 0) (takenUp 0x0121 p s)
      exec (.qDestroy p) s
        = .next (met s (releaseWaits (addJob (newJob r.1 (packetNo 0x0121 p s) (asOp 0x0121 p) (.qDestroy (pf p 4 13 0) r.2)) r.1)))

/-- The first change of a context's generation in a life increments it modulo 2^16 and invalidates every window of the context; a second one in the same life changes nothing; CTX.CREATE keeps the generation and begins a life in which it may change once. (R36, R342) -/
def Obligations.GenerationChangesOncePerLife : Prop :=
  ∀ (c : Nat) (s : State),
    ((ctxOf s c).bumped = false → (ctxOf (bumpGen c s) c).gen = (ctxOf s c).gen + 1 ∧ (ctxOf (bumpGen c s) c).bumped = true
        ∧ (∀ k, k ≠ c → ctxOf (bumpGen c s) k = ctxOf s k)
        ∧ ∀ n w, (n, w) ∈ (bumpGen c s).wins → w.owner = c → w.valid = false)
    ∧ ((ctxOf s c).bumped = true → bumpGen c s = s)
    ∧ ∀ p : Packet, (createdCtx s p).gen = (ctxOf s (pf p 4 11 0)).gen ∧ (createdCtx s p).bumped = false

/-- Each accepted transfer command becomes a packet under way whose two ends, rows and length are those of its parameters, and the transfer engines go on with it; an accepted HCH.REMOTE_SIGNAL becomes a packet under way and its HITCH_OP is sent once a tracker entry is there. (R221, R222, R226, R346, R347) -/
def Obligations.TransferCommandsStart : Prop :=
  StartsAs .xfrCopy 0x0301 (xferChecks copyParam (copyXfer false) false) (fun uid p s => pumpAll (addJob (newJob s uid p (.xfer (copyXfer false p))) s))
    ∧ StartsAs .xfrPrefetch 0x0304 (xferChecks copyParam (copyXfer true) false) (fun uid p s => pumpAll (addJob (newJob s uid p (.xfer (copyXfer true p))) s))
    ∧ StartsAs .xfrCopy2d 0x0302 (xferChecks copy2dParam copy2dXfer false) (fun uid p s => pumpAll (addJob (newJob s uid p (.xfer (copy2dXfer p))) s))
    ∧ StartsAs .xfrFill 0x0303 (xferChecks fillParam fillXfer false) (fun uid p s => pumpAll (addJob (newJob s uid p (.xfer (fillXfer p))) s))
    ∧ StartsAs .xfrRemoteWrite 0x0310 (xferChecks remoteParam remoteWriteXfer true) (fun uid p s => pumpAll (addJob (newJob s uid p (.xfer (remoteWriteXfer p))) s))
    ∧ StartsAs .xfrRemoteRead 0x0311 (xferChecks remoteParam remoteReadXfer true) (fun uid p s => pumpAll (addJob (newJob s uid p (.xfer (remoteReadXfer p))) s))
    ∧ StartsAs .hchRemoteSignal 0x0206 remoteSignalChecks (fun uid p s => sendSignal uid (addJob (newJob s uid p (.remoteSignal none)) s))

/-- The bytes that one transfer moves are at least 1 while bytes of the piece are left, and never pass the end of the row, the end of the piece, or the next 4 KiB boundary of the source or the destination address. (R222) -/
def Obligations.TransfersStayWithinPages : Prop :=
  ∀ (x : Xfer) (pos last : Nat), 0 < x.rowBytes → pos < last →
    let n := xferLen x pos last
    let row := pos / x.rowBytes
    let off := pos % x.rowBytes
    0 < n ∧ off + n ≤ x.rowBytes ∧ pos + n ≤ last
      ∧ ((∀ v, x.src ≠ .pattern v) → endAddr x.src x.srcStride row off % 4096 + n ≤ 4096)
      ∧ ((∀ v, x.dst ≠ .pattern v) → endAddr x.dst x.dstStride row off % 4096 + n ≤ 4096)

/-- An accepted grant fills the lowest free entry of the window table with the peer, the context, the rights and the range named, under an epoch one more than at the entry's last use, and replies the entry and the epoch; an accepted revoke makes the window invalid at once and completes OK when no accepted request is unanswered, else it waits. Nothing but the table and the packet list changes, when no DATA injection is armed. (R341, R342, R366, R367) -/
def Obligations.WindowCommandsComplete : Prop :=
  RunsWhole .xfrWindowGrant 0x0320 windowChecks windowEffect
    ∧ (∀ (p : Packet) (s : State), s.str.armed = [] → ∀ w, freeWindowId s = some w →
        let r := windowEffect p s
        let epoch : Byte := match kvGet w s.wins with
          | some x => x.epoch + 1
          | none => 0
        kvGet w r.1.wins = some (grantedWindow s p epoch) ∧ r.1 = { s with wins := r.1.wins }
          ∧ (∀ k, k ≠ w → kvGet k r.1.wins = kvGet k s.wins) ∧ r.2 = okCnt (BitVec.ofNat 32 (w + epoch.toNat * 65536)) 0 0 0)
    ∧ ∀ (p : Packet) (s : State), Accepted 0x0321 revokeChecks p s →
        let w := pf p 4 12 0
        let s0 := takenUp 0x0321 p s
        ∃ u, exec (.xfrWindowRevoke p) s = .next (met s u) ∧ u = { s0 with jobs := u.jobs, wins := u.wins }
          ∧ (kvGet w u.wins).map Window.valid = some false ∧ (∀ k, k ≠ w → kvGet k u.wins = kvGet k s.wins)
          ∧ lastReply u = some (packetNo 0x0321 p s, if windowHeld s w = [] then some okRes else none)

/-- Each accepted array command becomes a packet that waits for the array, in a batch where it is BATCHABLE and has at most 192 rows; a STATE start has its header read, and ARR.MMA_PACKED its two problem records, before that. (R77, R79, R80, R133, R153, R172, R368) -/
def Obligations.ArrayCommandsAreOffered : Prop :=
  let fresh := fun (mk : Packet → Instr) (op : Nat) (kind : ArrKind) =>
    ∀ (p : Packet) (s : State), Accepted op (plainChecks kind (packetNo op p s)) p s →
      let q := asOp op p
      let s0 := takenUp op p s
      (plainOp kind (packetNo op p s) (envHN s0 q) q []).start ≠ startSTATE →
        exec (mk p) s = .next (met s (offer (packetNo op p s) q [] s0))
  let fromState := fun (mk : Packet → Instr) (op : Nat) (kind : ArrKind) =>
    ∀ (p : Packet) (s : State) (h : List PByte), Accepted op (plainChecks kind (packetNo op p s)) p s →
      let q := asOp op p
      let s0 := takenUp op p s
      let v := envHN s0 q
      let o := plainOp kind (packetNo op p s) v q []
      o.start = startSTATE → stateRead s0 v o.stateVa 64 = .ok h → anyPoison h = false →
      headerMismatch o (wd q 4) (wd q 5) (h.map Prod.fst) = [] →
        exec (mk p) s = .next (met s (offer (packetNo op p s) q (h.map Prod.fst) (detectVa v.reach v.c o.stateVa 64 s0)))
  fresh .arrMma 0x0401 .mma ∧ fresh .arrDist 0x0403 .dist ∧ fresh .accSave 0x0410 .save ∧ fromState .accSave 0x0410 .save
    ∧ fromState .accResume 0x0411 .resume
    ∧ StartsAs .arrSelftest 0x0404 selftestChecks (fun uid p s => addReady uid (addJob (newJob s uid p (.array [])) s))
    ∧ ∀ (p : Packet) (s : State) (bs : List PByte), Ready 0x0402 p s →
        let q := asOp 0x0402 p
        let s0 := takenUp 0x0402 p s
        let no := packetNo 0x0402 p s
        let v := envHN s0 q
        let s1 := detectVa v.reach v.c (dw q 8) 256 s0
        packedBad (blankPacked no v q) q v [] = [] → vaRead s0 v.reach v.c (dw q 8) 256 = .ok bs → anyPoison bs = false →
        verdict (packedChecks no (bs.map Prod.fst) s1 q) = none →
        exec (.arrMmaPacked p) s = .next (met s (offer no q (bs.map Prod.fst) s1))

/-- An operation offered to the array is an open packet; one that is not batchable is the last of the ready list; a batchable one is a member of exactly the batch it joins, whose rows stay at most 192 if they were; no memory, register or running operation changes. (R77, R78, R79, R80) -/
def Obligations.OfferedOperationsWaitInOrder : Prop :=
  ∀ (uid : Nat) (p : Packet) (recs : List Byte) (s : State),
    let u := offer uid p recs s
    let n := rowsOf (jobOp (newJob s uid p (.array recs)))
    lastReply u = some (uid, none) ∧ lastWork u = some (uid, .array recs)
    ∧ u = { s with jobs := u.jobs, arr := { s.arr with ready := u.arr.ready, batches := u.arr.batches, unjudged := u.arr.unjudged } }
    ∧ u.arr.unjudged = (if splitPending s = true ∧ (jobOp (newJob s uid p (.array recs))).needsArea = true then s.arr.unjudged ++ [uid] else s.arr.unjudged)
    ∧ ((hasFlag p flBATCHABLE = false ∨ 192 < n) → u.arr.ready = s.arr.ready ++ [uid] ∧ u.arr.batches = s.arr.batches)
    ∧ (hasFlag p flBATCHABLE = true → n ≤ 192 → u.arr.ready = s.arr.ready ∧ (∃ b ∈ u.arr.batches, uid ∈ b.members)
        ∧ ((∀ b ∈ s.arr.batches, b.rows ≤ 192) → ∀ b ∈ u.arr.batches, b.rows ≤ 192))

/-- Each accepted vector command reads its operands, computes, writes its destination and is answered in its step. One with an operand or its output in virtual memory waits while no tracker entry is left to its context, and passes an entry when it runs (stated with no injection armed). (R209, R210, R212, R213, R214, R216, R217, R218, R219, R226, R227) -/
def Obligations.VectorCommandsComplete : Prop :=
  RunsTracked .vecMap 0x0501 [0, 2] vecVirtual vecMapChecks vecMapEffect
    ∧ RunsTracked .vecReduce 0x0502 [0, 2] vecVirtual reduceChecks (fun p s => vecRows p 1 (fun rows => rows.map (reduceRow (vOp p))) s)
    ∧ RunsTracked .vecSoftmax 0x0503 [0, 2] vecVirtual softmaxChecks (fun p s => vecRows p (vC p) (fun rows => rows.map (softmaxRow (vFp p))) s)
    ∧ RunsTracked .vecNorm 0x0504 [0, 2] vecVirtual normChecks normEffect ∧ RunsTracked .vecConvert 0x0505 [0, 2] vecVirtual (convertChecks false) convertEffect
    ∧ RunsTracked .vecQuant 0x0506 [0, 2] vecVirtual (convertChecks true) convertEffect ∧ RunsTracked .vecOrtho 0x0507 [0, 2] vecVirtual orthoChecks orthoEffect
    ∧ RunsTracked .vecSummary 0x0508 [0, 2] vecVirtual summaryChecks summaryEffect

/-- Each accepted command of the gather/scatter engine, the ranker and the attention chain waits while no tracker entry is left to its context, and else passes an entry and has its whole effect and its answer in its step (the last stated with no injection armed). (R178, R181, R183, R187, R190, R194, R197, R226, R227) -/
def Obligations.GatherRankAndAttentionCommandsComplete : Prop :=
  RunsTracked .gsxGather 0x0601 sGSX (fun _ => true) gatherChecks gatherEffect ∧ RunsTracked .gsxScatter 0x0602 sGSX (fun _ => true) scatterChecks scatterEffect
    ∧ RunsTracked .gsxRoute 0x0603 sGSX (fun _ => true) routeChecks routeEffect ∧ RunsTracked .rnkTopk 0x0610 sGSX (fun _ => true) topkChecks topkEffect
    ∧ RunsTracked .attSelect 0x0620 sGSX (fun _ => true) selectChecks selectEffect ∧ RunsTracked .attFwd 0x0621 sGSX (fun _ => true) fwdChecks fwdEffect
    ∧ RunsTracked .attBwd 0x0622 sGSX (fun _ => true) bwdChecks bwdEffect

/-- An accepted SPL.PLAN whose bytes could be read loads the plan; SPL.OPEN arms it, or waits while a new split is pending; SPL.CONTRIB gives a bucket's contribution; SPL.LOWRANK and SPL.STATUS are whole in their step; SPL.CLOSE of an unarmed plan is answered at once, and of an armed one waits for its buckets. (R171, R259, R263, R264, R269, R285, R290, R291, R377) -/
def Obligations.SpliceCommandsComplete : Prop :=
  (∀ (p : Packet) (s : State) (bs : List PByte), Ready 0x0701 p s →
      let q := asOp 0x0701 p
      let s0 := takenUp 0x0701 p s
      let s1 := detectVa reachHN (issuerCtx s0 q.issuer) (dw q 4) bs.length s0
      planBytes s0 (envHN s0 q) (dw q 4) = .ok bs → anyPoison bs = false →
      verdict { noChecks with param := planParam q, degraded := splDegraded s0 } = none → verdict (planChecks s1 q (bs.map Prod.fst)) = none →
      let r := loadPlan q (bs.map Prod.fst) s1
      exec (.splPlan p) s = .next (met s (addJob { newJob s1 (packetNo 0x0701 p s) q .finished with res := some r.2 } r.1)))
    ∧ StartsAs .splOpen 0x0702 openChecks (fun uid p s =>
        if splitPending s then addJob (newJob s uid p .splOpen) s
        else addJob { newJob s uid p .finished with res := some (openEffect p s).2 } (openEffect p s).1)
    ∧ StartsAs .splContrib 0x0703 contribChecks (fun uid p s =>
        match entryOf s (splPlanId p) (splTag p) with
        | some e => giveContrib uid (splPlanId p) e (addJob (newJob s uid p (.splContrib (splPlanId p) (splTag p))) s)
        | none => addJob (newJob s uid p (.splContrib (splPlanId p) (splTag p))) s)
    ∧ RunsWhole .splLowrank 0x0704 lowrankChecks lowrankEffect ∧ RunsWhole .splStatus 0x0706 statusChecks statusEffect
    ∧ StartsAs .splClose 0x0705 closeChecks (fun uid p s =>
        let n := splPlanId p
        if isArmed s n then
          let s1 := addJob (newJob s uid p (.splClose n (closeDrop p))) s
          closeCheck n (if closeAbort p then abandonPlan n 6 s1 else s1)
        else
          let s1 := addJob { newJob s uid p .finished with res := some okRes } s
          if closeDrop p then { s1 with spl := { s1.spl with plans := kvErase n s1.spl.plans } } else s1)

/-- SPL.PLAN puts the plan it read at its ID, owned by the issuing context, and replies the demoted entries, the entries and those left; SPL.OPEN arms every bucket of the plan afresh for the step named, begins it exactly when the hitch has reached V, puts the plan last in the order of arming, and replies the entries and the largest window. Neither changes any other plan or anything outside the splice unit. (R258, R259, R263, R264, R265, R377) -/
def Obligations.PlanEffects : Prop :=
  ∀ (p : Packet) (b : List Byte) (s : State),
    let l := loadPlan p b s
    let o := openEffect p s
    let n := splPlanId p
    planOf l.1 (leAt 0 1 b) = some (planAt (issuerCtx s p.issuer) b) ∧ (∀ k, k ≠ leAt 0 1 b → planOf l.1 k = planOf s k)
    ∧ l.1 = { s with spl := { s.spl with plans := l.1.spl.plans } } ∧ l.2.cnt1 = sat32 (planAt (issuerCtx s p.issuer) b).buckets.length
    ∧ ∀ x, planOf s n = some x →
        o.1 = { s with spl := { plans := o.1.spl.plans, order := s.spl.order ++ [n] } } ∧ (∀ k, k ≠ n → planOf o.1 k = planOf s k)
        ∧ o.2 = okCnt (sat32 x.buckets.length) (sat32 (largestWindow x)) 0 0
        ∧ ∃ y, planOf o.1 n = some y ∧ y.armed = some (BitVec.ofNat 16 (pf p 4 31 16)) ∧ y.prevStep = y.armed ∧ y.hitch = pf p 5 15 0
          ∧ y.v = BitVec.ofNat 64 (dw p 6) ∧ y.buckets.length = x.buckets.length ∧ (∀ k ∈ y.buckets, k.state = .armed ∧ k.slots = [])
          ∧ (y.begun = true ↔ (BitVec.ofNat 64 (dw p 6) : DWord).toNat ≤ (hitchOf s (pf p 5 15 0)).value.toNat)

/-- TKL.MASK, NORM, LOAD, STORE and DIGEST are whole in their step; TKL.COEF reads, writes or releases group entries; TKL.STEPSIZE arms groups with pairs from its words or from memory; TKL.STEP starts with its first enabled group; a block update runs its block in a lane, or fences a lane whose check fails; a finished group writes its skip bitmap, adds to its hitch and goes on. (R292, R293, R298, R300, R303, R305, R309, R310, R311, R314, R315, R322) -/
def Obligations.TackleCommandsComplete : Prop :=
  RunsWhole .tklMask 0x0803 maskChecks maskEffect ∧ RunsWhole .tklNorm 0x0804 tklNormChecks tklNormEffect
    ∧ RunsWhole .tklLoad 0x0806 (moveChecks true) loadEffect ∧ RunsWhole .tklStore 0x0807 (moveChecks false) storeEffect
    ∧ RunsWhole .tklDigest 0x0808 digestChecks digestEffect
    ∧ StartsAs .tklStep 0x0805 stepChecks (fun uid p s => nextGroup (newRun uid p) p (tklFirst p) (addJob (newJob s uid p .tklStep) s))
    ∧ (∀ (p : Packet) (s : State), Accepted 0x0801 coefEarly p s → coefWrite (asOp 0x0801 p) = false →
        let q := asOp 0x0801 p
        let r := if coefRead q then readGroups q (takenUp 0x0801 p s) else releaseGroups (takenUp 0x0801 p s)
        exec (.tklCoef p) s = .next (met s (answered 0x0801 p s r.2 r.1)))
    ∧ (∀ (p : Packet) (s : State) (bs : List PByte), Ready 0x0801 p s →
        let q := asOp 0x0801 p
        let s0 := takenUp 0x0801 p s
        let c := issuerCtx s0 q.issuer
        coefWrite q = true → coefParam q = [] → vaRead s0 reachQueue c (dw q 6) (128 * tklCount q) = .ok bs → anyPoison bs = false →
        verdict (coefChecks s0 q (bs.map Prod.fst)) = none →
        let r := writeGroups q (bs.map Prod.fst) (detectVa reachQueue c (dw q 6) bs.length s0)
        exec (.tklCoef p) s = .next (met s (answered 0x0801 p s r.2 r.1)))
    ∧ (∀ (p : Packet) (s : State), Accepted 0x0802 (fun s p => stepsizeChecks s p []) p s → stepScalar p = true →
        let r := stepsizeEffect (scalarPairs p) p (takenUp 0x0802 p s)
        exec (.tklStepsize p) s = .next (met s (answered 0x0802 p s r.2 r.1)))
    ∧ (∀ (lane : Nat) (r : TklRun) (s : State), s.tkl.run = some r → r.block < (groupOf s r.group).blocks → laneActive s lane = true → entriesLeft s (tklCtx s) ≠ 0 →
        exec (.tklBlockUpdate r.block lane true) s = .next (raiseEvent (sTKL lane) 0 .none false false s)
        ∧ exec (.tklBlockUpdate r.block lane false) s
            = .next (if armedOn s (sTKL lane) 0 then fireArmed (sTKL lane) 0 .none s else runBlock r s))
    ∧ (∀ (r : TklRun) (j : Job) (s : State), tklJob s = some (r, j) → (groupOf s r.group).blocks ≤ r.block → stepSkipV j.pkt = false →
        let g := groupOf s r.group
        let r' := { r with crcs := r.crcs ++ [(g.base, 4 * g.nParams, r.crc)], groupsDone := r.groupsDone + 1, paramsDone := r.paramsDone + g.nParams }
        exec .tklGroupDone s = .next (met s (nextGroup r' j.pkt (r.group + 1) (if g.hitchEn then hitchAdd g.hitch 1 s else s))))
    ∧ (∀ (r : TklRun) (j : Job) (s t : State), tklJob s = some (r, j) → (groupOf s r.group).blocks ≤ r.block → stepSkipV j.pkt = true →
        let g := groupOf s r.group
        let r' := { r with crcs := r.crcs ++ [(g.base, 4 * g.nParams, r.crc)], groupsDone := r.groupsDone + 1, paramsDone := r.paramsDone + g.nParams }
        vaWrite reachHN j.ctx (dw j.pkt 8 + (skipBytes r g).1) ((skipBytes r g).2.map fun b => (b, false)) s = (t, none) →
        exec .tklGroupDone s = .next (met s (nextGroup r' j.pkt (r.group + 1) (if g.hitchEn then hitchAdd g.hitch 1 t else t))))
    ∧ ∀ (p : Packet) (s : State) (bs : List PByte), Ready 0x0802 p s → stepScalar p = false →
        let q := asOp 0x0802 p
        let s0 := takenUp 0x0802 p s
        let c := issuerCtx s0 q.issuer
        let pairs := (chunks 4 (bs.map Prod.fst)).map fun (w : List Byte) => (BitVec.ofNat 32 (leNat w) : Word)
        vaRead s0 reachHN c (dw q 8) (8 * tklCount q) = .ok bs → anyPoison bs = false → verdict (stepsizeChecks s0 q pairs) = none →
        let r := stepsizeEffect pairs q (detectVa reachHN c (dw q 8) bs.length s0)
        exec (.tklStepsize p) s = .next (met s (answered 0x0802 p s r.2 r.1))

/-- TKL.STEPSIZE gives each group of the range its ETA and MU and arms it; TKL.COEF WRITE makes the issuing context the owner of an unowned chip; RELEASE clears ENABLED of every entry and the owner. No other group field, memory byte or unit changes. (R293, R298, R300, R303) -/
def Obligations.TackleGroupEffects : Prop :=
  ∀ (p : Packet) (pairs : List Word) (b : List Byte) (s : State),
    let a := stepsizeEffect pairs p s
    let w := writeGroups p b s
    let r := releaseGroups s
    let inRange := fun g => tklFirst p ≤ g ∧ g < tklFirst p + tklCount p
    (∀ g, inRange g → groupOf a.1 g
        = { groupOf s g with eta := pairs.getD (2 * (g - tklFirst p)) 0, mu := pairs.getD (2 * (g - tklFirst p) + 1) 0, stepArmed := true })
    ∧ (∀ g, ¬ inRange g → groupOf a.1 g = groupOf s g) ∧ a.1 = { s with tkl := { s.tkl with groups := a.1.tkl.groups } }
    ∧ a.2 = okCnt (sat32 (tklCount p)) 0 0 0
    ∧ w.1.tkl.owner = some (s.tkl.owner.getD (issuerCtx s p.issuer)) ∧ (∀ g, ¬ inRange g → groupOf w.1 g = groupOf s g)
    ∧ w.1 = { s with tkl := { s.tkl with groups := w.1.tkl.groups, owner := w.1.tkl.owner } }
    ∧ r.1.tkl.owner = none ∧ r.1 = { s with tkl := { s.tkl with groups := r.1.tkl.groups, owner := none } }
    ∧ (s.tkl.owner ≠ none → ∀ g, (groupOf r.1 g).gflags.getLsbD 0 = false)

/-- Each accepted telltale command completes in its step. With no DATA injection armed and the slot table rising, BIND replies the slot it binds, which becomes the issuing context's with its counters at their start, and a slot that is its own already stays as it is; READ, where its 32-byte record can be written, writes it and is OK, and with CLEAR the counters return to their start while the binding stays; RESET returns them to their start, and with RELEASE ends the binding too. No other slot changes, and BIND and RESET change nothing else. (R232, R233, R234, R380) -/
def Obligations.TelltaleCommandsComplete : Prop :=
  RunsWhole .ttlBind 0x0901 bindChecks bindEffect ∧ RunsWhole .ttlRead 0x0902 ttlReadChecks ttlReadEffect
    ∧ RunsWhole .ttlReset 0x0903 ttlResetChecks ttlResetEffect
    ∧ ∀ (p : Packet) (s : State), s.str.armed = [] → (s.ttls.map Prod.fst).Pairwise (· < ·) →
        let n := slotNo p
        let c := issuerCtx s p.issuer
        let b := bindEffect p s
        let w := vaWrite reachQueue c (dw p 6) ((slotRecord s n).map fun x => (x, false)) s
        let r := ttlReadEffect p s
        let z := ttlResetEffect p s
        (∀ m, slotToBind s p = some m → b.2 = okCnt (BitVec.ofNat 32 m) 0 0 0 ∧ b.1 = { s with ttls := b.1.ttls }
            ∧ ttlOf b.1 m = (if (ttlOf s m).owner = some c then ttlOf s m else { noTelltale with owner := some c })
            ∧ ∀ k, k ≠ m → ttlOf b.1 k = ttlOf s k)
        ∧ (w.2 = none → r.2 = okRes ∧ r.1 = { w.1 with ttls := r.1.ttls }
            ∧ ttlOf r.1 n = (if pb p 4 13 then { noTelltale with owner := (ttlOf s n).owner } else ttlOf s n)
            ∧ ∀ k, k ≠ n → ttlOf r.1 k = ttlOf s k)
        ∧ z.2 = okRes ∧ z.1 = { s with ttls := z.1.ttls }
        ∧ ttlOf z.1 n = (if pb p 4 14 then noTelltale else { noTelltale with owner := (ttlOf s n).owner })
        ∧ (slotRecord s n).length = 32
        ∧ ∀ k, k ≠ n → ttlOf z.1 k = ttlOf s k

/-- STR.QUERY, FENCE, UNFENCE, INJECT, REPAIR_COMMIT and SERVICE are whole in their step; STR.RESET of a strand that is reset by generation tag outside a running reset cuts its work and takes the next generation; one inside a running reset completes with that reset; and one that is reset by fence-and-drain makes its request. (R27, R28, R30, R32, R252, R382, R405, R407, R413, R414, R419) -/
def Obligations.StrandCommandsComplete : Prop :=
  RunsWhole .strQuery 0x0A01 queryChecks (fun p s => (s, queryRes s ((strandArg p).getD [])))
    ∧ RunsWhole .strFence 0x0A02 fenceChecks fenceEffect
    ∧ (∀ refault, RunsWhole (fun p => .strUnfence p refault) 0x0A03 unfenceChecks (unfenceEffect refault))
    ∧ RunsWhole .strInject 0x0A05 injectChecks injectEffect ∧ RunsWhole .strRepairCommit 0x0A06 commitChecks commitEffect
    ∧ RunsWhole .strService 0x0A07 (fun s p => { noChecks with permission := ctx0Only s p })
        (fun _ s => (s, okCnt (s.str.held.setWidth 32) s.arr.shapeReg (BitVec.ofNat 32 (memStatus s)) (BitVec.ofNat 32 (linksUp s))))
    ∧ ∀ (p : Packet) (s : State) (q : Strand), Accepted 0x0A04 resetChecks p s → strandArg p = some q →
        let s1 := addJob (newJob (takenUp 0x0A04 p s) (packetNo 0x0A04 p s) (asOp 0x0A04 p) .fnd) (takenUp 0x0A04 p s)
        let s2 := addJob (newJob (takenUp 0x0A04 p s) (packetNo 0x0A04 p s) (asOp 0x0A04 p) (.genReset q s.clk.uptimeMs 0)) (takenUp 0x0A04 p s)
        let inside := (s.rst.run.map fun r => r.target != [] && below r.target q).getD false || (underReset s q && q != [])
        (∀ t e, resetKind (takenUp 0x0A04 p s) q = .fnd t e →
            exec (.strReset p) s = .next (met s (fndRequest { target := t, cause := 0, escalated := e, uid := some (packetNo 0x0A04 p s) } s1)))
        ∧ (resetKind (takenUp 0x0A04 p s) q = .genTag → inside = false →
            exec (.strReset p) s = .next (met s (advance (setWork (packetNo 0x0A04 p s) (.genReset q s.clk.uptimeMs (cutWork q s2).2)
              (bumpStrands q (cutWork q s2).1)))))
        ∧ (resetKind (takenUp 0x0A04 p s) q = .genTag → inside = true →
            exec (.strReset p) s = .next (met s { s1 with rst := { s1.rst with
              run := s1.rst.run.map fun r => { r with uids := r.uids ++ [packetNo 0x0A04 p s] } } }))

/-- An accepted STR.SERVICE changes nothing but the list of packets, and its reply carries the levels held, ARR_SHAPE, MEM_STATUS and the links that are UP, bit n for link n. (R382) -/
def Obligations.ServiceReportsAndChangesNothing : Prop :=
  ∀ (p : Packet) (s : State), Accepted 0x0A07 (fun s p => { noChecks with permission := ctx0Only s p }) p s →
    let s0 := takenUp 0x0A07 p s
    ∃ u r, exec (.strService p) s = .next (met s u) ∧ u = { s0 with jobs := u.jobs } ∧ lastReply u = some (packetNo 0x0A07 p s, some r)
      ∧ r.status = 0x00 ∧ r.cnt0 = s.str.held.setWidth 32 ∧ r.cnt1 = s.arr.shapeReg ∧ r.cnt2 = BitVec.ofNat 32 (memStatus s0)
      ∧ ∀ l < 32, r.cnt3.getLsbD l = decide (linkStateCode s0 l = 2)

/-- LOG.MARK, LOG.LIMIT and SEC.FW_ACTIVATE are whole in their step; LOG.READ, SEC.IDENT and SEC.ATTEST give their data at the address of a queue's packet, or after the reply; SEC.FW_STAGE of a readable image that is not poisoned writes the slot that is not running. (R381, R383, R449, R450, R454, R473, R475, R476) -/
def Obligations.LogAndSecurityCommandsComplete : Prop :=
  let data := fun (mk : Packet → Instr) (op : Nat) (checks : State → Packet → Checks) (effect : Packet → State → State × Result × List Byte) =>
    ∀ (p : Packet) (s : State), Accepted op checks p s →
      let r := effect (asOp op p) (takenUp op p s)
      exec (mk p) s = .next (met s (addJob
        { newJob (takenUp op p s) (packetNo op p s) (asOp op p) .finished with res := some r.2.1, data := r.2.2 } r.1))
  RunsWhole .logMark 0x0B01 markChecks markEffect ∧ RunsWhole .logLimit 0x0B03 limitChecks limitEffect
    ∧ data .logRead 0x0B02 readLogChecks readLogEffect ∧ data .secIdent 0x0C01 identChecks identEffect
    ∧ data .secAttest 0x0C02 attestChecks attestEffect
    ∧ RunsWhole .secFwActivate 0x0C04 activateChecks
        (fun p s => (activateSlot (pb p 4 0) s, okCnt (BitVec.ofNat 32 (wd p 4)) 0 0 0))
    ∧ ∀ (p : Packet) (ok : Bool) (s : State) (bs : List PByte), Accepted 0x0C03 stageChecks p s →
        let s0 := takenUp 0x0C03 p s
        let q := asOp 0x0C03 p
        let img := bs.map Prod.fst
        stageImage s0 q = some bs → anyPoison bs = false →
        exec (.secFwStage p ok) s = .next (met s (answered 0x0C03 p s
          (if ok then okCnt (BitVec.ofNat 32 (bnat (spareSlot s.fw))) (BitVec.ofNat 32 (imageVersion img)) 0 0 else resOf stFLT_CHECK)
          (writeSlot img ok { s0 with fw := { s0.fw with staging := .fwStage (packetNo 0x0C03 p s) } })))

/-- Staging writes the image to the slot that is not running, takes its confirmation, marks it verified exactly when it reads back, and never leaves it preferred; the running slot keeps its image and its confirmation. Activating prefers the slot, and one that is not running gets three tries and loses its confirmation. (R472, R473) -/
def Obligations.FirmwareSlotEffects : Prop :=
  ∀ (img : List Byte) (ok b : Bool) (s : State),
    let w := writeSlot img ok s
    let a := activateSlot b s
    let spare := spareSlot s.fw
    slotOf w.fw spare = (if ok then img else []) ∧ slotVerified w.fw spare = ok ∧ slotConfirmed w.fw spare = false
    ∧ slotOf w.fw (!spare) = slotOf s.fw (!spare) ∧ slotConfirmed w.fw (!spare) = slotConfirmed s.fw (!spare)
    ∧ w.fw.prefB ≠ spare ∧ w.fw.runB = s.fw.runB
    ∧ w = { s with fw := w.fw, log := w.log, mgt := w.mgt }
    ∧ a.fw.prefB = b ∧ (b ≠ s.fw.runB → a.fw.tries = 3 ∧ slotConfirmed a.fw b = false) ∧ (b = s.fw.runB → a.fw.tries = s.fw.tries)
    ∧ slotOf a.fw true = s.fw.slotB ∧ slotOf a.fw false = s.fw.slotA
    ∧ a = { s with fw := a.fw, log := a.log, mgt := a.mgt }

/-- On a BAR2 write of 4 or 8 bytes to the doorbell of a queue that is not being destroyed, a tail at both distances within RING_SLOTS becomes LAST_TAIL when the state block can be written; any other tail keeps LAST_TAIL and sets DB_ERROR, counts in DB_ERRORS and sets the context's DB_ERR bit. (R63, R64, R65, R487) -/
def Obligations.DoorbellsDeliverTails : Prop :=
  ∀ (offset size : Nat) (value : DWord) (host : HostNews) (s : State) (g : Nat) (q : Queue),
    let s0 := takeNews host s
    let tail : Word := lo32 value
    let s1 := updQueue g (fun q => { q with lastTail := tail }) s0
    barUp s = true → alive s = true → offset % 8 = 0 → offset % 4096 < 0x200 → size = 4 ∨ size = 8 →
    doorbellQueue s (offset / 4096) (offset % 4096 / 8) = some g → queueOf s g = some q → destroyed s g = false →
    (if (tail - q.consumed).toNat ≤ q.ringSlots ∧ (tail - q.lastTail).toNat ≤ q.ringSlots then
      (writeFlags g s1).2 = none →
        ∃ u, exec (.doorbellWrite offset size value host) s = .next u ∧ u = (writeFlags g s1).1
          ∧ queueOf u g = some { q with lastTail := tail } ∧ ∀ k, k ≠ g → queueOf u k = queueOf s k
    else
      ∃ u, exec (.doorbellWrite offset size value host) s = .next u
        ∧ queueOf u g = some { q with qflags := q.qflags ||| 1, dbErrors := satWord q.dbErrors 1 }
        ∧ u.pci.dbErr.contains q.ctx = true ∧ ∀ k, k ≠ g → queueOf u k = queueOf s k)

/-- In BAR2 a 4-byte write at a multiple of 8 does what an 8-byte write of the same low word does, and one at 4 past a multiple of 8 does nothing. (R481) -/
def Obligations.ShortDoorbellWrites : Prop :=
  ∀ (offset : Nat) (value : DWord) (host : HostNews) (s : State),
    (offset % 8 = 0 → exec (.doorbellWrite offset 4 value host) s = exec (.doorbellWrite offset 8 value host) s)
    ∧ (offset % 8 = 4 → barUp s = true →
        exec (.doorbellWrite offset 4 value host) s = .next (takeNews host s))

/-- When a queue may be read and its ring holds a whole packet, the packet leaves the ring under the next number, and waits, is answered for a bad header, or completes ABT_RESET in a reset of the Izette; CONSUMED passes its slots. (R48, R60, R64, R417) -/
def Obligations.PacketFetchTakesOnePacket : Prop :=
  ∀ (g : Nat) (host : HostNews) (s : State) (q : Queue) (p : Packet) (n : Nat),
    let s0 := takeNews host s
    queueOf s g = some q → mayFetch s0 q = true → ringNext s0 g q = .packet p n →
    ∃ s1, s1 = { s0 with nextUid := s.nextUid + 1, queues := kvSet g { q with consumed := q.consumed + BitVec.ofNat 32 n } s.queues }
      ∧ exec (.packetFetch g host) s = .next (noteConsumed g (acceptPacket s.nextUid p s1))

/-- A finished packet of a queue completes: its reply, then DONE and the state block, then its hitch, then its message, and the waits that this ends; one of the management port gives its PACKET_RSP and frees the port; one carried by MGT_REQ gives a MGT_RSP. (R55, R62, R74, R352, R457, R458) -/
def Obligations.PacketCompletionOrder : Prop :=
  ∀ (uid : Nat) (s : State) (j : Job) (r : Result), jobOf s uid = some j → j.res = some r →
    let r' := arrReply s j r
    (∀ g q, j.pkt.issuer = .queue g → queueOf s g = some q →
      let w := writeReply q j r' s
      let s1 := updQueue g (fun q => { q with done := q.done + 1 }) w.1
      let c := writeCounts g s1
      let s2 := irqDone q j (signalDone q j r' (dropJob j.uid c.1))
      exec (.packetComplete uid) s
        = .next (met s (releaseWaits (freeDestroyed j r' (completionFault g (if w.2.isSome then w.2 else c.2) s2)))))
    ∧ (∀ tag, j.pkt.issuer = .port tag →
      ∃ u, exec (.packetComplete uid) s = .next (met s (releaseWaits (dropJob j.uid u)))
        ∧ u.mgt.out = s.mgt.out ++ [.packetRsp tag (replyBytes s j r') j.data] ∧ u = { s with mgt := u.mgt }
        ∧ (s.mgt.busyUid = some j.uid → u.mgt.busyUid = none))
    ∧ (∀ dev c g x tag back, j.pkt.issuer = .link dev c g x tag back →
      exec (.packetComplete uid) s = .next (met s (completeLink dev c g x tag back j r' s)))

/-- The reply of a packet is skipped exactly when it carries NO_REPLY_ON_OK and its status is OK; every other reply is 32 bytes at slot REPLY_COOKIE modulo REPLY_SLOTS of the reply ring; the state block, the hitch and the message follow in either case. (R52, R56) -/
def Obligations.NoReplyOnOk : Prop :=
  ∀ (g : Nat) (j : Job) (r : Result) (s : State) (q : Queue), queueOf s g = some q →
    let w := if hasFlag j.pkt flNO_REPLY = true ∧ r.status = 0x00 then (s, none)
      else vaWrite reachReply q.ctx (q.replyVa + 32 * (j.pkt.cookie.toNat % max q.replySlots 1)) ((replyBytes s j r).map fun b => (b, false)) s
    let s1 := updQueue g (fun q => { q with done := q.done + 1 }) w.1
    let c := writeCounts g s1
    let s2 := irqDone q j (signalDone q j r (dropJob j.uid c.1))
    (replyBytes s j r).length = 32
    ∧ completeQueue g j r s = releaseWaits (freeDestroyed j r (completionFault g (if w.2.isSome then w.2 else c.2) s2))

/-- When the limit of a queue's timed wait has passed, the pending wait of the queue has its result, FLT_TIMEOUT with the hitch's value in CNT0 and CNT1, every other packet is as it was, and nothing but the list of packets changes; of a queue without a timed wait nothing changes. When a batch's deadline has passed that batch is ready, and nothing else changes. (R73, R80, R364) -/
def Obligations.WaitAndBatchDeadlines : Prop :=
  (∀ (g : Nat) (s : State), (s.jobs.map Job.uid).Nodup →
      let ended := fun (j : Job) => match j.work with
        | .wait h _ _ _ =>
          if j.pkt.issuer = .queue g ∧ j.res = none then
            { j with work := .finished
                     res := some { resOf 0x24 with cnt0 := lo32 (hitchOf s h).value, cnt1 := hi32 (hitchOf s h).value } }
          else j
        | _ => j
      exec (.hchWaitTimeout g) s = .next (if timedWait s g then { s with jobs := s.jobs.map ended } else s))
    ∧ ∀ (b : Nat) (s : State),
      exec (.batchDeadline b) s
        = .next { s with arr := { s.arr with batches := s.arr.batches.map (fun x => if x.id = b then { x with ready := true } else x) } }

/-- With the array free and its map current, ARRAY_SCHEDULE starts the operation that the dispatcher chooses, if it is neither outgrown nor degraded; with the last tile of an operation in the array it chooses the one that follows; a running self-test it ends with the cells and units named; a due rebuild takes force between operations. While K is left and a tracker entry can be had the running operation spills an interval, and when none is left it drains its tile, after which an ended operation hands the array to the one chosen. A new split is written as a request and takes force while neither the array nor splice holds its area. (R77, R78, R101, R104, R124, R140, R153, R170, R171, R226) -/
def Obligations.ArrayEventsComplete : Prop :=
  (∀ (f : List (Nat × Nat)) (us : List Strand) (s t : State) (c : Candidate) (r : ArrRun),
      s.arr.run = none → s.arr.rebuild = false → underReset s sARR = false → chooseOp s = some c → takeOp c s = (t, some r) →
      exec (.arraySchedule f us) s
        = .next (enterArray (if r.test then { r with cells := r.cells ++ f, units := r.units ++ us } else r) t))
    ∧ (∀ (f : List (Nat × Nat)) (us : List Strand) (s : State) (c : Candidate) (r : ArrRun),
      s.arr.run = some r → r.test = false → s.arr.rebuild = false → s.arr.next = none → underReset s sARR = false →
      inLastTile s r = true → chooseOp s = some c →
      exec (.arraySchedule f us) s = .next { (takeOp c s).1 with arr := { (takeOp c s).1.arr with next := (takeOp c s).2 } })
    ∧ (∀ (f : List (Nat × Nat)) (us : List Strand) (s : State) (r : ArrRun), s.arr.run = some r → r.test = true →
      exec (.arraySchedule f us) s = .next (endTest { r with cells := r.cells ++ f, units := r.units ++ us } s))
    ∧ (∀ s : State, s.arr.rebuild = true → s.arr.run = none → 7 ≤ s.str.phasesDone →
        exec .arrMapRebuild s = .next (evalLevels (rebuildMap s)))
    ∧ (∀ (us : List CellUpset) (s : State) (r : ArrRun) (o : AOp), s.arr.run = some r → runOp s r = some o → r.test = false →
        o.k ≤ r.kPos + 2 ^ o.sLog → feederWaits s o = false →
        exec (.tileDrain us) s = .next (promote s (drainTile o (readyRun o r s).2 us (readyRun o r s).1)))
    ∧ (∀ s : State, ∀ r o, s.arr.run = some r → runOp s r = some o → r.test = false → r.kPos + 2 ^ o.sLog < o.k → feederWaits s o = false →
        let t := readyRun o r s
        let x := interval t.1 o t.2
        let s2 := seeOperands o x.tile (intervalKs o r) x.feed (reportFaults x.faults t.1)
        (allStopped x.run = false →
          let i := spillInjection s2
          let r2 := spillRun x o i.2
          exec .arraySpill s = .next (setRun { r2 with stop := (i.1.arr.run.map ArrRun.stop).getD r2.stop } i.1))
        ∧ (allStopped x.run = true → exec .arraySpill s = .next (promote s (endRun o x.run x.run.stop (fun _ => true) s2))))
    ∧ (∀ (v : Word) (s : State), barUp s = true → unitHeld s (regUnit 0x4004) = false →
        exec (.spillSplitWrite v) s
          = .next (if v.toNat % 32 ≤ 16 then { s with arr := { s.arr with splitReq := BitVec.ofNat 5 v.toNat } } else s))
    ∧ ∀ s : State, areaHeld s = false → mergeHeld s = false →
        exec .spillSplitApply s
          = .next ((s.jobs).foldl retryOpen { s with arr := { s.arr with splitApplied := s.arr.splitReq } })

/-- When the free array takes a multiply operation that is neither outgrown nor degraded, it runs that operation from its first tile and k-step with the shape, coverage and latency in force. One whose starting values are zero waits no more, neither its packets nor its batch, the others wait on, the turn has passed to its context, and nothing but the array is touched; loading starting values from memory may also find errors there. (R77, R78, R122, R138, R150) -/
def Obligations.ArrayTakesOneOperation : Prop :=
  ∀ (f : List (Nat × Nat)) (us : List Strand) (s : State) (c : Candidate) (j : Job),
    s.arr.run = none → s.arr.rebuild = false → underReset s sARR = false → chooseOp s = some c → outgrown s c = [] →
    c.uids.head?.bind (jobOf s) = some j → startDegraded (leaveWaiting c s) (jobOp j) = false → (jobOp j).kind ≠ .selftest →
    ∃ u r, exec (.arraySchedule f us) s = .next u ∧ u.arr.run = some r ∧ r.uids = c.uids ∧ r.tile = 0 ∧ r.kPos = 0 ∧ r.size = shapeNow s
      ∧ r.coverage = opCoverage s (jobOp j) ∧ r.latency = repairLatency s
      ∧ ((jobOp j).start = startZERO → u = { s with arr := u.arr } ∧ u.arr.lastCtx = c.ctx
          ∧ (∀ x, x ∈ u.arr.ready ↔ x ∈ s.arr.ready ∧ x ∉ c.uids) ∧ (∀ x, x ∈ u.arr.batches ↔ x ∈ s.arr.batches ∧ some x.id ≠ c.batch))

/-- In D0, out of reset and past phase 3, a BAR0 write of an allowed size and alignment is carried out on its register, and any other sets BAD_ACCESS alone; the routing window, APERTURE, DEVICE_ID and IRQ_ENABLE are written by their own commands, and a read of APERTURE returns BASE in its place; with no injection armed a sent TLP has no further effect. (R336, R351, R482, R488, R490, R491, R493) -/
def Obligations.HostRegisterWritesComplete : Prop :=
  (∀ (o n : Nat) (v : DWord) (s : State), barUp s = true →
      exec (.regWrite o n v) s = .next (sentTlp s
        (if (n = 4 ∨ n = 8) ∧ o % n = 0 ∧ o + n ≤ 0x4000000 then (if n = 8 then barWrite8 o v s else barWrite o (lo32 v) s)
         else { s with pci := { s.pci with badAccess := true } })))
    ∧ (∀ (o n : Nat) (v : DWord) (s : State), barUp s = true → 0x100000 ≤ o → o < 0x108000 → barAccessOk o n = true →
      exec (.routingWrite o n v) s = .next (met s (if n = 8 then barWrite8 o v s else barWrite o (lo32 v) s)))
    ∧ (∀ (o n : Nat) (v : DWord) (s : State), barUp s = true → o / 8 * 8 = 0xA000 → barAccessOk o n = true →
      exec (.apertureWrite o n v) s = .next (if n = 8 then barWrite8 o v s else barWrite o (lo32 v) s))
    ∧ (∀ s : State, barUp s = true → s.str.armed = [] →
      exec .apertureRead s = .next { s with pci := { s.pci with out := s.pci.out ++ [.completion (leBytes 8 (s.pci.base % 2 ^ 34 * 2 ^ 30)) false] } })
    ∧ (∀ (v : Word) (s : State), barUp s = true →
      exec (.deviceIdWrite v) s = .next (if s.lnk.deviceIdValid then s else
        recordService (evalLevels { s with lnk := { s.lnk with deviceId := v.setWidth 14, deviceIdValid := true } })))
    ∧ ∀ (v : Word) (s : State), barUp s = true → s.str.armed = [] →
      ∃ u, exec (.irqEnableWrite v) s = .next u ∧ u.pci.irqEnable = v.setWidth 9 ∧ u.pci.irqStatus = s.pci.irqStatus
        ∧ u = { s with pci := u.pci } ∧ (v.setWidth 9 &&& s.pci.irqStatus = 0 → u = { s with pci := { s.pci with irqEnable := v.setWidth 9 } })

/-- A write of 1 clears the bits of HOST_ERR, IRQ_STATUS, SERVICE_LEVEL.LOST, RST_STATUS.DONE, CAPT_STATUS.HELD, TK_STATUS.INCOMPLETE and DB_ERRn, and a 0 leaves them; IRQ_VECTOR keeps 11 bits, ERR_SEL its halves, a fabric manager slot its ID and valid bit; each changes nothing else, and reserved bits stay 0. (R5, R6, R7, R351, R391, R392, R482, R485, R487, R488) -/
def Obligations.RegisterWritesChangeTheirRegister : Prop :=
  ∀ (v : Word) (s : State),
    barWrite 0x10 v s = { s with pci := { s.pci with badAccess := s.pci.badAccess && !v.getLsbD 0
                                                     apertureDrop := s.pci.apertureDrop && !v.getLsbD 1 } }
    ∧ (∀ i < 9, (barWrite 0x1000 v s).pci.irqStatus.getLsbD i = (s.pci.irqStatus.getLsbD i && !v.getLsbD i))
    ∧ barWrite 0x1000 v s = { s with pci := { s.pci with irqStatus := (barWrite 0x1000 v s).pci.irqStatus } }
    ∧ barWrite 0x1008 v s = { s with pci := { s.pci with irqVector := v.setWidth 11 } }
    ∧ (barWrite 0x1008 v s |> fun u => (barRead u 0x1008).toNat = v.toNat % 2048)
    ∧ (∀ i < 5, (barWrite 0x2000 v s).str.lost.getLsbD i = (s.str.lost.getLsbD i && !v.getLsbD (16 + i)))
    ∧ (barWrite 0x2000 v s).str.faultLevels = (v >>> 8).setWidth 5
    ∧ (barWrite 0x2008 v s).str.errSel = (hi32 s.str.errSel ++ v) ∧ (barWrite 0x200C v s).str.errSel = (v ++ lo32 s.str.errSel)
    ∧ barWrite 0x3000 v s = { s with rst := { s.rst with done := s.rst.done && !v.getLsbD 24 } }
    ∧ barWrite 0x3008 v s = { s with capt := { s.capt with held := s.capt.held && !v.getLsbD 30 } }
    ∧ (unitHeld s (regUnit 0x7000) = false →
        barWrite 0x7000 v s = { s with tkl := { s.tkl with incomplete := s.tkl.incomplete && !v.getLsbD 30 } })
    ∧ (∀ n < 128, ∀ b < 32, (barWrite (0x9000 + 4 * n) v s).pci.dbErr.contains (32 * n + b) = (s.pci.dbErr.contains (32 * n + b) && !v.getLsbD b))
    ∧ (∀ n < 128, barWrite (0x9000 + 4 * n) v s = { s with pci := { s.pci with dbErr := (barWrite (0x9000 + 4 * n) v s).pci.dbErr } })

/-- Setting a bit of IRQ_STATUS that is 1 does nothing; setting one that is 0 sets it, and sends a message on IRQ_VECTOR exactly when its IRQ_ENABLE bit is 1, as a TLP where the vector is unmasked and the function is out of reset and in D0, and as the vector's pending bit otherwise. Nothing else changes. (R488, R489) -/
def Obligations.InterruptsAreRaisedOnce : Prop :=
  ∀ (n : Nat) (s : State), n < 9 →
    let u := setIrq n s
    let e := kvGetD s.pci.irqVector.toNat msixDefault s.pci.msix
    let sends := s.pci.irqEnable.getLsbD n && !e.masked && !s.pci.inReset && !s.pci.d3hot
    (s.pci.irqStatus.getLsbD n = true → u = s)
    ∧ (s.pci.irqStatus.getLsbD n = false →
        u = { s with pci := { s.pci with
          irqStatus := s.pci.irqStatus ||| BitVec.ofNat 9 (2 ^ n)
          out := if sends then s.pci.out ++ [.msix s.pci.irqVector.toNat e.addr e.data] else s.pci.out
          pending := if s.pci.irqEnable.getLsbD n && !sends then insNat s.pci.irqVector.toNat s.pci.pending else s.pci.pending } }
        ∧ ∀ i < 9, u.pci.irqStatus.getLsbD i = (s.pci.irqStatus.getLsbD i || i == n))

/-- In D0, out of reset, an access inside BAR4 reaches device address BASE times 2^30 plus the offset: a read returns the bytes, with EP where a word is poisoned or nothing backs it, and a write stores what can be stored and counts one drop otherwise; while the aperture is shut a read returns zeros with EP and a write is dropped. A new size rounds BASE down to a multiple of it. (R231, R480, R490, R491, R494) -/
def Obligations.ApertureAccessesComplete : Prop :=
  (∀ (o n : Nat) (s : State), barUp s = true → inBar4 s o n = true → s.str.armed = [] → s.mem.damaged = [] →
      let bs := apertureBytes s (2 ^ 30 * s.pci.base + o) n
      exec (.bar4Read o n) s = .next (pciOut
        (if apertureShut s then .completion (zeros n) true else .completion (bs.map Prod.fst) (anyPoison bs)) s))
    ∧ (∀ (o : Nat) (d : List Byte) (ep : Bool) (s : State), barUp s = true → inBar4 s o d.length = true → apertureShut s = false →
      let s0 := if ep then pciOut (.aer "poisoned TLP, advisory non-fatal") s else s
      let r := apertureStore (2 ^ 30 * s.pci.base + o) (d.map fun b => (b, ep)) s0
      exec (.bar4Write o d ep) s = .next (if r.2 then apertureDrop r.1 else r.1))
    ∧ (∀ (o : Nat) (d : List Byte) (ep : Bool) (s : State), barUp s = true → inBar4 s o d.length = true → apertureShut s = true →
      exec (.bar4Write o d ep) s = .next { s with pci := { s.pci with apertureDrop := true, apertureDrops := min 65535 (s.pci.apertureDrops + 1) } })
    ∧ ∀ (k : Nat) (s : State), s.pci.inReset = false → s.pci.crs = false → k ≤ 6 →
      ∃ u, exec (.rebarSizeWrite k) s = .next u ∧ u = { s with pci := { s.pci with bar4Log := k, base := u.pci.base } }
        ∧ u.pci.base % 2 ^ k = 0 ∧ u.pci.base ≤ s.pci.base ∧ s.pci.base < u.pci.base + 2 ^ k

/-- GO makes the 64 words of the request in mailbox memory a packet of the mailbox under the next number and sets BUSY, and is ignored while BUSY is 1; a finished mailbox packet puts its reply at 0x200 and its data at 0x1000 of mailbox memory, clears BUSY, sets DONE and raises its interrupt; unmasking a vector sends its pending message once, and one that pends nothing is unmasked alone; a change to D3hot is recorded, and back in D0 what was held is sent; a correctable error is reported through AER and is an event of source 0 of IZ/PCI. A mailbox, vector or power state that is not so meets the same commands without effect. (R489, R492, R494, R496) -/
def Obligations.MailboxAndInterruptEventsComplete : Prop :=
  (∀ s : State, barUp s = true → alive s = true →
      let words := (List.range 64).map fun w => BitVec.ofNat 32 (leNat (cellRead (0x100 + 4 * w) 4 s.pci.mbox))
      (s.pci.mboxBusy = false → exec .mboxGo s = .next (answerBad { s with
        pci := { s.pci with mboxBusy := true, mboxUid := some s.nextUid }
        fetched := s.fetched ++ [(s.nextUid, packetOfWords .mbox words)], nextUid := s.nextUid + 1 }))
      ∧ (s.pci.mboxBusy = true → exec .mboxGo s = .next s))
    ∧ (∀ (s : State) (j : Job) (r : Result), s.pci.mboxUid.bind (jobOf s) = some j → j.res = some r → alive s = true →
      let mem := cellWrite 0x1000 (slice 0 4096 j.data) (cellWrite 0x200 (replyBytes s j r) s.pci.mbox)
      let u : State := { s with pci := { s.pci with mbox := mem, mboxBusy := false, mboxDone := true, mboxUid := none } }
      exec .mboxDone s = .next (sentTlp s (setIrq irqMBOX_DONE (releaseWaits (dropJob j.uid u)))))
    ∧ (∀ s : State, s.pci.mboxUid = none → exec .mboxDone s = .next s)
    ∧ (∀ (v : Nat) (s : State), barUp s = true → s.str.armed = [] →
      let e := kvGetD v msixDefault s.pci.msix
      exec (.msixUnmask v) s = .next { s with pci := { s.pci with
        msix := kvSet v { e with masked := false } s.pci.msix
        pending := if s.pci.pending.contains v = true then s.pci.pending.filter (· != v) else s.pci.pending
        out := if s.pci.pending.contains v = true then s.pci.out ++ [.msix v e.addr e.data] else s.pci.out } })
    ∧ (∀ s : State, s.pci.inReset = false → s.pci.crs = false →
      exec (.pciePmStateWrite true) s = .next { s with pci := { s.pci with d3hot := true } }
      ∧ exec (.pciePmStateWrite false) s
        = .next (if s.pci.d3hot then issueHeld (sendPending { s with pci := { s.pci with d3hot := false } }) else s))
    ∧ (∀ (d : Bool) (s : State), s.pci.inReset = true ∨ s.pci.crs = true → exec (.pciePmStateWrite d) s = .next s)
    ∧ ∀ s : State, exec .pcieCorrectable s
        = .next (if powered s = true ∧ s.pci.inReset = false then raiseEvent sPCI 0 .none false false (pciOut (.aer "correctable") s) else s)

/-- A hot reset ends configuration access, and PERST_N also holds the endpoint; once phase 3 has ended on a powered module each asks for a fence-and-drain of the Izette with cause 3, which an endpoint past its RESET phase joins by being reset at once, in RESTORE after a hot reset to be free again; releasing PERST_N frees an endpoint that nothing else holds. SYS_RESET_N asks for a fence-and-drain of the root with cause 4 on a running module, and its release lets RESTORE go on. Power in its window with PWR_EN, or PWR_EN with power in its window, begins start-up at phase 0 with PWRGD_OD low; PWR_EN deasserted on a powered module drives PWRGD_OD low, begins the power-down and has the log flushed; a power-down that is done ends in start-up or held off. Each pin's level is kept in every state. (R445, R462, R464, R495, R499, R503, R511, R514) -/
def Obligations.HostLinkAndPowerPinsComplete : Prop :=
  let izReset := fun (s : State) =>
    let u := fndRequest { target := sIZ, cause := 3, escalated := false, uid := none } { s with pci := { s.pci with crs := true } }
    if 5 ≤ phaseAt u sIZ then resetEndpoint u else u
  let due := fun (s : State) => 4 ≤ s.str.phasesDone ∧ powered s = true
  (∀ s : State, s.pci.inReset = false → exec .pcieHotReset s = .next (if due s then
        (if phaseAt (izReset s) sIZ = 6 then { izReset s with pci := { (izReset s).pci with inReset := false, crs := false } } else izReset s)
      else s))
    ∧ (∀ s : State, s.rst.run = none → due s → phaseAt (fndBegin { target := sIZ, cause := 3, escalated := false, uid := none } s) sIZ = 2
      ∧ ((fndRequest { target := sIZ, cause := 3, escalated := false, uid := none } s).rst.run.map fun r => (r.target, r.cause, r.hostLink)) = some (sIZ, 3, true))
    ∧ (∀ s : State, s.pwr.perstLow = false →
      let s1 := { s with pwr := { s.pwr with perstLow := true }, pci := { s.pci with inReset := true, crs := true } }
      exec .perstNAssert s = .next (if due s then izReset s1 else s1))
    ∧ (∀ s : State, s.pwr.perstLow = true → exec .perstNAssert s = .next s)
    ∧ (∀ s : State, ∃ u, exec .perstNRelease s = .next u ∧ u = { s with pwr := { s.pwr with perstLow := false }, pci := u.pci }
      ∧ u.pci = if endpointFree { s with pwr := { s.pwr with perstLow := false } } then { s.pci with inReset := false, crs := decide (s.str.phasesDone < 4) } else s.pci)
    ∧ (∀ s : State, let s1 := { s with pwr := { s.pwr with sysResetLow := true } }
      exec .sysResetNAssert s
        = .next (if s.pwr.sysResetLow = false ∧ s.pwr.phase = .running then fndRequest { target := [], cause := 4, escalated := false, uid := none } s1 else s1))
    ∧ (∀ s : State, exec .sysResetNRelease s = .next { s with pwr := { s.pwr with sysResetLow := false, held := false } })
    ∧ (∀ s : State, let s1 := { s with pwr := { s.pwr with inputOk := true } }
      exec .inputInWindow s = .next (if s.pwr.phase = .unpowered then (if s.pwr.pwrEn then beginStart s1 else coldState .heldOff s1) else s1))
    ∧ (∀ s : State, let s1 := { s with pwr := { s.pwr with pwrEn := true } }
      exec .pwrEnAssert s = .next (if s.pwr.phase = .heldOff ∧ s.pwr.inputOk = true then beginStart s1 else s1))
    ∧ (∀ s : State, (beginStart s).pwr.phase = .starting 0 ∧ (beginStart s).pwr.pwrgdLow = true
      ∧ (beginStart s).pwr.pwrEn = s.pwr.pwrEn ∧ (beginStart s).pwr.inputOk = s.pwr.inputOk)
    ∧ (∀ s : State,
      let s1 := { s with pwr := { s.pwr with pwrEn := false } }
      let s2 := { s1 with pwr := { s1.pwr with pwrgdLow := true, phase := .poweringDown } }
      exec .pwrEnDeassert s = .next (if powered s = false then s1 else if logAlive s then flushLog s2 else s2))
    ∧ ∀ s : State, exec .powerdownDone s
        = .next (if s.pwr.phase = .poweringDown then (if s.pwr.pwrEn then beginStart s else coldState .heldOff s) else s)

/-- A drop of the input ends in the unpowered state with the trip latch clear and, where the board domain was up and kept its supply, a marker of the voltage; a trip drives THERMTRIP_N and PWRGD_OD low, sets the latch and leaves a marker of its source; the latch clears once PWR_EN is deasserted or the input is out of its window. In each, what is not in flash, fuses or the markers returns to its reset value, and the commands that wait stay. (R499, R511, R512, R513, R514, R515) -/
def Obligations.LossOfPowerAndTrips : Prop :=
  (∀ (mv : Nat) (kept : Bool) (s : State), ∃ u, exec (.inputDrop mv kept) s = .next u
      ∧ u.pwr.phase = .unpowered ∧ u.pwr.inputOk = false ∧ u.pwr.tripLatch = false ∧ u.jobs = [] ∧ u.ctxs = [] ∧ u.mem.cells = []
      ∧ u.str = State.reset.str ∧ u.hitches = [] ∧ u.pending = s.pending ∧ u.log.area = s.log.area ∧ u.log.buffer = []
      ∧ u.pwr.inputMarker = (if boardUp s = true ∧ kept = true then some (mv, s.clk.powerCycles) else s.pwr.inputMarker))
    ∧ (∀ (source stack : BitVec 4) (s : State), powered s = true → source.toNat ≤ 6 →
      ∃ u, exec (.thermalTrip source stack) s = .next u
        ∧ u.pwr.phase = .tripped ∧ u.pwr.thermtripLow = true ∧ u.pwr.pwrgdLow = true ∧ u.pwr.tripLatch = true
        ∧ u.pwr.tripMarker = some (BitVec.ofNat 8 (source.toNat + if source = 6 then stack.toNat * 16 else 0), s.clk.powerCycles)
        ∧ u.jobs = [] ∧ u.ctxs = [] ∧ u.mem.cells = [] ∧ u.pending = s.pending ∧ u.log.area = s.log.area)
    ∧ ∀ s : State, s.pwr.phase = .tripped → s.pwr.pwrEn = false ∨ s.pwr.inputOk = false →
      ∃ u, exec .tripLatchClear s = .next u ∧ u.pwr.tripLatch = false ∧ u.pwr.thermtripLow = false
        ∧ u.pwr.phase = (if s.pwr.inputOk then .heldOff else .unpowered) ∧ u.pwr.tripMarker = s.pwr.tripMarker

/-- Each phase event carries out its phase when start-up has reached it, and phase 3 not while SYS_RESET_N is low; a unit whose phase runs past its bound is fenced and start-up goes on, unless level M needs it. (R463, R465, R466, R472, R478, R503) -/
def Obligations.StartupPhasesRunInOrder : Prop :=
  (∀ s : State, s.pwr.phase = .starting 0 →
      exec .startupSupply s = .next { s with pwr := { s.pwr with phase := .starting 1 }, str := { s.str with phasesDone := 1 } })
    ∧ (∀ (k : BitVec 3) (s : State), s.pwr.phase = .starting 1 → ∃ u, exec (.startupRom k) s = .next u ∧ u = romPhase k s
      ∧ u.str.phasesDone = 2 ∧ u.clk.uptimeMs = 0 ∧ u.clk.powerCycles = s.clk.persistedCycles + 1 ∧ u.clk.opSeconds = s.clk.persistedSeconds
      ∧ u.pwr.moduleId = k ∧ u.pwr.idHistory = s.pwr.idHistory ++ [k] ∧ u.pwr.pwrgdLow = false)
    ∧ (∀ s : State, s.pwr.phase = .starting 2 → exec .startupMgmt s = .next (mgmtPhase s))
    ∧ (∀ (cs : List Nat) (s : State), s.pwr.phase = .starting 3 →
      exec (.startupHost cs) s = .next (if s.pwr.sysResetLow then s else hostPhase cs s))
    ∧ (∀ (f : PowerFaults) (s : State), s.pwr.phase = .starting 4 →
      exec (.startupPower f) s = .next (failPhase (powerFailed f) (donePhase 5 s)))
    ∧ (∀ (ps : List Strand) (s : State), s.pwr.phase = .starting 5 → exec (.startupTrain ps) s = .next (failPhase ps (donePhase 6 s)))
    ∧ (∀ (ps : List Strand) (bs : List (Strand × Nat)) (s : State), s.pwr.phase = .starting 6 →
      exec (.startupTest ps bs) s = .next (testPhase ps bs s))
    ∧ (∀ (ms : BitVec 24) (s : State), s.pwr.phase = .starting 7 → exec (.startupReady ms) s = .next (readyPhase ms s))
    ∧ (∀ (n : Nat) (unit : Strand) (s : State), s.pwr.phase = .starting n → strandOk unit = true →
      exec (.startupPhaseTimeout unit) s = .next (failPhase [unit] s))
    ∧ ∀ (n : Nat) (s : State), s.pwr.phase = .starting n → (donePhase (n + 1) s).pwr.phase = .starting (n + 1)
      ∧ (donePhase (n + 1) s).str.phasesDone = n + 1

/-- With the management clock running a millisecond is counted in UPTIME_MS modulo 2^32; with 1,000 of them counted a second is counted in OP_SECONDS; with 60 of those the time is persisted; the oldest buffered record goes to the next slots of the record area, with its continuation where it has one, and leaves the buffer; a token refill, once the bucket's period has passed, gives it one token, at most BURST. Where the clock does not run, the count is not reached, or there is nothing to write, nothing happens. (R441, R443, R444, R447, R448, R451, R452) -/
def Obligations.TimeAndLogTicksComplete : Prop :=
  (∀ s : State, exec .uptimeMsTick s
      = .next (if clockRuns s = true then
          advance { s with clk := { s.clk with uptimeMs := s.clk.uptimeMs + 1, msToSecond := s.clk.msToSecond + 1 } }
        else s))
    ∧ (∀ s : State, exec .opSecondsTick s
      = .next (if clockRuns s = true ∧ 1000 ≤ s.clk.msToSecond then
          { s with clk := { s.clk with opSeconds := s.clk.opSeconds + 1, msToSecond := s.clk.msToSecond - 1000
                                       secToPersist := s.clk.secToPersist + 1 } }
        else s))
    ∧ (∀ s : State, exec .opSecondsPersist s
      = .next (if logAlive s = true ∧ 60 ≤ s.clk.secToPersist then
          { s with clk := { s.clk with persistedSeconds := s.clk.opSeconds, persistedCycles := s.clk.powerCycles, secToPersist := 0
                                       journal := journalPut (s.clk.powerCycles, s.clk.opSeconds) s.clk.journal } }
        else s))
    ∧ (∀ (r : List Byte) (rest : List (List Byte)) (s : State), logAlive s = true → s.log.buffer = r :: rest → s.log.dropped = 0 → s.log.writer < 524288 →
      let two := (rest.head?.map (leAt 0 2)) = some 1
      ∃ u, exec .logProgram s = .next u ∧ u = { s with log := u.log }
        ∧ u.log.buffer = (if two then rest.drop 1 else rest)
        ∧ (two → u.log.writer = (s.log.writer + 2) % 524288 ∧ kvGet ((s.log.writer + 1) % 524288) u.log.area = rest.head?)
        ∧ (¬ two → u.log.writer = (s.log.writer + 1) % 524288) ∧ kvGet s.log.writer u.log.area = some r)
    ∧ (∀ s : State, logAlive s = false ∨ s.log.buffer = [] → exec .logProgram s = .next s)
    ∧ (∀ (code : BitVec 16) (s : State), refillAge s (bucketOf s code.toNat) < refillMs (bucketOf s code.toNat) → exec (.logTokenRefill code) s = .next s)
    ∧ ∀ (code : BitVec 16) (s : State), logAlive s = true → definedCodes.contains code.toNat = true → exemptCodes.contains code.toNat = false →
      refillMs (bucketOf s code.toNat) ≤ refillAge s (bucketOf s code.toNat) →
      ∃ u, exec (.logTokenRefill code) s = .next u ∧ u = { s with log := u.log, mgt := u.mgt }
        ∧ (bucketOf u code.toNat).tokens = min (bucketOf s code.toNat).burst ((bucketOf s code.toNat).tokens + 1)
        ∧ (bucketOf u code.toNat).suppressed = 0 ∧ ∀ k, k ≠ code.toNat → bucketOf u k = bucketOf s k

/-- When a bucket that has suppressed records gains a token, a SUPPRESSED record with SUMMARY set and the count since the last summary is taken first, outside every bucket, and the count is cleared; a bucket that has suppressed none writes no record. (R448) -/
def Obligations.SuppressedRecordsAreSummarised : Prop :=
  ∀ (code : Nat) (s : State), logAlive s = true →
    let b := bucketOf s code
    let r : LogRec := { mkRec 0x0002 0 b.lastStrand (sat32 b.suppressed) code with summary := true }
    let next := b.since + BitVec.ofNat 32 (refillAge s b / refillMs b * refillMs b)
    let b' := { b with tokens := min b.burst (b.tokens + 1), suppressed := 0, since := next }
    ∃ l : Log, refillBucket code s = { s with log := { l with buckets := kvSet code b' s.log.buckets } }
      ∧ (if b.suppressed = 0 then l = s.log else l = (bufferRec r s).log) ∧ l.buckets = s.log.buckets

/-- With the module powered, a detector of a strand that exists raises its event; a rail fault does so on a strand's pair and loses the subtree on a summary pair; a clock loss raises source 15 on every strand of its island, or on IZ/ARR and IZ/SPILL for the array loop; the watchdog and the loss of SYS_REFCLK act as their rules say; the scan records what is new in ascending strand order and counts itself; a sticky bit is cleared 60 s after its record; a finished remap or redirection lets held accesses go on; the scrub of a sound working unit reports what it found. (R17, R244, R246, R248, R384, R386, R390, R391, R396, R403, R519) -/
def Obligations.ErrorAndRepairEventsComplete : Prop :=
  (∀ (p : Strand) (src : Nat) (o : ErrObj) (s : State), powered s = true → strandOk p = true →
      exec (.errorEvent p src o) s = .next (advance (raiseEvent p src o false false s))
      ∧ exec (.railFault p src false) s = .next (advance (raiseEvent p src .none false true s))
      ∧ (p.length = 1 → exec (.railFault p src true) s = .next (advance (summaryFault p s))))
    ∧ (∀ (what : ClockFault) (s : State), powered s = true →
      exec (.clockLoss what) s = .next (advance ((clockStrands what).foldl (fun s p => raiseEvent p 15 .none false false s) s)))
    ∧ clockStrands .arrayLoop = [sARR, sSPILL]
    ∧ (∀ s : State, powered s = true →
      exec .watchdogExpiry s = .next (evalLevels (stopManagement s))
      ∧ (s.pwr.refclk = true → exec .sysRefclkLoss s
          = .next (evalLevels (raiseEvent [] 0 .none false false { s with pwr := { s.pwr with refclk := false } }))))
    ∧ (∀ s : State, logAlive s = true →
      let u := recordService (evalLevels
        ((sortBy NewEvent.strand s.str.newEvents).foldl (fun s e => recordEvent e s) { s with str := { s.str with newEvents := [] } }))
      exec .rootScan s = .next { u with str := { u.str with scanNo := u.str.scanNo + 1 } })
    ∧ (∀ (p : Strand) (src : Nat) (r : Nat × Nat × Word) (s : State),
      (s.str.recorded.find? fun r => r.1 == strandId p && r.2.1 == src) = some r →
      exec (.stickyRearm p src) s = .next (if (s.clk.uptimeMs - r.2.2).toNat < 60000 then s else { s with str := { s.str with
        sources := kvSet (strandId p) { sourcesOf s p with sticky := (sourcesOf s p).sticky &&& ~~~ BitVec.ofNat 16 (2 ^ src) } s.str.sources
        recorded := s.str.recorded.filter (· != r) } }))
    ∧ (∀ (u : Strand) (b : Nat) (s : State),
      exec (.blockRemapDone u b) s
          = .next (advance (retryHeld { s with mem := { s.mem with busyBlocks := s.mem.busyBlocks.filter (· != (strandId u, b)) } }))
      ∧ exec (.unitRedirectDone u) s
          = .next (advance (retryHeld { s with mem := { s.mem with busyUnits := s.mem.busyUnits.filter (· != strandId u) } })))
    ∧ ∀ (u : Strand) (a : Nat) (s : State), strandOk u = true → fenced s u = false → admitted s u = true → underReset s u = false →
      let t := (damagedIn s u (a / 65536)).foldl (fun s d => raiseEvent u (bnat d.2) (.block (a / 65536)) true false
        { s with mem := { s.mem with damaged := s.mem.damaged.filter (· != d) } }) s
      exec (.patrolScrub u a .clean) s = .next t
      ∧ exec (.patrolScrub u a .corrected) s = .next (raiseEvent u 0 (.block (a / 65536)) false false t)
      ∧ exec (.patrolScrub u a .uncorrectable) s = .next (raiseEvent u 1 (.block (a / 65536)) false false t)

/-- A generation reset ends when no entry of an earlier generation is left, or by force 50 ms after it began; each phase of a fence-and-drain hands on to the next when it is done; a context's destruction ends when nothing of it is left, or by force after 50 ms; the evaluation declares a candidate set found unchanged twice; a capture that ends is written, recorded and announced. (R414, R416, R417, R418, R421, R422, R423, R426, R428, R430, R431, R434) -/
def Obligations.ResetAndCaptureEventsComplete : Prop :=
  (∀ (uid cut : Nat) (q : Strand) (t : Word) (s : State), workOf s uid = some (.genReset q t cut) →
      (s.trk.entries.any (fun kv => earlierEntries s q kv.2) = false →
        exec (.genResetDone uid) s = .next (finish uid (genResult s q 0 cut false) s))
      ∧ (s.trk.entries.any (fun kv => earlierEntries s q kv.2) = true → 50 ≤ (s.clk.uptimeMs - t).toNat →
        let r := forceFree (earlierEntries s q) s
        exec (.genResetForce uid) s = .next (advance (finish uid (genResult r.1 q r.2 cut true) r.1))))
    ∧ (∀ (uid c : Nat) (t : Word) (s : State), workOf s uid = some (.ctxDestroy c t) → windowsIdle s c = true →
      (entriesGone s c = true → startedDone s c = true → exec (.ctxDestroyDone uid) s = .next (endDestroy uid c 0 false s))
      ∧ (50 ≤ (s.clk.uptimeMs - t).toNat →
        let r := forceFree (fun e => e.ctx == c) s
        exec (.ctxDestroyForce uid) s = .next (endDestroy uid c r.2 (decide (0 < r.2)) r.1)))
    ∧ (∀ (r : FndRun) (s : State), s.rst.run = some r →
      (s.rst.phase = 2 → s.capt.cur = none → exec .fndCaptureDone s = .next (advance (stopPhase r (setPhase 3 s))))
      ∧ (s.rst.phase = 3 → takesIz r.target = false ∨ takenUids s = [] → exec .fndStopDone s = .next (drainPhase r (setPhase 4 s)))
      ∧ (s.rst.phase = 4 →
          (s.trk.entries.filter fun kv => outstandingFor s r.target kv.2) = [] ∨ drainBound r s ≤ (s.clk.uptimeMs - r.phaseMs).toNat →
          let f := forceFree (outstandingFor s r.target) s
          exec .fndDrainDone s = .next (resetPhase r (setPhase 5 (updRun (fun x => { x with forced := x.forced + f.2 }) f.1))))
      ∧ (s.rst.phase = 5 → r.target ≠ [] ∨ s.pwr.sysResetLow = false →
          let u := setPhase 6 s
          exec .fndResetDone s
            = .next (if r.hostLink && !s.pwr.perstLow then { u with pci := { u.pci with inReset := false, crs := false } } else u))
      ∧ (s.rst.phase = 6 →
          let a := if takesIz r.target then restoreContexts s else s
          let ms := (s.clk.uptimeMs - r.beginMs).toNat
          let w : State :=
            { a with rst := { a.rst with phase := 0, target := 7, done := true, resets := satAdd 65535 a.rst.resets 1, run := none } }
          let b := restoreLinks (takesMb r.target)
            (if r.restart then { w with log := { w.log with fenceCounts := buildFenceCounts (w.log.area.map Prod.snd ++ w.log.buffer) } } else w)
          let d := setIrq irqRESET_DONE (logRec (mkRec 0x0204 0 (strandId r.target) (sat32 ms) (min 65535 r.forced)) b)
          let e := r.uids.foldl (fun s u => match jobOf s u with
            | some j => finish u (fndResult r ms j.pkt) s
            | none => s) d
          exec .fndRestoreDone s = .next (advance (evalLevels (match e.rst.waiting with
            | [] => e
            | w :: rest => fndBegin w { e with rst := { e.rst with waiting := rest } })))))
    ∧ (∀ s : State, alive s = true → dispatcherReset s = false → s.snarl.declared = none →
      let u := stallChecks s
      let v := { u with snarl := { u.snarl with last := snarlCandidates s } }
      exec .snarlEval s = .next (match (snarlCandidates s).find? fun x => s.snarl.last.contains x with
        | some x => advance (declareSnarl x.1 v)
        | none => v))
    ∧ (∀ (no : List SilentEngine) (c : Capture) (s : State), s.capt.cur = some c →
      let n := snapUsable s
      let w := if n then writeSnapshot c no s else writeSummary c no s
      let u : State := { w with capt := { w.capt with cur := none, inSram := !n, held := w.capt.held || w.capt.ctl.getLsbD 3 } }
      let v := setIrq irqCAPTURE_DONE
        (logRec (mkRec 0x0202 0 0 u.capt.no (c.cause + bnat (!n) * 8 + bnat (anySilent s no) * 16)) u)
      exec (.captureDone no) s = .next (match v.snarl.declared with
        | some (n, set) => advance (endSnarl n set v)
        | none => v))
    ∧ ∀ s : State,
      (barUp s = true → exec .captTrigger s = .next (barWrite 0x3004 (s.capt.ctl.setWidth 32 ||| 0x10) s))
      ∧ (alive s = true → s.capt.ctl.getLsbD 0 = true → exec .sbTrigLow s = .next (startCapture (plainCapture 3 0) s))

/-- A memory reply, a host completion or a time-out acts on the entry it matches: current read data go on to their destination, accepted writes end their transfer, a failed one ends its command. A reply that matches no entry, or an entry of an old generation, writes nothing and is counted; the old entry is freed. (R46, R225, R226, R228, R229, R231, R423, R496) -/
def Obligations.TrackerRepliesComplete : Prop :=
  (∀ (tid : Nat) (ep : Byte) (ecc : Ecc) (e : Entry) (s : State), s.str.armed = [] → entryFor s tid ep = some e → heldByRemap s e.pa e.len = false →
      entryCurrent s e = true →
      (e.req = .memRead → exec (.memoryReply tid ep ecc) s = .next (advance (readReply tid e ecc s)))
      ∧ (e.req = .memWrite → exec (.memoryReply tid ep ecc) s = .next (advance (writeAccepted tid e ecc s))))
    ∧ (∀ (tid : Nat) (ep : Byte) (how : HostEnd) (h : HostNews) (e : Entry) (s : State), s.str.armed = [] →
      let t := takeNews h s
      entryFor s tid ep = some e → entryCurrent t e = true → e.req = .hostRead →
      exec (.hostCompletion tid ep how h) s = .next (advance (hostReply tid e how t)))
    ∧ (∀ (tid : Nat) (e : Entry) (s : State), kvGet tid s.trk.entries = some e →
      (50 ≤ (s.clk.uptimeMs - e.issueMs).toNat →
        let u := failEntry tid e (resOf stFLT_TIMEOUT) s
        exec (.trackerTimeout tid) s = .next (advance (match destStrand s e with
          | some p => raiseEvent p 14 .none false false u
          | none => u)))
      ∧ (e.req = .hostRead → exec (.pcieCompletionTimeout tid) s
          = .next (pciOut (.aer "Completion Timeout") (advance (failEntry tid e (resOf stFLT_TIMEOUT) s)))))
    ∧ (∀ (tid : Nat) (ep : Byte) (ecc : Ecc) (s : State), s.str.armed = [] → entryFor s tid ep = none →
      exec (.memoryReply tid ep ecc) s
        = .next { s with trk := { s.trk with lateDrops := BitVec.ofNat 32 (min (2 ^ 32 - 1) (s.trk.lateDrops.toNat + 1)) } })
    ∧ (∀ (tid : Nat) (e : Entry) (s : State), s.str.armed = [] → kvGet tid s.trk.entries = some e → entryCurrent s e = false →
      heldByRemap s e.pa e.len = false → e.req = .memRead ∨ e.req = .memWrite →
      ∀ ecc, exec (.memoryReply tid e.epoch ecc) s = .next (dropStale tid e s))
    ∧ ∀ (tid : Nat) (e : Entry) (s : State), kvGet tid s.trk.entries = some e →
      let u := lateDrop (some e.ctx) (failEntry tid e (resOf stABT_RESET) s)
      dropStale tid e s = advance u ∧ kvGet tid u.trk.entries = none ∧ (∀ k, k ≠ tid → kvGet k u.trk.entries = kvGet k s.trk.entries)
        ∧ u.trk.lateDrops = BitVec.ofNat 32 (min (2 ^ 32 - 1) (s.trk.lateDrops.toNat + 1)) ∧ u.mem = s.mem
        ∧ (ctxOf u e.ctx).lateDrops = (ctxOf s e.ctx).lateDrops + 1

/-- A delivered message is taken out of its receiver, its units are free again, and it acts as its kind says, a WRITE when it is the oldest of its source; the message of a virtual channel starts when its link is up and has units for it, which are deducted, and its flits leave in turns with those of the other channels, the next ready one after the last, until it has left (how many leave in one step is the model's choice: log 140). (R332, R333, R343, R344, R346, R347, R348, R349, R350, R351, R352) -/
def Obligations.MessagesComplete : Prop :=
  (∀ (l : Nat) (m : Msg) (a : Arrival) (s t : State),
      (takeArrival l 0 (msgBytes { m with kind := 0x01 }) s = some (a, t) → oldestWrite s l { m with kind := 0x01 } = true →
        exec (.msgWrite l m) s = .next (memoryRequest l { m with kind := 0x01 } t))
      ∧ (takeArrival l 0 (msgBytes { m with kind := 0x02 }) s = some (a, t) →
        exec (.msgReadReq l m) s = .next (memoryRequest l { m with kind := 0x02 } t))
      ∧ (takeArrival l 0 (msgBytes { m with kind := 0x03 }) s = some (a, t) →
        exec (.msgHitchOp l m) s = .next (met s (hitchRequest { m with kind := 0x03 } t)))
      ∧ (takeArrival l 0 (msgBytes { m with kind := 0x04 }) s = some (a, t) →
        exec (.msgWindowRevoke l m) s = .next { t with wins := kvMap (fun _ w =>
          if w.dev = m.srcDev.toNat ∧ w.ctx = m.srcCtx.toNat ∧ w.gen = m.srcGen then { w with valid := false } else w) t.wins })
      ∧ (takeArrival l 1 (msgBytes { m with kind := 0x80 }) s = some (a, t) →
        exec (.msgAck l m) s = .next (onResponse m ackEntry t))
      ∧ (takeArrival l 1 (msgBytes { m with kind := 0x81 }) s = some (a, t) →
        exec (.msgReadData l m) s = .next (onResponse m (dataEntry { m with kind := 0x81 }) t))
      ∧ (takeArrival l 1 (msgBytes { m with kind := 0x82 }) s = some (a, t) →
        exec (.msgNeg l m) s = .next (onResponse m (negEntry m) t))
      ∧ (takeArrival l 3 (msgBytes { m with kind := 0x05 }) s = some (a, t) →
        exec (.msgMgtReq l a.localOnly m) s = .next (mgtRequest a m t))
      ∧ (takeArrival l 3 (msgBytes { m with kind := 0x85 }) s = some (a, t) → exec (.msgMgtRsp l m) s = .next t))
    ∧ (∀ (l v : Nat) (b : List Byte) (a : Arrival) (s t : State), takeArrival l v b s = some (a, t) →
      t = { s with lnk := t.lnk } ∧ t.lnk.inbox.length + 1 = s.lnk.inbox.length)
    ∧ (∀ (l v : Nat) (s : State), vcReady s l v = true →
      let u := if (((linkOf s l).vcs.getD v Vc.initial).tx).isNone then startSend l v s else s
      exec (.msgSend l v) s = .next (sendUntil 512 (fun s => (((linkOf s l).vcs.getD v Vc.initial).tx).isNone) l u))
    ∧ (∀ (l v : Nat) (s : State), vcReady s l v = false → exec (.msgSend l v) s = .next s)
    ∧ (∀ (l v : Nat) (o : Outbound) (rest : List Outbound) (s : State),
      let c := (linkOf s l).vcs.getD v Vc.initial
      (c.tx ≠ none → vcReady s l v = true)
      ∧ (c.txq = o :: rest → maySend s l v o = true → vcReady s l v = true
        ∧ startSend l v s = updVc l v (fun c => { c with txq := rest, txAvail := c.txAvail - msgUnits o.bytes.length
                                                         tx := some ({ o with bytes := (alterRun l v o.bytes s).2 }, 0) }) (alterRun l v o.bytes s).1))
    ∧ ∀ (l v : Nat) (s : State), mayFlit s l = true → nextVc s l = some v →
      (∀ (n : Nat) (stop : State → Bool), stop s = false → sendUntil (n + 1) stop l s = sendUntil n stop l (flitTurn l v s))
      ∧ vcReady s l v = true
      ∧ ∀ w < 4, vcReady s l w = true → (v + 4 - (linkOf s l).turn % 4) % 4 ≤ (w + 4 - (linkOf s l).turn % 4) % 4

/-- On an open link a flit with a good CRC and lawful fields gives its ACK and credits and then acts as its type says, and messages that waited for it go on; a flit with a bad CRC is dropped and answered NAK; one that breaks a rule is a protocol error. Training sends this side's report, records the peer's, locks the lanes and exchanges audits; the third failed attempt fences the link; lost frame alignment retrains it; a lane past its limit is fenced. (R326, R327, R328, R329, R330, R331, R335, R353) -/
def Obligations.LinkEventsComplete : Prop :=
  (∀ (l : Nat) (f : List Byte) (s : State), linkOpen s l = true →
      (flitOk f = true → flitRules f = true →
        let t := takeCredit l f (takeAck l (flitField f 99 88) s)
        (flitField f 87 85 = 0 → exec (.flitData l f) s = .next (resume l (inSequence l f (dataBody l f) t)))
        ∧ (flitField f 87 85 = 1 → exec (.flitIdle l f) s = .next (resume l t))
        ∧ (flitField f 87 85 = 2 → exec (.flitNak l f) s = .next (resume l (nakBody l f t)))
        ∧ (flitField f 87 85 = 3 → exec (.flitCreditAudit l f) s = .next (resume l (upIfAudited l (inSequence l f (auditBody l f) t)))))
      ∧ (flitOk f = false →
        let t := sendNak l (updLink l (fun k => { k with dropping := true }) (raiseEvent (sL l) 0 .none false false s))
        exec (.flitData l f) s = .next t ∧ exec (.flitIdle l f) s = .next t ∧ exec (.flitNak l f) s = .next t
          ∧ exec (.flitCreditAudit l f) s = .next t)
      ∧ (flitOk f = true → flitRules f = false →
        exec (.flitData l f) s = .next (evalLevels (protocolError l s)) ∧ exec (.flitIdle l f) s = .next (evalLevels (protocolError l s))
          ∧ exec (.flitNak l f) s = .next (evalLevels (protocolError l s))
          ∧ exec (.flitCreditAudit l f) s = .next (evalLevels (protocolError l s))))
    ∧ (∀ (l : Nat) (dev : Option (BitVec 14)) (pl : BitVec 5) (bad : List Nat) (rtt : BitVec 10) (s : State), mayTrain s l = true →
      l < s.lnk.links.length → (linkOf s l).state = .down ∨ (linkOf s l).state = .training →
      let u := bad.foldl (fun s k => raiseEvent (sLANE l k) 1 .none false false s)
        (updLink l (fun k => if k.state = .down then { firstBooks k with state := .training } else k) s)
      exec (.flitTrain l dev pl bad rtt) s = .next (if fenced u (sL l) then u
        else lanesLocked l (sendTrain l (updLink l (fun k => { k with peerValid := true, peerDev := dev, peerLink := pl, rtt := rtt }) u))))
    ∧ (∀ (l : Nat) (s : State), (linkOf s l).state = .training → fenced s (sL l) = false →
      exec (.linkRetrainEnd l true) s = .next (lanesLocked l s)
      ∧ exec (.linkRetrainEnd l false) s
          = .next (if (linkOf s l).attempts < 2 then updLink l (fun k => { k with attempts := k.attempts + 1 }) s else fenceLink l s))
    ∧ ∀ (l k : Nat) (s : State),
      ((linkOf s l).state = .up → exec (.frameAlignmentLoss l) s = .next (evalLevels (retrain l s)))
      ∧ (k < 5 → l < 32 → (linkOf s l).state ≠ .down →
        exec (.laneSymbolLimit l k) s = .next (raiseEvent (sLANE l k) 1 .none false false s))

/-- A splice message that names the armed step of a loaded plan acts on its bucket as its kind says; a bucket that can become active takes its window; a local chunk that may be read joins its chunk's sum; a low-rank step that is due runs, on the array in its turn, inside the grant in force, and gives the bucket up where its unit does not serve or the grant does not hold its region; a sent slot is released; an upstream or a finished sum that is late gives its bucket up, or under PROCEED is left out. (R258, R265, R267, R268, R270, R271, R274, R281, R286, R287, R289) -/
def Obligations.SpliceEventsComplete : Prop :=
  (∀ (l k : Nat) (m : SplMsg) (a : Arrival) (p e : Nat) (x : Plan) (b : Bkt) (us : List LaneUpset) (s t : State),
      let bytes := splBytes { m with kind := BitVec.ofNat 8 k }
      let w := splOf bytes
      takeArrival l 2 bytes s = some (a, t) → phaseAt t sIZ < 3 → splMatch t w.tag.toNat = some (p, e) →
      planOf t p = some x → bktOf t p e = some b → splNames x w = true →
      (k = 0 → exec (.splMsgRun l m us) s = .next (met s (runArrives l us p e x b w t)))
      ∧ (k = 1 → exec (.splMsgFinal l m) s = .next (met s (finalArrives l p e x b w t)))
      ∧ (k = 2 → exec (.splMsgGrant l m) s = .next (met s (grantArrives p e x b w t)))
      ∧ (k = 3 → exec (.splMsgAbandon l m) s
          = .next (met s (if b.state = .active then abandonBkt p e w.cause.toNat (missingOf w) t else t))))
    ∧ (∀ (p e f : Nat) (x : Plan) (b : Bkt) (s : State), activation s p = some (x, e, b, f) →
      let u := sendGrant x b (windowOf b)
        (updBkt p e (fun b => { b with state := .active, activeMs := s.clk.uptimeMs, firstSlot := f, grantOut := windowOf b }) s)
      exec (.splBucketActivate p) s = .next (if (splLanes u).length < 2 then abandonBkt p e 4 none u else u))
    ∧ ∀ (p e : Nat) (x : Plan) (b : Bkt) (s : State), planOf s p = some x → bktOf s p e = some b →
      (∀ (c : Nat) (us : List LaneUpset) (els : List (Word × Bool)), mayRead x b c = true →
        readElems s x (chunkVa b b.gVa c) (chunkSpan b c).2.2 = .ok els →
        let u := fireArmed sGEN 0 .none (contribRead p e (updBkt p e (fun b => { b with localRead := insNat c b.localRead })
          (detectVa reachHN x.owner (chunkVa b b.gVa c) (4 * (chunkSpan b c).2.2) s)))
        exec (.splLocalRead p e c us) s
          = .next (met s (if isActive u p e then mergeInput p e localPos (sGEN, 0) (localMsg u x b c els) us u else u)))
      ∧ (∀ (c : Nat) (us : List LaneUpset) (f : AFault), mayRead x b c = true →
        readElems s x (chunkVa b b.gVa c) (chunkSpan b c).2.2 = .error f →
        exec (.splLocalRead p e c us) s = .next (met s (abandonBkt p e 3 none (reportTable f s))))
      ∧ (lrDue x e b = true → outOfUse s sIZ = false →
          let a : State := { s with arr := { s.arr with lastCtx := x.owner } }
          (lrServes s b = false → exec (.splLowrankStep p e) s = .next (met s (abandonBkt p e 4 none s)))
          ∧ (lrServes s b = true → lrOnArray b = false ∨ lrTurn s x = true → inGrant (ctxOf s x.owner) x.spWork (lrPad b) = false →
            exec (.splLowrankStep p e) s = .next (met s (abandonBkt p e 3 none s)))
          ∧ (lrServes s b = true → inGrant (ctxOf s x.owner) x.spWork (lrPad b) = true →
            (b.lrStep = 0 → exec (.splLowrankStep p e) s = .next (met s (lrStep1 p e x b s)))
            ∧ (b.lrStep = 1 → lrTurn s x = true → exec (.splLowrankStep p e) s = .next (met s (lrStep2 p e x b a)))
            ∧ (b.lrStep = 2 → exec (.splLowrankStep p e) s = .next (met s (lrStep4 p e x b s)))
            ∧ (b.lrStep = 4 → lrTurn s x = true → exec (.splLowrankStep p e) s = .next (met s (lrStep5 p e x b a)))
            ∧ (b.lrStep = 5 → lrTurn s x = true → exec (.splLowrankStep p e) s = .next (met s (lrStep7 p e x b a)))
            ∧ (b.lrStep = 7 → exec (.splLowrankStep p e) s = .next (met s (lrStep8 p e x b s)))))
      ∧ (∀ c : Nat, b.state = .active → (slotAt b c).any Slot.sent = true → waitsForLink s x b c = false →
          let b1 := { b with released := insNat c b.released, slots := b.slots.filter fun t => t.chunk != c }
          let limit := lowestChunk b1 + windowOf b1
          let b2 := { b1 with grantOut := max b1.grantOut limit }
          let u := updBkt p e (fun _ => b2) s
          let v := if b.grantOut < limit then sendGrant x b limit u else u
          exec (.splSlotRelease p e c) s = .next (met s
            (if (routeOf x b).tail ∧ b2.released.length = chunksOf b then finalsDone p e v else v)))
      ∧ (b.state = .active → undelivered (routeOf x b) b ≠ [] → (routeOf x b).waitMs ≤ elapsedMs s b.activeMs →
          let late := undelivered (routeOf x b) b
          let named := late.foldl (fun m i => lowMissing m (some ((routeOf x b).ups.getD i 0))) none
          exec (.splWaitTimeout p e) s = .next (met s (if b.proceed then
              flushBkt p e (updBkt p e (fun b => { b with upGone := b.upGone ++ late, missing := lowMissing b.missing named }) s)
            else abandonBkt p e 1 named s)))
      ∧ (∀ t : Word, b.state = .active → b.sentLastMs = some t → (routeOf x b).tail = false → b.finals.length ≠ chunksOf b →
          (routeOf x b).finalMs ≤ elapsedMs s t → exec (.splFinalTimeout p e) s = .next (met s (abandonBkt p e 1 none s)))

/-- With the port up, an address is assigned once; at that address a control message is answered; with an endpoint ID and no packet running a vendor or PLDM request is answered, a packet request waits for the management core, and each step of a firmware update follows the one before it. Each answer is the last thing put out, and nothing but the management unit, and for the update the firmware slots, changes (version bytes, PDR bytes and PLDM completion codes are the model's: log 12). (R455, R456, R457, R458, R459, R460, R461, R473, R477, R504) -/
def Obligations.ManagementCommandsComplete : Prop :=
  (∀ (a : BitVec 7) (s : State), portUp s = true → s.mgt.i3cAddr = none →
      let t := { s with mgt := { s.mgt with i3cAddr := some a, out := s.mgt.out ++ [.i3cAck a] } }
      exec (.entdaa a) s = .next t
      ∧ ∀ k : BitVec 7, (exec (.setdasa k a) s = .next (if k.toNat = 0x48 + s.pwr.moduleId.toNat then t else s)))
    ∧ (∀ s : State, Listening s →
      let reply := fun (c : String) (d : List Byte) => ({ s with mgt := { s.mgt with out := s.mgt.out ++ [.mctp c d] } } : State)
      (∀ e : Byte, exec (.setEndpointId e) s = .next (if e = 0 ∨ e = 0xFF then reply "Set Endpoint ID" [2]
        else { s with mgt := { s.mgt with eid := some e, out := s.mgt.out ++ [.mctp "Set Endpoint ID" [0, e]] } }))
      ∧ exec .getEndpointId s = .next (reply "Get Endpoint ID" [0, s.mgt.eid.getD 0])
      ∧ exec .getMctpVersionSupport s = .next (reply "Get MCTP Version Support" (0 :: Config.mctpVersions))
      ∧ exec .getMessageTypeSupport s = .next (reply "Get Message Type Support" [0, 0x01, 0x7E])
      ∧ exec .getVendorDefinedMessageSupport s = .next (reply "Get Vendor Defined Message Support" [0, 0x1F, 0x6E]))
    ∧ (∀ s : State, Serving s →
      let reply := fun (c : String) (n : Nat) (d : List Byte) => ({ s with mgt := { s.mgt with out := s.mgt.out ++ [.pldm c n d] } } : State)
      (∀ (tag : Byte) (ws : List Word), 4 ≤ ws.length → ws.length ≤ 64 →
        exec (.packetReq 0x1F6E tag 0 ws) s = .next (answerBad { s with
          mgt := { s.mgt with busyUid := some s.nextUid }
          fetched := s.fetched ++ [(s.nextUid, packetOfWords (.port tag) ws)], nextUid := s.nextUid + 1 }))
      ∧ (∀ (tag : Byte) (o n : Word), exec (.captReq 0x1F6E tag 0 o n) s = .next { s with mgt := { s.mgt with
          out := s.mgt.out ++ [if captRangeOk o.toNat n.toNat then .captRsp tag 0 (cellRead o.toNat n.toNat s.capt.sram) else .captRsp tag 0x11 []] } })
      ∧ (∀ n : Nat, 1 ≤ n → n ≤ 10 → exec (.getSensorReading n) s = .next { s with
            freeCtr := s.freeCtr + 1
            mgt := { s.mgt with out := s.mgt.out ++ [.pldm "GetSensorReading" 0 (leBytes 4 (sensorValue n s).toNat)] } }
          ∧ exec (.getPdr n) s = .next (reply "GetPDR" 0 (Config.pdr n)))
      ∧ (∀ (e : Byte) (poll : Bool), exec (.setEventReceiver e poll) s
          = .next { s with mgt := { s.mgt with receiver := some (e, poll), out := s.mgt.out ++ [.pldm "SetEventReceiver" 0 []] } })
      ∧ exec .queryDeviceIdentifiers s = .next (reply "QueryDeviceIdentifiers" 0 [0x6E, 0x1F, 0x04, 0x49])
      ∧ exec .getFirmwareParameters s
          = .next (reply "GetFirmwareParameters" 0 (leBytes 4 (runningVersion s) ++ leBytes 4 (slotVersion s (spareSlot s.fw))))
      ∧ exec .getStatus s = .next (reply "GetStatus" 0 [BitVec.ofNat 8 (pldmCode s.mgt.pldm)])
      ∧ (s.mgt.pldm = .idle → stagingBusy s = true → exec .requestUpdate s = .next (reply "RequestUpdate" 0x8E []))
      ∧ (s.mgt.pldm = .idle → stagingBusy s = false → exec .requestUpdate s = .next { s with
            fw := { s.fw with staging := .pldm }, mgt := { s.mgt with pldm := .learn, out := s.mgt.out ++ [.pldm "RequestUpdate" 0 []] } })
      ∧ (s.mgt.pldm = .learn → exec .passComponentTable s
          = .next { s with mgt := { s.mgt with pldm := .ready, out := s.mgt.out ++ [.pldm "PassComponentTable" 0 []] } })
      ∧ (s.mgt.pldm = .ready → ∀ n : Word, exec (.updateComponent n) s
          = .next { s with mgt := { s.mgt with pldm := .download n.toNat 0, image := [], out := s.mgt.out ++ [.pldm "UpdateComponent" 0 []] } })
      ∧ (∀ (size got : Nat) (d : List Byte), s.mgt.pldm = .download size got → d.length = min 1024 (size - got) →
          exec (.requestFirmwareData got d) s = .next { s with mgt := { s.mgt with
            image := cellWrite got d s.mgt.image
            pldm := if got + d.length < size then .download size (got + d.length) else .verify size
            out := if got + d.length < size then s.mgt.out else s.mgt.out ++ [.pldm "TransferComplete" 0 []] } })
      ∧ (s.mgt.pldm = .activate → exec .activateFirmware s = .next (pldmOut "ActivateFirmware" 0 [] (endUpdate (activateSlot (spareSlot s.fw) s))))
      ∧ (3 ≤ pldmCode s.mgt.pldm → pldmCode s.mgt.pldm ≤ 5 →
          let u := interruptStaging s
          exec .cancelUpdateComponent s
            = .next { u with mgt := { u.mgt with pldm := .ready, image := [], out := u.mgt.out ++ [.pldm "CancelUpdateComponent" 0 []] } })
      ∧ (s.mgt.pldm ≠ .idle → exec .cancelUpdate s = .next (pldmOut "CancelUpdate" 0 [] (endUpdate (interruptStaging s)))))
    ∧ (∀ s : State, portUp s = true →
      (∀ size, s.mgt.pldm = .verify size → exec .verifyComplete s = .next
        (if imageLength (pldmImage s size) = size ∧ verifyImage s.fw (pldmImage s size) = .good then
          pldmOut "VerifyComplete" 0 [] (setPldm .apply s) else pldmOut "VerifyComplete" 1 [] (endUpdate s)))
      ∧ (s.mgt.pldm = .apply → ∀ ok : Bool,
          let t := writeSlot (pldmImage s (imageLength (pldmImage s 16))) ok s
          exec (.applyComplete ok) s
            = .next (if ok then pldmOut "ApplyComplete" 0 [] (setPldm .activate t) else pldmOut "ApplyComplete" 1 [] (endUpdate t))))
    ∧ ∀ (op : JtagOp) (s : State), boardUp s = true → s.pwr.phase ≠ .tripped → 1 ≤ s.str.phasesDone →
      exec (.jtagPrivateInstruction op) s = .next (jtagDo op s)

/-- An address of tier H reaches the stack, the pseudo-channel and the block that the procedure of R237 gives; an address of tier N the channel and block of R239 whatever the placement, always a usable block; an address of tier S within its working channels the channel that its 4 KiB granule has in rotation, and none past them. (R237, R239, R240) -/
def Obligations.AddressesReachTheirStorage : Prop :=
  ∀ (s : State) (pa : Nat),
    (pa < 2 ^ 41 →
      let g := pa >>> 30
      let stacked := s.mem.stacked.contains g
      let stack := if stacked then (pa >>> 26) &&& 0xF else (pa >>> 12) &&& 0xF
      let loc := if stacked then (g <<< 26) ||| (pa &&& 0x3FFFFFF) else (g <<< 26) ||| (((pa >>> 16) &&& 0x3FFF) <<< 12) ||| (pa &&& 0xFFF)
      let off := ((loc >>> 13) <<< 8) ||| (loc &&& 0xFF)
      tierHLocate s.mem.stacked pa = (stack, (loc >>> 8) &&& 0x1F, off >>> 16, off &&& 0xFFFF)
      ∧ storeOf s pa = some (stack * 2 ^ 37 + loc, sPC stack ((loc >>> 8) &&& 0x1F), off >>> 16) ∧ off >>> 16 < 65536)
    ∧ (0x20000000000 ≤ pa → pa < 0x28000000000 →
      let o := pa - 0x20000000000
      let loc := ((o >>> 16) <<< 12) ||| (o &&& 0xFFF)
      storeOf s pa = some (pa, sTN ((o >>> 12) &&& 0xF), loc / 2 ^ 16) ∧ loc / 2 ^ 16 < usableBlocks (sTN ((o >>> 12) &&& 0xF)))
    ∧ (0x40000000000 ≤ pa → pa < 0x58000000000 →
      let n := s.mem.tsChannels.length
      let o := pa - 0x40000000000
      (o < n * 2 ^ 37 → ∃ ch, s.mem.tsChannels[o / 2 ^ 12 % n]? = some ch
        ∧ storeOf s pa = some (paS + ch * 2 ^ 37 + (o / 2 ^ 12 / n * 2 ^ 12 + o % 2 ^ 12), sTS ch, (o / 2 ^ 12 / n * 2 ^ 12 + o % 2 ^ 12) / 2 ^ 16))
      ∧ (n * 2 ^ 37 ≤ o → storeOf s pa = none))

/-- With no injection armed, no damaged word and nothing left open, after a write of bytes with their poison to tiers H and N and the scratchpad every byte written reads as it was given, every other byte of those regions keeps its value, a word covered whole is poisoned exactly when one of its bytes was given poisoned, and a word not touched keeps its poison. (R207, R231, R237, R239, R241, R242) -/
def Obligations.MemoryWritesReadBack : Prop :=
  ∀ (s : State) (pa : Nat) (bs : List PByte),
    let plain := fun (a : Nat) => region a = .tierH ∨ region a = .tierN ∨ region a = .snapshot ∨ region a = .scratch
    cellsWf 0 s.mem.cells = true → s.mem.loose = [] → s.mem.damaged = [] → s.str.armed = [] → (∀ i < bs.length, plain (pa + i)) →
    let u := physWrite pa bs s
    (∀ i < bs.length, (memByte u (pa + i)).1 = (bs.getD i (0, false)).1)
    ∧ (∀ a, plain a → a < pa ∨ pa + bs.length ≤ a → (memByte u a).1 = (memByte s a).1)
    ∧ (∀ w, pa ≤ 8 * w → 8 * w + 8 ≤ pa + bs.length → ∀ k < 8,
        ((memByte u (8 * w + k)).2 = true ↔ ∃ j < 8, (bs.getD (8 * w + j - pa) (0, false)).2 = true))
    ∧ (∀ a, plain a → a / 8 < pa / 8 ∨ pa + bs.length ≤ a / 8 * 8 → memByte u a = memByte s a)
    ∧ cellsWf 0 u.mem.cells = true ∧ u = { s with mem := { s.mem with cells := u.mem.cells, poison := u.mem.poison } }

/-- Every remote message, splice message and command packet whose lists have the lengths that its layout gives them is read back, from the bytes the model writes, as the same message or packet, with every field at every value. (R48, R49, R51, R273, R345) -/
def Obligations.MessagesAndPacketsReadBack : Prop :=
  (∀ m : Msg,
      (if m.kind = 0x01 ∨ m.kind = 0x81 then m.data.length ≤ 4096 ∧ m.poison.length = (m.data.length + 7) / 8
       else m.poison = [] ∧ (m.kind = 0x05 ∨ m.kind = 0x85 ∨ m.data = [])) → msgOf (msgBytes m) = m)
    ∧ (∀ m : SplMsg, m.valid ≤ 256 → m.count < 2 ^ 16 → m.poison.length = m.valid →
      m.elems.length = (if m.kind.toNat < 2 then m.valid else 0) → m.checks.length = (if m.kind.toNat < 2 then m.valid else 0) →
      splOf (splBytes m) = m)
    ∧ ∀ p : Packet, 1 ≤ p.length.toNat → p.length.toNat ≤ 16 → p.params.length + 4 = 4 * p.length.toNat →
      parsePacket p.issuer (packetBytes p) = p

/-- In every state whose two splits are at most 16, every step that answers a next state keeps both at most 16. (R170, R171) -/
def Obligations.SplitsStayLegal : Prop :=
  ∀ s t : State, s.arr.splitReq.toNat ≤ 16 ∧ s.arr.splitApplied.toNat ≤ 16 → step s = .next t →
    t.arr.splitReq.toNat ≤ 16 ∧ t.arr.splitApplied.toNat ≤ 16

/-- In every state whose byte memories list rising addresses and no zero, every step that answers a next state keeps that form (the form itself is the model's: log 7). (R4, R39, R202, R235) -/
def Obligations.MemoryKeepsItsForm : Prop :=
  ∀ s t : State, Memory.wf s = true → step s = .next t → Memory.wf t = true
end

