-- ==== Sys2Proof/Laws/Memory.lean ====
section
/-! SUPPORT. Byte memories: what a store does to a read, and that every operation keeps the canonical form (log 7). -/

namespace Sys2Proof.Machine

/-- A lower bound may be lowered. -/
theorem cellsWf_mono {lo lo' : Nat} {m : List Host.Cell} (h : lo' ≤ lo) (w : cellsWf lo m = true) : cellsWf lo' m = true := by
  cases m with
  | nil => rfl
  | cons c t =>
    simp only [cellsWf, Bool.and_eq_true, decide_eq_true_eq] at w ⊢
    exact ⟨⟨Nat.le_trans h w.1.1, w.1.2⟩, w.2⟩

/-- A store keeps the canonical form. -/
theorem cellsWf_cellSet {lo a : Nat} (v : Byte) {m : List Host.Cell} (h : lo ≤ a) (w : cellsWf lo m = true) : cellsWf lo (cellSet a v m) = true := by
  induction m generalizing lo with
  | nil =>
    by_cases hv : v = 0#8 <;> simp [cellSet, cellsWf, hv, h]
  | cons c t ih =>
    obtain ⟨j, x⟩ := c
    simp only [cellsWf, Bool.and_eq_true, decide_eq_true_eq] at w
    obtain ⟨⟨hj, hx⟩, ht⟩ := w
    unfold cellSet
    split
    · rename_i haj
      split
      · exact (by simpa [cellsWf, ht, hj] using hx)
      · rename_i hv
        simp only [cellsWf, Bool.and_eq_true, decide_eq_true_eq, bne_iff_ne]
        exact ⟨⟨h, hv⟩, ⟨haj, by simpa using hx⟩, ht⟩
    · split
      · rename_i hja
        subst hja
        split
        · exact cellsWf_mono (by omega) ht
        · rename_i hv
          simp only [cellsWf, Bool.and_eq_true, decide_eq_true_eq, bne_iff_ne]
          exact ⟨⟨hj, hv⟩, ht⟩
      · simp only [cellsWf, Bool.and_eq_true, decide_eq_true_eq]
        exact ⟨⟨hj, hx⟩, ih (by omega) ht⟩

/-- Below its bound a memory reads 0. -/
theorem cellGet_below {lo a : Nat} {m : List Host.Cell} (h : a < lo) (w : cellsWf lo m = true) : cellGet a m = 0 := by
  cases m with
  | nil => rfl
  | cons c t =>
    obtain ⟨j, x⟩ := c
    simp only [cellsWf, Bool.and_eq_true, decide_eq_true_eq] at w
    simp only [cellGet]
    rw [if_neg (by omega), if_pos (by omega)]

/-- A read after a store: the byte stored, or what stood there. -/
theorem cellGet_cellSet {lo a : Nat} (b : Nat) (v : Byte) {m : List Host.Cell} (w : cellsWf lo m = true) :
    cellGet b (cellSet a v m) = if b = a then v else cellGet b m := by
  induction m generalizing lo with
  | nil =>
    by_cases hv : v = 0#8
    · by_cases hb : b = a <;> simp [cellSet, cellGet, hv, hb]
    · by_cases hb : b = a
      · subst hb; simp [cellSet, cellGet, hv]
      · simp [cellSet, cellGet, hv, hb, Ne.symm hb]
  | cons c t ih =>
    obtain ⟨j, x⟩ := c
    simp only [cellsWf, Bool.and_eq_true, decide_eq_true_eq] at w
    obtain ⟨⟨hj, hx⟩, ht⟩ := w
    have low := fun h => cellGet_below (a := b) (lo := j + 1) h ht
    unfold cellSet
    split
    · rename_i haj
      split
      · rename_i hv
        by_cases hb : b = a
        · subst hb; simp [cellGet, hv, haj, Nat.ne_of_gt haj]
        · simp [hb]
      · by_cases hb : b = a
        · subst hb; simp [cellGet]
        · simp only [cellGet, hb, if_false, Ne.symm hb]
          split
          · rw [if_neg (by omega), if_pos (by omega)]
          · rfl
    · split
      · rename_i hja
        subst hja
        split
        · rename_i hv
          by_cases hb : b = j
          · subst hb; simp [hv, low]
          · simp only [hb, if_false, cellGet, Ne.symm hb]
            split
            · exact low (by omega)
            · rfl
        · by_cases hb : b = j
          · subst hb; simp [cellGet]
          · simp [cellGet, hb, Ne.symm hb]
      · rename_i h1 h2
        by_cases hb : j = b
        · subst hb; simp [cellGet, h2]
        · simp only [cellGet, hb, if_false, ih ht]
          split
          · rw [if_neg (by omega)]
          · rfl

/-- A read elsewhere is as before. -/
theorem cellGet_cellSet_ne {lo a b : Nat} (v : Byte) {m : List Host.Cell} (w : cellsWf lo m = true) (h : b ≠ a) :
    cellGet b (cellSet a v m) = cellGet b m := by rw [cellGet_cellSet b v w, if_neg h]

/-- Stores one after another, at any addresses, keep the canonical form. -/
theorem cellsWf_foldl {α : Type} (at_ : α → Nat) (val : α → Byte) (l : List α) {m : List Host.Cell} (w : cellsWf 0 m = true) :
    cellsWf 0 (l.foldl (fun acc x => cellSet (at_ x) (val x) acc) m) = true := by
  induction l generalizing m with
  | nil => exact w
  | cons x t ih => exact ih (cellsWf_cellSet _ (Nat.zero_le _) w)

theorem cellsWf_merge (new : List Host.Cell) {m : List Host.Cell} (w : cellsWf 0 m = true) : cellsWf 0 (cellMerge new m) = true :=
  cellsWf_foldl Prod.fst Prod.snd new w

/-- Stores of a run of bytes, each under an address of its own choice, keep the canonical form. -/
theorem cellsWf_run {β : Type} (key : Nat → Nat) (val : β → Byte) (bs : List β) (a : Nat) {m : List Host.Cell} (w : cellsWf 0 m = true) :
    cellsWf 0 (bs.foldl (fun (st : Nat × List Host.Cell) b => (st.1 + 1, cellSet (key st.1) (val b) st.2)) (a, m)).2 = true := by
  induction bs generalizing a m with
  | nil => exact w
  | cons b t ih => exact ih (a + 1) (cellsWf_cellSet _ (Nat.zero_le _) w)

theorem cellsWf_write (a : Nat) (bs : List Byte) {m : List Host.Cell} (w : cellsWf 0 m = true) : cellsWf 0 (cellWrite a bs m) = true :=
  cellsWf_run id id bs a w

/-- Taking cells out keeps the canonical form. -/
theorem cellsWf_filter (f : Host.Cell → Bool) {lo : Nat} {m : List Host.Cell} (w : cellsWf lo m = true) : cellsWf lo (m.filter f) = true := by
  induction m generalizing lo with
  | nil => rfl
  | cons c t ih =>
    obtain ⟨j, x⟩ := c
    simp only [cellsWf, Bool.and_eq_true, decide_eq_true_eq] at w
    simp only [List.filter]
    split
    · simp only [cellsWf, Bool.and_eq_true, decide_eq_true_eq]
      exact ⟨w.1, ih w.2⟩
    · exact cellsWf_mono (by omega) (ih w.2)

end Sys2Proof.Machine
end

