-- ==== Sys2Proof/Laws/Store.lean ====
section
/-! SUPPORT. Every store of the module keeps the canonical form of its memories, and changes nothing of State but memory and the injections that fire (R4, R206, R228, log 7). -/

namespace Sys2Proof.Machine

/-- The five memories, one by one. -/
theorem memory_wf_iff (s : State) : Memory.wf s = true ↔ cellsWf 0 s.mem.cells = true ∧ cellsWf 0 s.mem.host = true
    ∧ cellsWf 0 s.pci.mbox = true ∧ cellsWf 0 s.capt.sram = true ∧ cellsWf 0 s.mgt.image = true := by
  simp [Memory.wf, and_assoc]

/-- What a store may change: the bytes and poison of memory, and the injections armed. -/
def SameButMemory (s t : State) : Prop :=
  t = { s with mem := { s.mem with cells := t.mem.cells, poison := t.mem.poison, loose := t.mem.loose, damaged := t.mem.damaged }
               str := { s.str with armed := t.str.armed } }

theorem same_refl (s : State) : SameButMemory s s := rfl

theorem same_trans {s t u : State} (h : SameButMemory s t) (k : SameButMemory t u) : SameButMemory s u := by
  unfold SameButMemory at *
  rw [k, h]

theorem settleGranule_same (k sz : Nat) (s : State) : SameButMemory s (settleGranule k sz s) := by
  unfold settleGranule
  split <;> rfl

theorem damageWord_same (pa : Nat) (s : State) : SameButMemory s (damageWord pa s) := by
  unfold damageWord
  split
  · rfl
  · dsimp only
    repeat' split
    all_goals rfl

theorem same_foldl {α : Type} (f : State → α → State) (h : ∀ t a, SameButMemory t (f t a)) (l : List α) (s : State) :
    SameButMemory s (l.foldl f s) := by
  induction l generalizing s with
  | nil => rfl
  | cons a l ih => exact same_trans (h s a) (ih (f s a))

theorem settleAll_same (pa n : Nat) (s : State) : SameButMemory s (settleAll pa n s) := by
  unfold settleAll
  split
  · rfl
  · exact same_foldl _ (fun t g => settleGranule_same _ _ t) _ _

theorem storeBytes_same (pa : Nat) (bs : List PByte) (s : State) : SameButMemory s (storeBytes pa bs s) := rfl

theorem damageAll_same (pa n : Nat) (s : State) : SameButMemory s (damageAll pa n s) := by
  unfold damageAll
  split
  · rfl
  · exact same_foldl _ (fun t g => damageWord_same g t) _ _

/-- A store changes nothing but memory and the injections that fire. -/
theorem physWrite_same (pa : Nat) (bs : List PByte) (s : State) : SameButMemory s (physWrite pa bs s) := by
  unfold physWrite
  split
  · rfl
  · exact same_trans (same_trans (settleAll_same _ _ _) (storeBytes_same _ _ _)) (damageAll_same _ _ _)

/-- With its bytes in canonical form, a state that differs in memory alone keeps every memory in form. -/
theorem wf_of_same {s t : State} (h : SameButMemory s t) (w : Memory.wf s = true) (hc : cellsWf 0 t.mem.cells = true) : Memory.wf t = true := by
  rw [memory_wf_iff] at *
  obtain ⟨_, w2, w3, w4, w5⟩ := w
  refine ⟨hc, ?_, ?_, ?_, ?_⟩ <;> rw [h] <;> assumption

theorem settleGranule_cells (k sz : Nat) {s : State} (w : cellsWf 0 s.mem.cells = true) : cellsWf 0 (settleGranule k sz s).mem.cells = true := by
  unfold settleGranule
  split
  · exact w
  · exact cellsWf_foldl _ _ _ w

theorem damageWord_cells (pa : Nat) (s : State) : (damageWord pa s).mem.cells = s.mem.cells := by
  unfold damageWord
  split
  · rfl
  · dsimp only
    repeat' split
    all_goals rfl

theorem foldl_cells {α : Type} (f : State → α → State) (h : ∀ t a, cellsWf 0 t.mem.cells = true → cellsWf 0 (f t a).mem.cells = true) (l : List α)
    {s : State} (w : cellsWf 0 s.mem.cells = true) : cellsWf 0 (l.foldl f s).mem.cells = true := by
  induction l generalizing s with
  | nil => exact w
  | cons a l ih => exact ih (h s a w)

theorem settleAll_cells (pa n : Nat) {s : State} (w : cellsWf 0 s.mem.cells = true) : cellsWf 0 (settleAll pa n s).mem.cells = true := by
  unfold settleAll
  split
  · exact w
  · exact foldl_cells _ (fun t g h => settleGranule_cells _ _ h) _ w

theorem damageAll_cells (pa n : Nat) {s : State} (w : cellsWf 0 s.mem.cells = true) : cellsWf 0 (damageAll pa n s).mem.cells = true := by
  unfold damageAll
  split
  · exact w
  · exact foldl_cells _ (fun t g h => by rw [damageWord_cells]; exact h) _ w

/-- A store keeps the canonical form. -/
theorem physWrite_cells (pa : Nat) (bs : List PByte) {s : State} (w : cellsWf 0 s.mem.cells = true) : cellsWf 0 (physWrite pa bs s).mem.cells = true := by
  unfold physWrite
  split
  · exact w
  · exact damageAll_cells _ _ (cellsWf_run _ _ bs pa (settleAll_cells _ _ w))

theorem physWrite_wf (pa : Nat) (bs : List PByte) {s : State} (w : Memory.wf s = true) : Memory.wf (physWrite pa bs s) = true :=
  wf_of_same (physWrite_same pa bs s) w (physWrite_cells pa bs ((memory_wf_iff s).1 w).1)

theorem physPut_wf (pa : Nat) (bs : List Byte) {s : State} (w : Memory.wf s = true) : Memory.wf (physPut pa bs s) = true := physWrite_wf pa _ w

theorem physFill_wf (pa n : Nat) (f : Nat → PByte) {s : State} (w : Memory.wf s = true) : Memory.wf (physFill pa n f s) = true := physWrite_wf pa _ w

theorem loosen_wf (n pa len : Nat) {s : State} (w : Memory.wf s = true) : Memory.wf (loosen n pa len s) = true := by
  unfold loosen
  dsimp only
  split
  · exact physWrite_wf _ _ w
  · refine physWrite_wf _ _ (physWrite_wf _ _ (wf_of_same rfl w ?_))
    exact cellsWf_filter _ ((memory_wf_iff s).1 w).1

/-- A write through a translation, to memory or to the host. -/
theorem leafWrite_wf (relaxed : Bool) (l : Leaf) (bs : List PByte) {s : State} (w : Memory.wf s = true) :
    Memory.wf (leafWrite relaxed l bs s) = true := by
  have out : ∀ (os : List PciOut) (t : State), Memory.wf (os.foldl (fun s o => pciOut o s) t) = Memory.wf t := by
    intro os
    induction os with
    | nil => intro t; rfl
    | cons o os ih => intro t; exact ih (pciOut o t)
  unfold leafWrite
  split
  · rw [out]
    rw [memory_wf_iff] at *
    exact ⟨w.1, cellsWf_write _ _ w.2.1, w.2.2⟩
  · exact physWrite_wf _ _ w

theorem foldl_wf {α β : Type} (get : β → State) (f : β → α → β) (h : ∀ b a, Memory.wf (get b) = true → Memory.wf (get (f b a)) = true) (l : List α)
    {b : β} (w : Memory.wf (get b) = true) : Memory.wf (get (l.foldl f b)) = true := by
  induction l generalizing b with
  | nil => exact w
  | cons a l ih => exact ih (h b a w)

/-- A write of a virtual range keeps the canonical form, wherever it stops. -/
theorem vaWrite_wf (r : Reach) (c va : Nat) (bs : List PByte) {s : State} (w : Memory.wf s = true) : Memory.wf (vaWrite r c va bs s).1 = true := by
  unfold vaWrite
  refine foldl_wf Prod.fst _ ?_ _ w
  intro b a h
  split
  · exact h
  · split
    · exact h
    · split
      · exact leafWrite_wf _ _ _ h
      · exact h

/-- A write of a grant range keeps the canonical form, wherever it stops. -/
theorem grantWrite_wf (x : Ctx) (o : Nat) (bs : List PByte) {s : State} (w : Memory.wf s = true) : Memory.wf (grantWrite x o bs s).1 = true := by
  unfold grantWrite
  split
  · exact w
  · dsimp only
    refine foldl_wf Prod.fst _ ?_ _ w
    intro b a h
    split
    · exact h
    · split
      · exact physWrite_wf _ _ h
      · exact h

/-- The host's own stores keep the form. -/
theorem hostMerge_wf (new : List Host.Cell) {s : State} (w : Memory.wf s = true) :
    Memory.wf { s with mem := { s.mem with host := cellMerge new s.mem.host } } = true := by
  rw [memory_wf_iff] at *
  exact ⟨w.1, cellsWf_merge _ w.2.1, w.2.2⟩

/-- The mailbox keeps the form. -/
theorem mboxWrite_wf (a : Nat) (bs : List Byte) {s : State} (w : Memory.wf s = true) :
    Memory.wf { s with pci := { s.pci with mbox := cellWrite a bs s.pci.mbox } } = true := by
  rw [memory_wf_iff] at *
  exact ⟨w.1, w.2.1, cellsWf_write _ _ w.2.2.1, w.2.2.2⟩

/-- A firmware image under download keeps the form. -/
theorem imageWrite_wf (a : Nat) (bs : List Byte) {s : State} (w : Memory.wf s = true) :
    Memory.wf { s with mgt := { s.mgt with image := cellWrite a bs s.mgt.image } } = true := by
  rw [memory_wf_iff] at *
  exact ⟨w.1, w.2.1, w.2.2.1, w.2.2.2.1, cellsWf_write _ _ w.2.2.2.2⟩

/-- The memories of the module as delivered have the form: nothing is listed (R4, log 7). -/
theorem reset_memory_wf : Memory.wf State.reset = true := by decide

end Sys2Proof.Machine
end

