-- ==== Sys2Proof/Laws/State.lean ====
section
/-! SUPPORT. Each update of State, field by field: what it does not touch is as it was. -/

namespace Sys2Proof.Machine

/-! addJob changes jobs alone -/

@[simp] theorem addJob_pending (j : Job) (s : State) : (addJob j s).pending = s.pending := rfl
@[simp] theorem addJob_freeCtr (j : Job) (s : State) : (addJob j s).freeCtr = s.freeCtr := rfl
@[simp] theorem addJob_nextUid (j : Job) (s : State) : (addJob j s).nextUid = s.nextUid := rfl
@[simp] theorem addJob_clk (j : Job) (s : State) : (addJob j s).clk = s.clk := rfl
@[simp] theorem addJob_pwr (j : Job) (s : State) : (addJob j s).pwr = s.pwr := rfl
@[simp] theorem addJob_fw (j : Job) (s : State) : (addJob j s).fw = s.fw := rfl
@[simp] theorem addJob_log (j : Job) (s : State) : (addJob j s).log = s.log := rfl
@[simp] theorem addJob_str (j : Job) (s : State) : (addJob j s).str = s.str := rfl
@[simp] theorem addJob_ctxs (j : Job) (s : State) : (addJob j s).ctxs = s.ctxs := rfl
@[simp] theorem addJob_queues (j : Job) (s : State) : (addJob j s).queues = s.queues := rfl
@[simp] theorem addJob_hitches (j : Job) (s : State) : (addJob j s).hitches = s.hitches := rfl
@[simp] theorem addJob_fetched (j : Job) (s : State) : (addJob j s).fetched = s.fetched := rfl
@[simp] theorem addJob_mem (j : Job) (s : State) : (addJob j s).mem = s.mem := rfl
@[simp] theorem addJob_arr (j : Job) (s : State) : (addJob j s).arr = s.arr := rfl
@[simp] theorem addJob_trk (j : Job) (s : State) : (addJob j s).trk = s.trk := rfl
@[simp] theorem addJob_wins (j : Job) (s : State) : (addJob j s).wins = s.wins := rfl
@[simp] theorem addJob_lnk (j : Job) (s : State) : (addJob j s).lnk = s.lnk := rfl
@[simp] theorem addJob_spl (j : Job) (s : State) : (addJob j s).spl = s.spl := rfl
@[simp] theorem addJob_tkl (j : Job) (s : State) : (addJob j s).tkl = s.tkl := rfl
@[simp] theorem addJob_ttls (j : Job) (s : State) : (addJob j s).ttls = s.ttls := rfl
@[simp] theorem addJob_rst (j : Job) (s : State) : (addJob j s).rst = s.rst := rfl
@[simp] theorem addJob_capt (j : Job) (s : State) : (addJob j s).capt = s.capt := rfl
@[simp] theorem addJob_snarl (j : Job) (s : State) : (addJob j s).snarl = s.snarl := rfl
@[simp] theorem addJob_pci (j : Job) (s : State) : (addJob j s).pci = s.pci := rfl
@[simp] theorem addJob_mgt (j : Job) (s : State) : (addJob j s).mgt = s.mgt := rfl

/-! dropJob changes jobs alone -/

@[simp] theorem dropJob_pending (uid : Nat) (s : State) : (dropJob uid s).pending = s.pending := rfl
@[simp] theorem dropJob_freeCtr (uid : Nat) (s : State) : (dropJob uid s).freeCtr = s.freeCtr := rfl
@[simp] theorem dropJob_nextUid (uid : Nat) (s : State) : (dropJob uid s).nextUid = s.nextUid := rfl
@[simp] theorem dropJob_clk (uid : Nat) (s : State) : (dropJob uid s).clk = s.clk := rfl
@[simp] theorem dropJob_pwr (uid : Nat) (s : State) : (dropJob uid s).pwr = s.pwr := rfl
@[simp] theorem dropJob_fw (uid : Nat) (s : State) : (dropJob uid s).fw = s.fw := rfl
@[simp] theorem dropJob_log (uid : Nat) (s : State) : (dropJob uid s).log = s.log := rfl
@[simp] theorem dropJob_str (uid : Nat) (s : State) : (dropJob uid s).str = s.str := rfl
@[simp] theorem dropJob_ctxs (uid : Nat) (s : State) : (dropJob uid s).ctxs = s.ctxs := rfl
@[simp] theorem dropJob_queues (uid : Nat) (s : State) : (dropJob uid s).queues = s.queues := rfl
@[simp] theorem dropJob_hitches (uid : Nat) (s : State) : (dropJob uid s).hitches = s.hitches := rfl
@[simp] theorem dropJob_fetched (uid : Nat) (s : State) : (dropJob uid s).fetched = s.fetched := rfl
@[simp] theorem dropJob_mem (uid : Nat) (s : State) : (dropJob uid s).mem = s.mem := rfl
@[simp] theorem dropJob_arr (uid : Nat) (s : State) : (dropJob uid s).arr = s.arr := rfl
@[simp] theorem dropJob_trk (uid : Nat) (s : State) : (dropJob uid s).trk = s.trk := rfl
@[simp] theorem dropJob_wins (uid : Nat) (s : State) : (dropJob uid s).wins = s.wins := rfl
@[simp] theorem dropJob_lnk (uid : Nat) (s : State) : (dropJob uid s).lnk = s.lnk := rfl
@[simp] theorem dropJob_spl (uid : Nat) (s : State) : (dropJob uid s).spl = s.spl := rfl
@[simp] theorem dropJob_tkl (uid : Nat) (s : State) : (dropJob uid s).tkl = s.tkl := rfl
@[simp] theorem dropJob_ttls (uid : Nat) (s : State) : (dropJob uid s).ttls = s.ttls := rfl
@[simp] theorem dropJob_rst (uid : Nat) (s : State) : (dropJob uid s).rst = s.rst := rfl
@[simp] theorem dropJob_capt (uid : Nat) (s : State) : (dropJob uid s).capt = s.capt := rfl
@[simp] theorem dropJob_snarl (uid : Nat) (s : State) : (dropJob uid s).snarl = s.snarl := rfl
@[simp] theorem dropJob_pci (uid : Nat) (s : State) : (dropJob uid s).pci = s.pci := rfl
@[simp] theorem dropJob_mgt (uid : Nat) (s : State) : (dropJob uid s).mgt = s.mgt := rfl

/-! updJob changes jobs alone -/

@[simp] theorem updJob_pending (uid : Nat) (f : Job → Job) (s : State) : (updJob uid f s).pending = s.pending := rfl
@[simp] theorem updJob_freeCtr (uid : Nat) (f : Job → Job) (s : State) : (updJob uid f s).freeCtr = s.freeCtr := rfl
@[simp] theorem updJob_nextUid (uid : Nat) (f : Job → Job) (s : State) : (updJob uid f s).nextUid = s.nextUid := rfl
@[simp] theorem updJob_clk (uid : Nat) (f : Job → Job) (s : State) : (updJob uid f s).clk = s.clk := rfl
@[simp] theorem updJob_pwr (uid : Nat) (f : Job → Job) (s : State) : (updJob uid f s).pwr = s.pwr := rfl
@[simp] theorem updJob_fw (uid : Nat) (f : Job → Job) (s : State) : (updJob uid f s).fw = s.fw := rfl
@[simp] theorem updJob_log (uid : Nat) (f : Job → Job) (s : State) : (updJob uid f s).log = s.log := rfl
@[simp] theorem updJob_str (uid : Nat) (f : Job → Job) (s : State) : (updJob uid f s).str = s.str := rfl
@[simp] theorem updJob_ctxs (uid : Nat) (f : Job → Job) (s : State) : (updJob uid f s).ctxs = s.ctxs := rfl
@[simp] theorem updJob_queues (uid : Nat) (f : Job → Job) (s : State) : (updJob uid f s).queues = s.queues := rfl
@[simp] theorem updJob_hitches (uid : Nat) (f : Job → Job) (s : State) : (updJob uid f s).hitches = s.hitches := rfl
@[simp] theorem updJob_fetched (uid : Nat) (f : Job → Job) (s : State) : (updJob uid f s).fetched = s.fetched := rfl
@[simp] theorem updJob_mem (uid : Nat) (f : Job → Job) (s : State) : (updJob uid f s).mem = s.mem := rfl
@[simp] theorem updJob_arr (uid : Nat) (f : Job → Job) (s : State) : (updJob uid f s).arr = s.arr := rfl
@[simp] theorem updJob_trk (uid : Nat) (f : Job → Job) (s : State) : (updJob uid f s).trk = s.trk := rfl
@[simp] theorem updJob_wins (uid : Nat) (f : Job → Job) (s : State) : (updJob uid f s).wins = s.wins := rfl
@[simp] theorem updJob_lnk (uid : Nat) (f : Job → Job) (s : State) : (updJob uid f s).lnk = s.lnk := rfl
@[simp] theorem updJob_spl (uid : Nat) (f : Job → Job) (s : State) : (updJob uid f s).spl = s.spl := rfl
@[simp] theorem updJob_tkl (uid : Nat) (f : Job → Job) (s : State) : (updJob uid f s).tkl = s.tkl := rfl
@[simp] theorem updJob_ttls (uid : Nat) (f : Job → Job) (s : State) : (updJob uid f s).ttls = s.ttls := rfl
@[simp] theorem updJob_rst (uid : Nat) (f : Job → Job) (s : State) : (updJob uid f s).rst = s.rst := rfl
@[simp] theorem updJob_capt (uid : Nat) (f : Job → Job) (s : State) : (updJob uid f s).capt = s.capt := rfl
@[simp] theorem updJob_snarl (uid : Nat) (f : Job → Job) (s : State) : (updJob uid f s).snarl = s.snarl := rfl
@[simp] theorem updJob_pci (uid : Nat) (f : Job → Job) (s : State) : (updJob uid f s).pci = s.pci := rfl
@[simp] theorem updJob_mgt (uid : Nat) (f : Job → Job) (s : State) : (updJob uid f s).mgt = s.mgt := rfl

/-! setWork changes jobs alone -/

@[simp] theorem setWork_pending (uid : Nat) (w : Work) (s : State) : (setWork uid w s).pending = s.pending := rfl
@[simp] theorem setWork_freeCtr (uid : Nat) (w : Work) (s : State) : (setWork uid w s).freeCtr = s.freeCtr := rfl
@[simp] theorem setWork_nextUid (uid : Nat) (w : Work) (s : State) : (setWork uid w s).nextUid = s.nextUid := rfl
@[simp] theorem setWork_clk (uid : Nat) (w : Work) (s : State) : (setWork uid w s).clk = s.clk := rfl
@[simp] theorem setWork_pwr (uid : Nat) (w : Work) (s : State) : (setWork uid w s).pwr = s.pwr := rfl
@[simp] theorem setWork_fw (uid : Nat) (w : Work) (s : State) : (setWork uid w s).fw = s.fw := rfl
@[simp] theorem setWork_log (uid : Nat) (w : Work) (s : State) : (setWork uid w s).log = s.log := rfl
@[simp] theorem setWork_str (uid : Nat) (w : Work) (s : State) : (setWork uid w s).str = s.str := rfl
@[simp] theorem setWork_ctxs (uid : Nat) (w : Work) (s : State) : (setWork uid w s).ctxs = s.ctxs := rfl
@[simp] theorem setWork_queues (uid : Nat) (w : Work) (s : State) : (setWork uid w s).queues = s.queues := rfl
@[simp] theorem setWork_hitches (uid : Nat) (w : Work) (s : State) : (setWork uid w s).hitches = s.hitches := rfl
@[simp] theorem setWork_fetched (uid : Nat) (w : Work) (s : State) : (setWork uid w s).fetched = s.fetched := rfl
@[simp] theorem setWork_mem (uid : Nat) (w : Work) (s : State) : (setWork uid w s).mem = s.mem := rfl
@[simp] theorem setWork_arr (uid : Nat) (w : Work) (s : State) : (setWork uid w s).arr = s.arr := rfl
@[simp] theorem setWork_trk (uid : Nat) (w : Work) (s : State) : (setWork uid w s).trk = s.trk := rfl
@[simp] theorem setWork_wins (uid : Nat) (w : Work) (s : State) : (setWork uid w s).wins = s.wins := rfl
@[simp] theorem setWork_lnk (uid : Nat) (w : Work) (s : State) : (setWork uid w s).lnk = s.lnk := rfl
@[simp] theorem setWork_spl (uid : Nat) (w : Work) (s : State) : (setWork uid w s).spl = s.spl := rfl
@[simp] theorem setWork_tkl (uid : Nat) (w : Work) (s : State) : (setWork uid w s).tkl = s.tkl := rfl
@[simp] theorem setWork_ttls (uid : Nat) (w : Work) (s : State) : (setWork uid w s).ttls = s.ttls := rfl
@[simp] theorem setWork_rst (uid : Nat) (w : Work) (s : State) : (setWork uid w s).rst = s.rst := rfl
@[simp] theorem setWork_capt (uid : Nat) (w : Work) (s : State) : (setWork uid w s).capt = s.capt := rfl
@[simp] theorem setWork_snarl (uid : Nat) (w : Work) (s : State) : (setWork uid w s).snarl = s.snarl := rfl
@[simp] theorem setWork_pci (uid : Nat) (w : Work) (s : State) : (setWork uid w s).pci = s.pci := rfl
@[simp] theorem setWork_mgt (uid : Nat) (w : Work) (s : State) : (setWork uid w s).mgt = s.mgt := rfl

/-! finish changes jobs alone -/

@[simp] theorem finish_pending (uid : Nat) (r : Result) (s : State) : (finish uid r s).pending = s.pending := rfl
@[simp] theorem finish_freeCtr (uid : Nat) (r : Result) (s : State) : (finish uid r s).freeCtr = s.freeCtr := rfl
@[simp] theorem finish_nextUid (uid : Nat) (r : Result) (s : State) : (finish uid r s).nextUid = s.nextUid := rfl
@[simp] theorem finish_clk (uid : Nat) (r : Result) (s : State) : (finish uid r s).clk = s.clk := rfl
@[simp] theorem finish_pwr (uid : Nat) (r : Result) (s : State) : (finish uid r s).pwr = s.pwr := rfl
@[simp] theorem finish_fw (uid : Nat) (r : Result) (s : State) : (finish uid r s).fw = s.fw := rfl
@[simp] theorem finish_log (uid : Nat) (r : Result) (s : State) : (finish uid r s).log = s.log := rfl
@[simp] theorem finish_str (uid : Nat) (r : Result) (s : State) : (finish uid r s).str = s.str := rfl
@[simp] theorem finish_ctxs (uid : Nat) (r : Result) (s : State) : (finish uid r s).ctxs = s.ctxs := rfl
@[simp] theorem finish_queues (uid : Nat) (r : Result) (s : State) : (finish uid r s).queues = s.queues := rfl
@[simp] theorem finish_hitches (uid : Nat) (r : Result) (s : State) : (finish uid r s).hitches = s.hitches := rfl
@[simp] theorem finish_fetched (uid : Nat) (r : Result) (s : State) : (finish uid r s).fetched = s.fetched := rfl
@[simp] theorem finish_mem (uid : Nat) (r : Result) (s : State) : (finish uid r s).mem = s.mem := rfl
@[simp] theorem finish_arr (uid : Nat) (r : Result) (s : State) : (finish uid r s).arr = s.arr := rfl
@[simp] theorem finish_trk (uid : Nat) (r : Result) (s : State) : (finish uid r s).trk = s.trk := rfl
@[simp] theorem finish_wins (uid : Nat) (r : Result) (s : State) : (finish uid r s).wins = s.wins := rfl
@[simp] theorem finish_lnk (uid : Nat) (r : Result) (s : State) : (finish uid r s).lnk = s.lnk := rfl
@[simp] theorem finish_spl (uid : Nat) (r : Result) (s : State) : (finish uid r s).spl = s.spl := rfl
@[simp] theorem finish_tkl (uid : Nat) (r : Result) (s : State) : (finish uid r s).tkl = s.tkl := rfl
@[simp] theorem finish_ttls (uid : Nat) (r : Result) (s : State) : (finish uid r s).ttls = s.ttls := rfl
@[simp] theorem finish_rst (uid : Nat) (r : Result) (s : State) : (finish uid r s).rst = s.rst := rfl
@[simp] theorem finish_capt (uid : Nat) (r : Result) (s : State) : (finish uid r s).capt = s.capt := rfl
@[simp] theorem finish_snarl (uid : Nat) (r : Result) (s : State) : (finish uid r s).snarl = s.snarl := rfl
@[simp] theorem finish_pci (uid : Nat) (r : Result) (s : State) : (finish uid r s).pci = s.pci := rfl
@[simp] theorem finish_mgt (uid : Nat) (r : Result) (s : State) : (finish uid r s).mgt = s.mgt := rfl

/-! setXfer changes jobs alone -/

@[simp] theorem setXfer_pending (uid : Nat) (f : Xfer → Xfer) (s : State) : (setXfer uid f s).pending = s.pending := rfl
@[simp] theorem setXfer_freeCtr (uid : Nat) (f : Xfer → Xfer) (s : State) : (setXfer uid f s).freeCtr = s.freeCtr := rfl
@[simp] theorem setXfer_nextUid (uid : Nat) (f : Xfer → Xfer) (s : State) : (setXfer uid f s).nextUid = s.nextUid := rfl
@[simp] theorem setXfer_clk (uid : Nat) (f : Xfer → Xfer) (s : State) : (setXfer uid f s).clk = s.clk := rfl
@[simp] theorem setXfer_pwr (uid : Nat) (f : Xfer → Xfer) (s : State) : (setXfer uid f s).pwr = s.pwr := rfl
@[simp] theorem setXfer_fw (uid : Nat) (f : Xfer → Xfer) (s : State) : (setXfer uid f s).fw = s.fw := rfl
@[simp] theorem setXfer_log (uid : Nat) (f : Xfer → Xfer) (s : State) : (setXfer uid f s).log = s.log := rfl
@[simp] theorem setXfer_str (uid : Nat) (f : Xfer → Xfer) (s : State) : (setXfer uid f s).str = s.str := rfl
@[simp] theorem setXfer_ctxs (uid : Nat) (f : Xfer → Xfer) (s : State) : (setXfer uid f s).ctxs = s.ctxs := rfl
@[simp] theorem setXfer_queues (uid : Nat) (f : Xfer → Xfer) (s : State) : (setXfer uid f s).queues = s.queues := rfl
@[simp] theorem setXfer_hitches (uid : Nat) (f : Xfer → Xfer) (s : State) : (setXfer uid f s).hitches = s.hitches := rfl
@[simp] theorem setXfer_fetched (uid : Nat) (f : Xfer → Xfer) (s : State) : (setXfer uid f s).fetched = s.fetched := rfl
@[simp] theorem setXfer_mem (uid : Nat) (f : Xfer → Xfer) (s : State) : (setXfer uid f s).mem = s.mem := rfl
@[simp] theorem setXfer_arr (uid : Nat) (f : Xfer → Xfer) (s : State) : (setXfer uid f s).arr = s.arr := rfl
@[simp] theorem setXfer_trk (uid : Nat) (f : Xfer → Xfer) (s : State) : (setXfer uid f s).trk = s.trk := rfl
@[simp] theorem setXfer_wins (uid : Nat) (f : Xfer → Xfer) (s : State) : (setXfer uid f s).wins = s.wins := rfl
@[simp] theorem setXfer_lnk (uid : Nat) (f : Xfer → Xfer) (s : State) : (setXfer uid f s).lnk = s.lnk := rfl
@[simp] theorem setXfer_spl (uid : Nat) (f : Xfer → Xfer) (s : State) : (setXfer uid f s).spl = s.spl := rfl
@[simp] theorem setXfer_tkl (uid : Nat) (f : Xfer → Xfer) (s : State) : (setXfer uid f s).tkl = s.tkl := rfl
@[simp] theorem setXfer_ttls (uid : Nat) (f : Xfer → Xfer) (s : State) : (setXfer uid f s).ttls = s.ttls := rfl
@[simp] theorem setXfer_rst (uid : Nat) (f : Xfer → Xfer) (s : State) : (setXfer uid f s).rst = s.rst := rfl
@[simp] theorem setXfer_capt (uid : Nat) (f : Xfer → Xfer) (s : State) : (setXfer uid f s).capt = s.capt := rfl
@[simp] theorem setXfer_snarl (uid : Nat) (f : Xfer → Xfer) (s : State) : (setXfer uid f s).snarl = s.snarl := rfl
@[simp] theorem setXfer_pci (uid : Nat) (f : Xfer → Xfer) (s : State) : (setXfer uid f s).pci = s.pci := rfl
@[simp] theorem setXfer_mgt (uid : Nat) (f : Xfer → Xfer) (s : State) : (setXfer uid f s).mgt = s.mgt := rfl

/-! setCtx changes ctxs alone -/

@[simp] theorem setCtx_pending (c : Nat) (x : Ctx) (s : State) : (setCtx c x s).pending = s.pending := rfl
@[simp] theorem setCtx_freeCtr (c : Nat) (x : Ctx) (s : State) : (setCtx c x s).freeCtr = s.freeCtr := rfl
@[simp] theorem setCtx_nextUid (c : Nat) (x : Ctx) (s : State) : (setCtx c x s).nextUid = s.nextUid := rfl
@[simp] theorem setCtx_clk (c : Nat) (x : Ctx) (s : State) : (setCtx c x s).clk = s.clk := rfl
@[simp] theorem setCtx_pwr (c : Nat) (x : Ctx) (s : State) : (setCtx c x s).pwr = s.pwr := rfl
@[simp] theorem setCtx_fw (c : Nat) (x : Ctx) (s : State) : (setCtx c x s).fw = s.fw := rfl
@[simp] theorem setCtx_log (c : Nat) (x : Ctx) (s : State) : (setCtx c x s).log = s.log := rfl
@[simp] theorem setCtx_str (c : Nat) (x : Ctx) (s : State) : (setCtx c x s).str = s.str := rfl
@[simp] theorem setCtx_queues (c : Nat) (x : Ctx) (s : State) : (setCtx c x s).queues = s.queues := rfl
@[simp] theorem setCtx_hitches (c : Nat) (x : Ctx) (s : State) : (setCtx c x s).hitches = s.hitches := rfl
@[simp] theorem setCtx_fetched (c : Nat) (x : Ctx) (s : State) : (setCtx c x s).fetched = s.fetched := rfl
@[simp] theorem setCtx_jobs (c : Nat) (x : Ctx) (s : State) : (setCtx c x s).jobs = s.jobs := rfl
@[simp] theorem setCtx_mem (c : Nat) (x : Ctx) (s : State) : (setCtx c x s).mem = s.mem := rfl
@[simp] theorem setCtx_arr (c : Nat) (x : Ctx) (s : State) : (setCtx c x s).arr = s.arr := rfl
@[simp] theorem setCtx_trk (c : Nat) (x : Ctx) (s : State) : (setCtx c x s).trk = s.trk := rfl
@[simp] theorem setCtx_wins (c : Nat) (x : Ctx) (s : State) : (setCtx c x s).wins = s.wins := rfl
@[simp] theorem setCtx_lnk (c : Nat) (x : Ctx) (s : State) : (setCtx c x s).lnk = s.lnk := rfl
@[simp] theorem setCtx_spl (c : Nat) (x : Ctx) (s : State) : (setCtx c x s).spl = s.spl := rfl
@[simp] theorem setCtx_tkl (c : Nat) (x : Ctx) (s : State) : (setCtx c x s).tkl = s.tkl := rfl
@[simp] theorem setCtx_ttls (c : Nat) (x : Ctx) (s : State) : (setCtx c x s).ttls = s.ttls := rfl
@[simp] theorem setCtx_rst (c : Nat) (x : Ctx) (s : State) : (setCtx c x s).rst = s.rst := rfl
@[simp] theorem setCtx_capt (c : Nat) (x : Ctx) (s : State) : (setCtx c x s).capt = s.capt := rfl
@[simp] theorem setCtx_snarl (c : Nat) (x : Ctx) (s : State) : (setCtx c x s).snarl = s.snarl := rfl
@[simp] theorem setCtx_pci (c : Nat) (x : Ctx) (s : State) : (setCtx c x s).pci = s.pci := rfl
@[simp] theorem setCtx_mgt (c : Nat) (x : Ctx) (s : State) : (setCtx c x s).mgt = s.mgt := rfl

/-! setGrant changes ctxs alone -/

@[simp] theorem setGrant_pending (c i n : Nat) (s : State) : (setGrant c i n s).pending = s.pending := rfl
@[simp] theorem setGrant_freeCtr (c i n : Nat) (s : State) : (setGrant c i n s).freeCtr = s.freeCtr := rfl
@[simp] theorem setGrant_nextUid (c i n : Nat) (s : State) : (setGrant c i n s).nextUid = s.nextUid := rfl
@[simp] theorem setGrant_clk (c i n : Nat) (s : State) : (setGrant c i n s).clk = s.clk := rfl
@[simp] theorem setGrant_pwr (c i n : Nat) (s : State) : (setGrant c i n s).pwr = s.pwr := rfl
@[simp] theorem setGrant_fw (c i n : Nat) (s : State) : (setGrant c i n s).fw = s.fw := rfl
@[simp] theorem setGrant_log (c i n : Nat) (s : State) : (setGrant c i n s).log = s.log := rfl
@[simp] theorem setGrant_str (c i n : Nat) (s : State) : (setGrant c i n s).str = s.str := rfl
@[simp] theorem setGrant_queues (c i n : Nat) (s : State) : (setGrant c i n s).queues = s.queues := rfl
@[simp] theorem setGrant_hitches (c i n : Nat) (s : State) : (setGrant c i n s).hitches = s.hitches := rfl
@[simp] theorem setGrant_fetched (c i n : Nat) (s : State) : (setGrant c i n s).fetched = s.fetched := rfl
@[simp] theorem setGrant_jobs (c i n : Nat) (s : State) : (setGrant c i n s).jobs = s.jobs := rfl
@[simp] theorem setGrant_mem (c i n : Nat) (s : State) : (setGrant c i n s).mem = s.mem := rfl
@[simp] theorem setGrant_arr (c i n : Nat) (s : State) : (setGrant c i n s).arr = s.arr := rfl
@[simp] theorem setGrant_trk (c i n : Nat) (s : State) : (setGrant c i n s).trk = s.trk := rfl
@[simp] theorem setGrant_wins (c i n : Nat) (s : State) : (setGrant c i n s).wins = s.wins := rfl
@[simp] theorem setGrant_lnk (c i n : Nat) (s : State) : (setGrant c i n s).lnk = s.lnk := rfl
@[simp] theorem setGrant_spl (c i n : Nat) (s : State) : (setGrant c i n s).spl = s.spl := rfl
@[simp] theorem setGrant_tkl (c i n : Nat) (s : State) : (setGrant c i n s).tkl = s.tkl := rfl
@[simp] theorem setGrant_ttls (c i n : Nat) (s : State) : (setGrant c i n s).ttls = s.ttls := rfl
@[simp] theorem setGrant_rst (c i n : Nat) (s : State) : (setGrant c i n s).rst = s.rst := rfl
@[simp] theorem setGrant_capt (c i n : Nat) (s : State) : (setGrant c i n s).capt = s.capt := rfl
@[simp] theorem setGrant_snarl (c i n : Nat) (s : State) : (setGrant c i n s).snarl = s.snarl := rfl
@[simp] theorem setGrant_pci (c i n : Nat) (s : State) : (setGrant c i n s).pci = s.pci := rfl
@[simp] theorem setGrant_mgt (c i n : Nat) (s : State) : (setGrant c i n s).mgt = s.mgt := rfl

/-! freeEntry changes trk alone -/

@[simp] theorem freeEntry_pending (tid : Nat) (s : State) : (freeEntry tid s).pending = s.pending := rfl
@[simp] theorem freeEntry_freeCtr (tid : Nat) (s : State) : (freeEntry tid s).freeCtr = s.freeCtr := rfl
@[simp] theorem freeEntry_nextUid (tid : Nat) (s : State) : (freeEntry tid s).nextUid = s.nextUid := rfl
@[simp] theorem freeEntry_clk (tid : Nat) (s : State) : (freeEntry tid s).clk = s.clk := rfl
@[simp] theorem freeEntry_pwr (tid : Nat) (s : State) : (freeEntry tid s).pwr = s.pwr := rfl
@[simp] theorem freeEntry_fw (tid : Nat) (s : State) : (freeEntry tid s).fw = s.fw := rfl
@[simp] theorem freeEntry_log (tid : Nat) (s : State) : (freeEntry tid s).log = s.log := rfl
@[simp] theorem freeEntry_str (tid : Nat) (s : State) : (freeEntry tid s).str = s.str := rfl
@[simp] theorem freeEntry_ctxs (tid : Nat) (s : State) : (freeEntry tid s).ctxs = s.ctxs := rfl
@[simp] theorem freeEntry_queues (tid : Nat) (s : State) : (freeEntry tid s).queues = s.queues := rfl
@[simp] theorem freeEntry_hitches (tid : Nat) (s : State) : (freeEntry tid s).hitches = s.hitches := rfl
@[simp] theorem freeEntry_fetched (tid : Nat) (s : State) : (freeEntry tid s).fetched = s.fetched := rfl
@[simp] theorem freeEntry_jobs (tid : Nat) (s : State) : (freeEntry tid s).jobs = s.jobs := rfl
@[simp] theorem freeEntry_mem (tid : Nat) (s : State) : (freeEntry tid s).mem = s.mem := rfl
@[simp] theorem freeEntry_arr (tid : Nat) (s : State) : (freeEntry tid s).arr = s.arr := rfl
@[simp] theorem freeEntry_wins (tid : Nat) (s : State) : (freeEntry tid s).wins = s.wins := rfl
@[simp] theorem freeEntry_lnk (tid : Nat) (s : State) : (freeEntry tid s).lnk = s.lnk := rfl
@[simp] theorem freeEntry_spl (tid : Nat) (s : State) : (freeEntry tid s).spl = s.spl := rfl
@[simp] theorem freeEntry_tkl (tid : Nat) (s : State) : (freeEntry tid s).tkl = s.tkl := rfl
@[simp] theorem freeEntry_ttls (tid : Nat) (s : State) : (freeEntry tid s).ttls = s.ttls := rfl
@[simp] theorem freeEntry_rst (tid : Nat) (s : State) : (freeEntry tid s).rst = s.rst := rfl
@[simp] theorem freeEntry_capt (tid : Nat) (s : State) : (freeEntry tid s).capt = s.capt := rfl
@[simp] theorem freeEntry_snarl (tid : Nat) (s : State) : (freeEntry tid s).snarl = s.snarl := rfl
@[simp] theorem freeEntry_pci (tid : Nat) (s : State) : (freeEntry tid s).pci = s.pci := rfl
@[simp] theorem freeEntry_mgt (tid : Nat) (s : State) : (freeEntry tid s).mgt = s.mgt := rfl

/-! setRun changes arr alone -/

@[simp] theorem setRun_pending (r : ArrRun) (s : State) : (setRun r s).pending = s.pending := rfl
@[simp] theorem setRun_freeCtr (r : ArrRun) (s : State) : (setRun r s).freeCtr = s.freeCtr := rfl
@[simp] theorem setRun_nextUid (r : ArrRun) (s : State) : (setRun r s).nextUid = s.nextUid := rfl
@[simp] theorem setRun_clk (r : ArrRun) (s : State) : (setRun r s).clk = s.clk := rfl
@[simp] theorem setRun_pwr (r : ArrRun) (s : State) : (setRun r s).pwr = s.pwr := rfl
@[simp] theorem setRun_fw (r : ArrRun) (s : State) : (setRun r s).fw = s.fw := rfl
@[simp] theorem setRun_log (r : ArrRun) (s : State) : (setRun r s).log = s.log := rfl
@[simp] theorem setRun_str (r : ArrRun) (s : State) : (setRun r s).str = s.str := rfl
@[simp] theorem setRun_ctxs (r : ArrRun) (s : State) : (setRun r s).ctxs = s.ctxs := rfl
@[simp] theorem setRun_queues (r : ArrRun) (s : State) : (setRun r s).queues = s.queues := rfl
@[simp] theorem setRun_hitches (r : ArrRun) (s : State) : (setRun r s).hitches = s.hitches := rfl
@[simp] theorem setRun_fetched (r : ArrRun) (s : State) : (setRun r s).fetched = s.fetched := rfl
@[simp] theorem setRun_jobs (r : ArrRun) (s : State) : (setRun r s).jobs = s.jobs := rfl
@[simp] theorem setRun_mem (r : ArrRun) (s : State) : (setRun r s).mem = s.mem := rfl
@[simp] theorem setRun_trk (r : ArrRun) (s : State) : (setRun r s).trk = s.trk := rfl
@[simp] theorem setRun_wins (r : ArrRun) (s : State) : (setRun r s).wins = s.wins := rfl
@[simp] theorem setRun_lnk (r : ArrRun) (s : State) : (setRun r s).lnk = s.lnk := rfl
@[simp] theorem setRun_spl (r : ArrRun) (s : State) : (setRun r s).spl = s.spl := rfl
@[simp] theorem setRun_tkl (r : ArrRun) (s : State) : (setRun r s).tkl = s.tkl := rfl
@[simp] theorem setRun_ttls (r : ArrRun) (s : State) : (setRun r s).ttls = s.ttls := rfl
@[simp] theorem setRun_rst (r : ArrRun) (s : State) : (setRun r s).rst = s.rst := rfl
@[simp] theorem setRun_capt (r : ArrRun) (s : State) : (setRun r s).capt = s.capt := rfl
@[simp] theorem setRun_snarl (r : ArrRun) (s : State) : (setRun r s).snarl = s.snarl := rfl
@[simp] theorem setRun_pci (r : ArrRun) (s : State) : (setRun r s).pci = s.pci := rfl
@[simp] theorem setRun_mgt (r : ArrRun) (s : State) : (setRun r s).mgt = s.mgt := rfl

/-! addReady changes arr alone -/

@[simp] theorem addReady_pending (uid : Nat) (s : State) : (addReady uid s).pending = s.pending := rfl
@[simp] theorem addReady_freeCtr (uid : Nat) (s : State) : (addReady uid s).freeCtr = s.freeCtr := rfl
@[simp] theorem addReady_nextUid (uid : Nat) (s : State) : (addReady uid s).nextUid = s.nextUid := rfl
@[simp] theorem addReady_clk (uid : Nat) (s : State) : (addReady uid s).clk = s.clk := rfl
@[simp] theorem addReady_pwr (uid : Nat) (s : State) : (addReady uid s).pwr = s.pwr := rfl
@[simp] theorem addReady_fw (uid : Nat) (s : State) : (addReady uid s).fw = s.fw := rfl
@[simp] theorem addReady_log (uid : Nat) (s : State) : (addReady uid s).log = s.log := rfl
@[simp] theorem addReady_str (uid : Nat) (s : State) : (addReady uid s).str = s.str := rfl
@[simp] theorem addReady_ctxs (uid : Nat) (s : State) : (addReady uid s).ctxs = s.ctxs := rfl
@[simp] theorem addReady_queues (uid : Nat) (s : State) : (addReady uid s).queues = s.queues := rfl
@[simp] theorem addReady_hitches (uid : Nat) (s : State) : (addReady uid s).hitches = s.hitches := rfl
@[simp] theorem addReady_fetched (uid : Nat) (s : State) : (addReady uid s).fetched = s.fetched := rfl
@[simp] theorem addReady_jobs (uid : Nat) (s : State) : (addReady uid s).jobs = s.jobs := rfl
@[simp] theorem addReady_mem (uid : Nat) (s : State) : (addReady uid s).mem = s.mem := rfl
@[simp] theorem addReady_trk (uid : Nat) (s : State) : (addReady uid s).trk = s.trk := rfl
@[simp] theorem addReady_wins (uid : Nat) (s : State) : (addReady uid s).wins = s.wins := rfl
@[simp] theorem addReady_lnk (uid : Nat) (s : State) : (addReady uid s).lnk = s.lnk := rfl
@[simp] theorem addReady_spl (uid : Nat) (s : State) : (addReady uid s).spl = s.spl := rfl
@[simp] theorem addReady_tkl (uid : Nat) (s : State) : (addReady uid s).tkl = s.tkl := rfl
@[simp] theorem addReady_ttls (uid : Nat) (s : State) : (addReady uid s).ttls = s.ttls := rfl
@[simp] theorem addReady_rst (uid : Nat) (s : State) : (addReady uid s).rst = s.rst := rfl
@[simp] theorem addReady_capt (uid : Nat) (s : State) : (addReady uid s).capt = s.capt := rfl
@[simp] theorem addReady_snarl (uid : Nat) (s : State) : (addReady uid s).snarl = s.snarl := rfl
@[simp] theorem addReady_pci (uid : Nat) (s : State) : (addReady uid s).pci = s.pci := rfl
@[simp] theorem addReady_mgt (uid : Nat) (s : State) : (addReady uid s).mgt = s.mgt := rfl

/-! pciOut changes pci alone -/

@[simp] theorem pciOut_pending (o : PciOut) (s : State) : (pciOut o s).pending = s.pending := rfl
@[simp] theorem pciOut_freeCtr (o : PciOut) (s : State) : (pciOut o s).freeCtr = s.freeCtr := rfl
@[simp] theorem pciOut_nextUid (o : PciOut) (s : State) : (pciOut o s).nextUid = s.nextUid := rfl
@[simp] theorem pciOut_clk (o : PciOut) (s : State) : (pciOut o s).clk = s.clk := rfl
@[simp] theorem pciOut_pwr (o : PciOut) (s : State) : (pciOut o s).pwr = s.pwr := rfl
@[simp] theorem pciOut_fw (o : PciOut) (s : State) : (pciOut o s).fw = s.fw := rfl
@[simp] theorem pciOut_log (o : PciOut) (s : State) : (pciOut o s).log = s.log := rfl
@[simp] theorem pciOut_str (o : PciOut) (s : State) : (pciOut o s).str = s.str := rfl
@[simp] theorem pciOut_ctxs (o : PciOut) (s : State) : (pciOut o s).ctxs = s.ctxs := rfl
@[simp] theorem pciOut_queues (o : PciOut) (s : State) : (pciOut o s).queues = s.queues := rfl
@[simp] theorem pciOut_hitches (o : PciOut) (s : State) : (pciOut o s).hitches = s.hitches := rfl
@[simp] theorem pciOut_fetched (o : PciOut) (s : State) : (pciOut o s).fetched = s.fetched := rfl
@[simp] theorem pciOut_jobs (o : PciOut) (s : State) : (pciOut o s).jobs = s.jobs := rfl
@[simp] theorem pciOut_mem (o : PciOut) (s : State) : (pciOut o s).mem = s.mem := rfl
@[simp] theorem pciOut_arr (o : PciOut) (s : State) : (pciOut o s).arr = s.arr := rfl
@[simp] theorem pciOut_trk (o : PciOut) (s : State) : (pciOut o s).trk = s.trk := rfl
@[simp] theorem pciOut_wins (o : PciOut) (s : State) : (pciOut o s).wins = s.wins := rfl
@[simp] theorem pciOut_lnk (o : PciOut) (s : State) : (pciOut o s).lnk = s.lnk := rfl
@[simp] theorem pciOut_spl (o : PciOut) (s : State) : (pciOut o s).spl = s.spl := rfl
@[simp] theorem pciOut_tkl (o : PciOut) (s : State) : (pciOut o s).tkl = s.tkl := rfl
@[simp] theorem pciOut_ttls (o : PciOut) (s : State) : (pciOut o s).ttls = s.ttls := rfl
@[simp] theorem pciOut_rst (o : PciOut) (s : State) : (pciOut o s).rst = s.rst := rfl
@[simp] theorem pciOut_capt (o : PciOut) (s : State) : (pciOut o s).capt = s.capt := rfl
@[simp] theorem pciOut_snarl (o : PciOut) (s : State) : (pciOut o s).snarl = s.snarl := rfl
@[simp] theorem pciOut_mgt (o : PciOut) (s : State) : (pciOut o s).mgt = s.mgt := rfl

/-! badAccess changes pci alone -/

@[simp] theorem badAccess_pending (s : State) : (badAccess s).pending = s.pending := rfl
@[simp] theorem badAccess_freeCtr (s : State) : (badAccess s).freeCtr = s.freeCtr := rfl
@[simp] theorem badAccess_nextUid (s : State) : (badAccess s).nextUid = s.nextUid := rfl
@[simp] theorem badAccess_clk (s : State) : (badAccess s).clk = s.clk := rfl
@[simp] theorem badAccess_pwr (s : State) : (badAccess s).pwr = s.pwr := rfl
@[simp] theorem badAccess_fw (s : State) : (badAccess s).fw = s.fw := rfl
@[simp] theorem badAccess_log (s : State) : (badAccess s).log = s.log := rfl
@[simp] theorem badAccess_str (s : State) : (badAccess s).str = s.str := rfl
@[simp] theorem badAccess_ctxs (s : State) : (badAccess s).ctxs = s.ctxs := rfl
@[simp] theorem badAccess_queues (s : State) : (badAccess s).queues = s.queues := rfl
@[simp] theorem badAccess_hitches (s : State) : (badAccess s).hitches = s.hitches := rfl
@[simp] theorem badAccess_fetched (s : State) : (badAccess s).fetched = s.fetched := rfl
@[simp] theorem badAccess_jobs (s : State) : (badAccess s).jobs = s.jobs := rfl
@[simp] theorem badAccess_mem (s : State) : (badAccess s).mem = s.mem := rfl
@[simp] theorem badAccess_arr (s : State) : (badAccess s).arr = s.arr := rfl
@[simp] theorem badAccess_trk (s : State) : (badAccess s).trk = s.trk := rfl
@[simp] theorem badAccess_wins (s : State) : (badAccess s).wins = s.wins := rfl
@[simp] theorem badAccess_lnk (s : State) : (badAccess s).lnk = s.lnk := rfl
@[simp] theorem badAccess_spl (s : State) : (badAccess s).spl = s.spl := rfl
@[simp] theorem badAccess_tkl (s : State) : (badAccess s).tkl = s.tkl := rfl
@[simp] theorem badAccess_ttls (s : State) : (badAccess s).ttls = s.ttls := rfl
@[simp] theorem badAccess_rst (s : State) : (badAccess s).rst = s.rst := rfl
@[simp] theorem badAccess_capt (s : State) : (badAccess s).capt = s.capt := rfl
@[simp] theorem badAccess_snarl (s : State) : (badAccess s).snarl = s.snarl := rfl
@[simp] theorem badAccess_mgt (s : State) : (badAccess s).mgt = s.mgt := rfl

/-! mgtOut changes mgt alone -/

@[simp] theorem mgtOut_pending (o : MgtOut) (s : State) : (mgtOut o s).pending = s.pending := rfl
@[simp] theorem mgtOut_freeCtr (o : MgtOut) (s : State) : (mgtOut o s).freeCtr = s.freeCtr := rfl
@[simp] theorem mgtOut_nextUid (o : MgtOut) (s : State) : (mgtOut o s).nextUid = s.nextUid := rfl
@[simp] theorem mgtOut_clk (o : MgtOut) (s : State) : (mgtOut o s).clk = s.clk := rfl
@[simp] theorem mgtOut_pwr (o : MgtOut) (s : State) : (mgtOut o s).pwr = s.pwr := rfl
@[simp] theorem mgtOut_fw (o : MgtOut) (s : State) : (mgtOut o s).fw = s.fw := rfl
@[simp] theorem mgtOut_log (o : MgtOut) (s : State) : (mgtOut o s).log = s.log := rfl
@[simp] theorem mgtOut_str (o : MgtOut) (s : State) : (mgtOut o s).str = s.str := rfl
@[simp] theorem mgtOut_ctxs (o : MgtOut) (s : State) : (mgtOut o s).ctxs = s.ctxs := rfl
@[simp] theorem mgtOut_queues (o : MgtOut) (s : State) : (mgtOut o s).queues = s.queues := rfl
@[simp] theorem mgtOut_hitches (o : MgtOut) (s : State) : (mgtOut o s).hitches = s.hitches := rfl
@[simp] theorem mgtOut_fetched (o : MgtOut) (s : State) : (mgtOut o s).fetched = s.fetched := rfl
@[simp] theorem mgtOut_jobs (o : MgtOut) (s : State) : (mgtOut o s).jobs = s.jobs := rfl
@[simp] theorem mgtOut_mem (o : MgtOut) (s : State) : (mgtOut o s).mem = s.mem := rfl
@[simp] theorem mgtOut_arr (o : MgtOut) (s : State) : (mgtOut o s).arr = s.arr := rfl
@[simp] theorem mgtOut_trk (o : MgtOut) (s : State) : (mgtOut o s).trk = s.trk := rfl
@[simp] theorem mgtOut_wins (o : MgtOut) (s : State) : (mgtOut o s).wins = s.wins := rfl
@[simp] theorem mgtOut_lnk (o : MgtOut) (s : State) : (mgtOut o s).lnk = s.lnk := rfl
@[simp] theorem mgtOut_spl (o : MgtOut) (s : State) : (mgtOut o s).spl = s.spl := rfl
@[simp] theorem mgtOut_tkl (o : MgtOut) (s : State) : (mgtOut o s).tkl = s.tkl := rfl
@[simp] theorem mgtOut_ttls (o : MgtOut) (s : State) : (mgtOut o s).ttls = s.ttls := rfl
@[simp] theorem mgtOut_rst (o : MgtOut) (s : State) : (mgtOut o s).rst = s.rst := rfl
@[simp] theorem mgtOut_capt (o : MgtOut) (s : State) : (mgtOut o s).capt = s.capt := rfl
@[simp] theorem mgtOut_snarl (o : MgtOut) (s : State) : (mgtOut o s).snarl = s.snarl := rfl
@[simp] theorem mgtOut_pci (o : MgtOut) (s : State) : (mgtOut o s).pci = s.pci := rfl

/-! setPldm changes mgt alone -/

@[simp] theorem setPldm_pending (p : Pldm) (s : State) : (setPldm p s).pending = s.pending := rfl
@[simp] theorem setPldm_freeCtr (p : Pldm) (s : State) : (setPldm p s).freeCtr = s.freeCtr := rfl
@[simp] theorem setPldm_nextUid (p : Pldm) (s : State) : (setPldm p s).nextUid = s.nextUid := rfl
@[simp] theorem setPldm_clk (p : Pldm) (s : State) : (setPldm p s).clk = s.clk := rfl
@[simp] theorem setPldm_pwr (p : Pldm) (s : State) : (setPldm p s).pwr = s.pwr := rfl
@[simp] theorem setPldm_fw (p : Pldm) (s : State) : (setPldm p s).fw = s.fw := rfl
@[simp] theorem setPldm_log (p : Pldm) (s : State) : (setPldm p s).log = s.log := rfl
@[simp] theorem setPldm_str (p : Pldm) (s : State) : (setPldm p s).str = s.str := rfl
@[simp] theorem setPldm_ctxs (p : Pldm) (s : State) : (setPldm p s).ctxs = s.ctxs := rfl
@[simp] theorem setPldm_queues (p : Pldm) (s : State) : (setPldm p s).queues = s.queues := rfl
@[simp] theorem setPldm_hitches (p : Pldm) (s : State) : (setPldm p s).hitches = s.hitches := rfl
@[simp] theorem setPldm_fetched (p : Pldm) (s : State) : (setPldm p s).fetched = s.fetched := rfl
@[simp] theorem setPldm_jobs (p : Pldm) (s : State) : (setPldm p s).jobs = s.jobs := rfl
@[simp] theorem setPldm_mem (p : Pldm) (s : State) : (setPldm p s).mem = s.mem := rfl
@[simp] theorem setPldm_arr (p : Pldm) (s : State) : (setPldm p s).arr = s.arr := rfl
@[simp] theorem setPldm_trk (p : Pldm) (s : State) : (setPldm p s).trk = s.trk := rfl
@[simp] theorem setPldm_wins (p : Pldm) (s : State) : (setPldm p s).wins = s.wins := rfl
@[simp] theorem setPldm_lnk (p : Pldm) (s : State) : (setPldm p s).lnk = s.lnk := rfl
@[simp] theorem setPldm_spl (p : Pldm) (s : State) : (setPldm p s).spl = s.spl := rfl
@[simp] theorem setPldm_tkl (p : Pldm) (s : State) : (setPldm p s).tkl = s.tkl := rfl
@[simp] theorem setPldm_ttls (p : Pldm) (s : State) : (setPldm p s).ttls = s.ttls := rfl
@[simp] theorem setPldm_rst (p : Pldm) (s : State) : (setPldm p s).rst = s.rst := rfl
@[simp] theorem setPldm_capt (p : Pldm) (s : State) : (setPldm p s).capt = s.capt := rfl
@[simp] theorem setPldm_snarl (p : Pldm) (s : State) : (setPldm p s).snarl = s.snarl := rfl
@[simp] theorem setPldm_pci (p : Pldm) (s : State) : (setPldm p s).pci = s.pci := rfl

/-! updRun changes rst alone -/

@[simp] theorem updRun_pending (f : FndRun → FndRun) (s : State) : (updRun f s).pending = s.pending := rfl
@[simp] theorem updRun_freeCtr (f : FndRun → FndRun) (s : State) : (updRun f s).freeCtr = s.freeCtr := rfl
@[simp] theorem updRun_nextUid (f : FndRun → FndRun) (s : State) : (updRun f s).nextUid = s.nextUid := rfl
@[simp] theorem updRun_clk (f : FndRun → FndRun) (s : State) : (updRun f s).clk = s.clk := rfl
@[simp] theorem updRun_pwr (f : FndRun → FndRun) (s : State) : (updRun f s).pwr = s.pwr := rfl
@[simp] theorem updRun_fw (f : FndRun → FndRun) (s : State) : (updRun f s).fw = s.fw := rfl
@[simp] theorem updRun_log (f : FndRun → FndRun) (s : State) : (updRun f s).log = s.log := rfl
@[simp] theorem updRun_str (f : FndRun → FndRun) (s : State) : (updRun f s).str = s.str := rfl
@[simp] theorem updRun_ctxs (f : FndRun → FndRun) (s : State) : (updRun f s).ctxs = s.ctxs := rfl
@[simp] theorem updRun_queues (f : FndRun → FndRun) (s : State) : (updRun f s).queues = s.queues := rfl
@[simp] theorem updRun_hitches (f : FndRun → FndRun) (s : State) : (updRun f s).hitches = s.hitches := rfl
@[simp] theorem updRun_fetched (f : FndRun → FndRun) (s : State) : (updRun f s).fetched = s.fetched := rfl
@[simp] theorem updRun_jobs (f : FndRun → FndRun) (s : State) : (updRun f s).jobs = s.jobs := rfl
@[simp] theorem updRun_mem (f : FndRun → FndRun) (s : State) : (updRun f s).mem = s.mem := rfl
@[simp] theorem updRun_arr (f : FndRun → FndRun) (s : State) : (updRun f s).arr = s.arr := rfl
@[simp] theorem updRun_trk (f : FndRun → FndRun) (s : State) : (updRun f s).trk = s.trk := rfl
@[simp] theorem updRun_wins (f : FndRun → FndRun) (s : State) : (updRun f s).wins = s.wins := rfl
@[simp] theorem updRun_lnk (f : FndRun → FndRun) (s : State) : (updRun f s).lnk = s.lnk := rfl
@[simp] theorem updRun_spl (f : FndRun → FndRun) (s : State) : (updRun f s).spl = s.spl := rfl
@[simp] theorem updRun_tkl (f : FndRun → FndRun) (s : State) : (updRun f s).tkl = s.tkl := rfl
@[simp] theorem updRun_ttls (f : FndRun → FndRun) (s : State) : (updRun f s).ttls = s.ttls := rfl
@[simp] theorem updRun_capt (f : FndRun → FndRun) (s : State) : (updRun f s).capt = s.capt := rfl
@[simp] theorem updRun_snarl (f : FndRun → FndRun) (s : State) : (updRun f s).snarl = s.snarl := rfl
@[simp] theorem updRun_pci (f : FndRun → FndRun) (s : State) : (updRun f s).pci = s.pci := rfl
@[simp] theorem updRun_mgt (f : FndRun → FndRun) (s : State) : (updRun f s).mgt = s.mgt := rfl

/-! setPhase changes rst alone -/

@[simp] theorem setPhase_pending (n : Nat) (s : State) : (setPhase n s).pending = s.pending := rfl
@[simp] theorem setPhase_freeCtr (n : Nat) (s : State) : (setPhase n s).freeCtr = s.freeCtr := rfl
@[simp] theorem setPhase_nextUid (n : Nat) (s : State) : (setPhase n s).nextUid = s.nextUid := rfl
@[simp] theorem setPhase_clk (n : Nat) (s : State) : (setPhase n s).clk = s.clk := rfl
@[simp] theorem setPhase_pwr (n : Nat) (s : State) : (setPhase n s).pwr = s.pwr := rfl
@[simp] theorem setPhase_fw (n : Nat) (s : State) : (setPhase n s).fw = s.fw := rfl
@[simp] theorem setPhase_log (n : Nat) (s : State) : (setPhase n s).log = s.log := rfl
@[simp] theorem setPhase_str (n : Nat) (s : State) : (setPhase n s).str = s.str := rfl
@[simp] theorem setPhase_ctxs (n : Nat) (s : State) : (setPhase n s).ctxs = s.ctxs := rfl
@[simp] theorem setPhase_queues (n : Nat) (s : State) : (setPhase n s).queues = s.queues := rfl
@[simp] theorem setPhase_hitches (n : Nat) (s : State) : (setPhase n s).hitches = s.hitches := rfl
@[simp] theorem setPhase_fetched (n : Nat) (s : State) : (setPhase n s).fetched = s.fetched := rfl
@[simp] theorem setPhase_jobs (n : Nat) (s : State) : (setPhase n s).jobs = s.jobs := rfl
@[simp] theorem setPhase_mem (n : Nat) (s : State) : (setPhase n s).mem = s.mem := rfl
@[simp] theorem setPhase_arr (n : Nat) (s : State) : (setPhase n s).arr = s.arr := rfl
@[simp] theorem setPhase_trk (n : Nat) (s : State) : (setPhase n s).trk = s.trk := rfl
@[simp] theorem setPhase_wins (n : Nat) (s : State) : (setPhase n s).wins = s.wins := rfl
@[simp] theorem setPhase_lnk (n : Nat) (s : State) : (setPhase n s).lnk = s.lnk := rfl
@[simp] theorem setPhase_spl (n : Nat) (s : State) : (setPhase n s).spl = s.spl := rfl
@[simp] theorem setPhase_tkl (n : Nat) (s : State) : (setPhase n s).tkl = s.tkl := rfl
@[simp] theorem setPhase_ttls (n : Nat) (s : State) : (setPhase n s).ttls = s.ttls := rfl
@[simp] theorem setPhase_capt (n : Nat) (s : State) : (setPhase n s).capt = s.capt := rfl
@[simp] theorem setPhase_snarl (n : Nat) (s : State) : (setPhase n s).snarl = s.snarl := rfl
@[simp] theorem setPhase_pci (n : Nat) (s : State) : (setPhase n s).pci = s.pci := rfl
@[simp] theorem setPhase_mgt (n : Nat) (s : State) : (setPhase n s).mgt = s.mgt := rfl

/-! updLink changes lnk alone -/

@[simp] theorem updLink_pending (l : Nat) (f : Link → Link) (s : State) : (updLink l f s).pending = s.pending := rfl
@[simp] theorem updLink_freeCtr (l : Nat) (f : Link → Link) (s : State) : (updLink l f s).freeCtr = s.freeCtr := rfl
@[simp] theorem updLink_nextUid (l : Nat) (f : Link → Link) (s : State) : (updLink l f s).nextUid = s.nextUid := rfl
@[simp] theorem updLink_clk (l : Nat) (f : Link → Link) (s : State) : (updLink l f s).clk = s.clk := rfl
@[simp] theorem updLink_pwr (l : Nat) (f : Link → Link) (s : State) : (updLink l f s).pwr = s.pwr := rfl
@[simp] theorem updLink_fw (l : Nat) (f : Link → Link) (s : State) : (updLink l f s).fw = s.fw := rfl
@[simp] theorem updLink_log (l : Nat) (f : Link → Link) (s : State) : (updLink l f s).log = s.log := rfl
@[simp] theorem updLink_str (l : Nat) (f : Link → Link) (s : State) : (updLink l f s).str = s.str := rfl
@[simp] theorem updLink_ctxs (l : Nat) (f : Link → Link) (s : State) : (updLink l f s).ctxs = s.ctxs := rfl
@[simp] theorem updLink_queues (l : Nat) (f : Link → Link) (s : State) : (updLink l f s).queues = s.queues := rfl
@[simp] theorem updLink_hitches (l : Nat) (f : Link → Link) (s : State) : (updLink l f s).hitches = s.hitches := rfl
@[simp] theorem updLink_fetched (l : Nat) (f : Link → Link) (s : State) : (updLink l f s).fetched = s.fetched := rfl
@[simp] theorem updLink_jobs (l : Nat) (f : Link → Link) (s : State) : (updLink l f s).jobs = s.jobs := rfl
@[simp] theorem updLink_mem (l : Nat) (f : Link → Link) (s : State) : (updLink l f s).mem = s.mem := rfl
@[simp] theorem updLink_arr (l : Nat) (f : Link → Link) (s : State) : (updLink l f s).arr = s.arr := rfl
@[simp] theorem updLink_trk (l : Nat) (f : Link → Link) (s : State) : (updLink l f s).trk = s.trk := rfl
@[simp] theorem updLink_wins (l : Nat) (f : Link → Link) (s : State) : (updLink l f s).wins = s.wins := rfl
@[simp] theorem updLink_spl (l : Nat) (f : Link → Link) (s : State) : (updLink l f s).spl = s.spl := rfl
@[simp] theorem updLink_tkl (l : Nat) (f : Link → Link) (s : State) : (updLink l f s).tkl = s.tkl := rfl
@[simp] theorem updLink_ttls (l : Nat) (f : Link → Link) (s : State) : (updLink l f s).ttls = s.ttls := rfl
@[simp] theorem updLink_rst (l : Nat) (f : Link → Link) (s : State) : (updLink l f s).rst = s.rst := rfl
@[simp] theorem updLink_capt (l : Nat) (f : Link → Link) (s : State) : (updLink l f s).capt = s.capt := rfl
@[simp] theorem updLink_snarl (l : Nat) (f : Link → Link) (s : State) : (updLink l f s).snarl = s.snarl := rfl
@[simp] theorem updLink_pci (l : Nat) (f : Link → Link) (s : State) : (updLink l f s).pci = s.pci := rfl
@[simp] theorem updLink_mgt (l : Nat) (f : Link → Link) (s : State) : (updLink l f s).mgt = s.mgt := rfl

/-! updVc changes lnk alone -/

@[simp] theorem updVc_pending (l v : Nat) (f : Vc → Vc) (s : State) : (updVc l v f s).pending = s.pending := rfl
@[simp] theorem updVc_freeCtr (l v : Nat) (f : Vc → Vc) (s : State) : (updVc l v f s).freeCtr = s.freeCtr := rfl
@[simp] theorem updVc_nextUid (l v : Nat) (f : Vc → Vc) (s : State) : (updVc l v f s).nextUid = s.nextUid := rfl
@[simp] theorem updVc_clk (l v : Nat) (f : Vc → Vc) (s : State) : (updVc l v f s).clk = s.clk := rfl
@[simp] theorem updVc_pwr (l v : Nat) (f : Vc → Vc) (s : State) : (updVc l v f s).pwr = s.pwr := rfl
@[simp] theorem updVc_fw (l v : Nat) (f : Vc → Vc) (s : State) : (updVc l v f s).fw = s.fw := rfl
@[simp] theorem updVc_log (l v : Nat) (f : Vc → Vc) (s : State) : (updVc l v f s).log = s.log := rfl
@[simp] theorem updVc_str (l v : Nat) (f : Vc → Vc) (s : State) : (updVc l v f s).str = s.str := rfl
@[simp] theorem updVc_ctxs (l v : Nat) (f : Vc → Vc) (s : State) : (updVc l v f s).ctxs = s.ctxs := rfl
@[simp] theorem updVc_queues (l v : Nat) (f : Vc → Vc) (s : State) : (updVc l v f s).queues = s.queues := rfl
@[simp] theorem updVc_hitches (l v : Nat) (f : Vc → Vc) (s : State) : (updVc l v f s).hitches = s.hitches := rfl
@[simp] theorem updVc_fetched (l v : Nat) (f : Vc → Vc) (s : State) : (updVc l v f s).fetched = s.fetched := rfl
@[simp] theorem updVc_jobs (l v : Nat) (f : Vc → Vc) (s : State) : (updVc l v f s).jobs = s.jobs := rfl
@[simp] theorem updVc_mem (l v : Nat) (f : Vc → Vc) (s : State) : (updVc l v f s).mem = s.mem := rfl
@[simp] theorem updVc_arr (l v : Nat) (f : Vc → Vc) (s : State) : (updVc l v f s).arr = s.arr := rfl
@[simp] theorem updVc_trk (l v : Nat) (f : Vc → Vc) (s : State) : (updVc l v f s).trk = s.trk := rfl
@[simp] theorem updVc_wins (l v : Nat) (f : Vc → Vc) (s : State) : (updVc l v f s).wins = s.wins := rfl
@[simp] theorem updVc_spl (l v : Nat) (f : Vc → Vc) (s : State) : (updVc l v f s).spl = s.spl := rfl
@[simp] theorem updVc_tkl (l v : Nat) (f : Vc → Vc) (s : State) : (updVc l v f s).tkl = s.tkl := rfl
@[simp] theorem updVc_ttls (l v : Nat) (f : Vc → Vc) (s : State) : (updVc l v f s).ttls = s.ttls := rfl
@[simp] theorem updVc_rst (l v : Nat) (f : Vc → Vc) (s : State) : (updVc l v f s).rst = s.rst := rfl
@[simp] theorem updVc_capt (l v : Nat) (f : Vc → Vc) (s : State) : (updVc l v f s).capt = s.capt := rfl
@[simp] theorem updVc_snarl (l v : Nat) (f : Vc → Vc) (s : State) : (updVc l v f s).snarl = s.snarl := rfl
@[simp] theorem updVc_pci (l v : Nat) (f : Vc → Vc) (s : State) : (updVc l v f s).pci = s.pci := rfl
@[simp] theorem updVc_mgt (l v : Nat) (f : Vc → Vc) (s : State) : (updVc l v f s).mgt = s.mgt := rfl

/-! enqueue changes lnk alone -/

@[simp] theorem enqueue_pending (l v : Nat) (o : Outbound) (s : State) : (enqueue l v o s).pending = s.pending := rfl
@[simp] theorem enqueue_freeCtr (l v : Nat) (o : Outbound) (s : State) : (enqueue l v o s).freeCtr = s.freeCtr := rfl
@[simp] theorem enqueue_nextUid (l v : Nat) (o : Outbound) (s : State) : (enqueue l v o s).nextUid = s.nextUid := rfl
@[simp] theorem enqueue_clk (l v : Nat) (o : Outbound) (s : State) : (enqueue l v o s).clk = s.clk := rfl
@[simp] theorem enqueue_pwr (l v : Nat) (o : Outbound) (s : State) : (enqueue l v o s).pwr = s.pwr := rfl
@[simp] theorem enqueue_fw (l v : Nat) (o : Outbound) (s : State) : (enqueue l v o s).fw = s.fw := rfl
@[simp] theorem enqueue_log (l v : Nat) (o : Outbound) (s : State) : (enqueue l v o s).log = s.log := rfl
@[simp] theorem enqueue_str (l v : Nat) (o : Outbound) (s : State) : (enqueue l v o s).str = s.str := rfl
@[simp] theorem enqueue_ctxs (l v : Nat) (o : Outbound) (s : State) : (enqueue l v o s).ctxs = s.ctxs := rfl
@[simp] theorem enqueue_queues (l v : Nat) (o : Outbound) (s : State) : (enqueue l v o s).queues = s.queues := rfl
@[simp] theorem enqueue_hitches (l v : Nat) (o : Outbound) (s : State) : (enqueue l v o s).hitches = s.hitches := rfl
@[simp] theorem enqueue_fetched (l v : Nat) (o : Outbound) (s : State) : (enqueue l v o s).fetched = s.fetched := rfl
@[simp] theorem enqueue_jobs (l v : Nat) (o : Outbound) (s : State) : (enqueue l v o s).jobs = s.jobs := rfl
@[simp] theorem enqueue_mem (l v : Nat) (o : Outbound) (s : State) : (enqueue l v o s).mem = s.mem := rfl
@[simp] theorem enqueue_arr (l v : Nat) (o : Outbound) (s : State) : (enqueue l v o s).arr = s.arr := rfl
@[simp] theorem enqueue_trk (l v : Nat) (o : Outbound) (s : State) : (enqueue l v o s).trk = s.trk := rfl
@[simp] theorem enqueue_wins (l v : Nat) (o : Outbound) (s : State) : (enqueue l v o s).wins = s.wins := rfl
@[simp] theorem enqueue_spl (l v : Nat) (o : Outbound) (s : State) : (enqueue l v o s).spl = s.spl := rfl
@[simp] theorem enqueue_tkl (l v : Nat) (o : Outbound) (s : State) : (enqueue l v o s).tkl = s.tkl := rfl
@[simp] theorem enqueue_ttls (l v : Nat) (o : Outbound) (s : State) : (enqueue l v o s).ttls = s.ttls := rfl
@[simp] theorem enqueue_rst (l v : Nat) (o : Outbound) (s : State) : (enqueue l v o s).rst = s.rst := rfl
@[simp] theorem enqueue_capt (l v : Nat) (o : Outbound) (s : State) : (enqueue l v o s).capt = s.capt := rfl
@[simp] theorem enqueue_snarl (l v : Nat) (o : Outbound) (s : State) : (enqueue l v o s).snarl = s.snarl := rfl
@[simp] theorem enqueue_pci (l v : Nat) (o : Outbound) (s : State) : (enqueue l v o s).pci = s.pci := rfl
@[simp] theorem enqueue_mgt (l v : Nat) (o : Outbound) (s : State) : (enqueue l v o s).mgt = s.mgt := rfl

/-! countDrop changes lnk alone -/

@[simp] theorem countDrop_pending (die : Nat) (s : State) : (countDrop die s).pending = s.pending := rfl
@[simp] theorem countDrop_freeCtr (die : Nat) (s : State) : (countDrop die s).freeCtr = s.freeCtr := rfl
@[simp] theorem countDrop_nextUid (die : Nat) (s : State) : (countDrop die s).nextUid = s.nextUid := rfl
@[simp] theorem countDrop_clk (die : Nat) (s : State) : (countDrop die s).clk = s.clk := rfl
@[simp] theorem countDrop_pwr (die : Nat) (s : State) : (countDrop die s).pwr = s.pwr := rfl
@[simp] theorem countDrop_fw (die : Nat) (s : State) : (countDrop die s).fw = s.fw := rfl
@[simp] theorem countDrop_log (die : Nat) (s : State) : (countDrop die s).log = s.log := rfl
@[simp] theorem countDrop_str (die : Nat) (s : State) : (countDrop die s).str = s.str := rfl
@[simp] theorem countDrop_ctxs (die : Nat) (s : State) : (countDrop die s).ctxs = s.ctxs := rfl
@[simp] theorem countDrop_queues (die : Nat) (s : State) : (countDrop die s).queues = s.queues := rfl
@[simp] theorem countDrop_hitches (die : Nat) (s : State) : (countDrop die s).hitches = s.hitches := rfl
@[simp] theorem countDrop_fetched (die : Nat) (s : State) : (countDrop die s).fetched = s.fetched := rfl
@[simp] theorem countDrop_jobs (die : Nat) (s : State) : (countDrop die s).jobs = s.jobs := rfl
@[simp] theorem countDrop_mem (die : Nat) (s : State) : (countDrop die s).mem = s.mem := rfl
@[simp] theorem countDrop_arr (die : Nat) (s : State) : (countDrop die s).arr = s.arr := rfl
@[simp] theorem countDrop_trk (die : Nat) (s : State) : (countDrop die s).trk = s.trk := rfl
@[simp] theorem countDrop_wins (die : Nat) (s : State) : (countDrop die s).wins = s.wins := rfl
@[simp] theorem countDrop_spl (die : Nat) (s : State) : (countDrop die s).spl = s.spl := rfl
@[simp] theorem countDrop_tkl (die : Nat) (s : State) : (countDrop die s).tkl = s.tkl := rfl
@[simp] theorem countDrop_ttls (die : Nat) (s : State) : (countDrop die s).ttls = s.ttls := rfl
@[simp] theorem countDrop_rst (die : Nat) (s : State) : (countDrop die s).rst = s.rst := rfl
@[simp] theorem countDrop_capt (die : Nat) (s : State) : (countDrop die s).capt = s.capt := rfl
@[simp] theorem countDrop_snarl (die : Nat) (s : State) : (countDrop die s).snarl = s.snarl := rfl
@[simp] theorem countDrop_pci (die : Nat) (s : State) : (countDrop die s).pci = s.pci := rfl
@[simp] theorem countDrop_mgt (die : Nat) (s : State) : (countDrop die s).mgt = s.mgt := rfl

/-! setPlan changes spl alone -/

@[simp] theorem setPlan_pending (p : Nat) (x : Plan) (s : State) : (setPlan p x s).pending = s.pending := rfl
@[simp] theorem setPlan_freeCtr (p : Nat) (x : Plan) (s : State) : (setPlan p x s).freeCtr = s.freeCtr := rfl
@[simp] theorem setPlan_nextUid (p : Nat) (x : Plan) (s : State) : (setPlan p x s).nextUid = s.nextUid := rfl
@[simp] theorem setPlan_clk (p : Nat) (x : Plan) (s : State) : (setPlan p x s).clk = s.clk := rfl
@[simp] theorem setPlan_pwr (p : Nat) (x : Plan) (s : State) : (setPlan p x s).pwr = s.pwr := rfl
@[simp] theorem setPlan_fw (p : Nat) (x : Plan) (s : State) : (setPlan p x s).fw = s.fw := rfl
@[simp] theorem setPlan_log (p : Nat) (x : Plan) (s : State) : (setPlan p x s).log = s.log := rfl
@[simp] theorem setPlan_str (p : Nat) (x : Plan) (s : State) : (setPlan p x s).str = s.str := rfl
@[simp] theorem setPlan_ctxs (p : Nat) (x : Plan) (s : State) : (setPlan p x s).ctxs = s.ctxs := rfl
@[simp] theorem setPlan_queues (p : Nat) (x : Plan) (s : State) : (setPlan p x s).queues = s.queues := rfl
@[simp] theorem setPlan_hitches (p : Nat) (x : Plan) (s : State) : (setPlan p x s).hitches = s.hitches := rfl
@[simp] theorem setPlan_fetched (p : Nat) (x : Plan) (s : State) : (setPlan p x s).fetched = s.fetched := rfl
@[simp] theorem setPlan_jobs (p : Nat) (x : Plan) (s : State) : (setPlan p x s).jobs = s.jobs := rfl
@[simp] theorem setPlan_mem (p : Nat) (x : Plan) (s : State) : (setPlan p x s).mem = s.mem := rfl
@[simp] theorem setPlan_arr (p : Nat) (x : Plan) (s : State) : (setPlan p x s).arr = s.arr := rfl
@[simp] theorem setPlan_trk (p : Nat) (x : Plan) (s : State) : (setPlan p x s).trk = s.trk := rfl
@[simp] theorem setPlan_wins (p : Nat) (x : Plan) (s : State) : (setPlan p x s).wins = s.wins := rfl
@[simp] theorem setPlan_lnk (p : Nat) (x : Plan) (s : State) : (setPlan p x s).lnk = s.lnk := rfl
@[simp] theorem setPlan_tkl (p : Nat) (x : Plan) (s : State) : (setPlan p x s).tkl = s.tkl := rfl
@[simp] theorem setPlan_ttls (p : Nat) (x : Plan) (s : State) : (setPlan p x s).ttls = s.ttls := rfl
@[simp] theorem setPlan_rst (p : Nat) (x : Plan) (s : State) : (setPlan p x s).rst = s.rst := rfl
@[simp] theorem setPlan_capt (p : Nat) (x : Plan) (s : State) : (setPlan p x s).capt = s.capt := rfl
@[simp] theorem setPlan_snarl (p : Nat) (x : Plan) (s : State) : (setPlan p x s).snarl = s.snarl := rfl
@[simp] theorem setPlan_pci (p : Nat) (x : Plan) (s : State) : (setPlan p x s).pci = s.pci := rfl
@[simp] theorem setPlan_mgt (p : Nat) (x : Plan) (s : State) : (setPlan p x s).mgt = s.mgt := rfl

/-! setGroup changes tkl alone -/

@[simp] theorem setGroup_pending (g : Nat) (x : TklGroup) (s : State) : (setGroup g x s).pending = s.pending := rfl
@[simp] theorem setGroup_freeCtr (g : Nat) (x : TklGroup) (s : State) : (setGroup g x s).freeCtr = s.freeCtr := rfl
@[simp] theorem setGroup_nextUid (g : Nat) (x : TklGroup) (s : State) : (setGroup g x s).nextUid = s.nextUid := rfl
@[simp] theorem setGroup_clk (g : Nat) (x : TklGroup) (s : State) : (setGroup g x s).clk = s.clk := rfl
@[simp] theorem setGroup_pwr (g : Nat) (x : TklGroup) (s : State) : (setGroup g x s).pwr = s.pwr := rfl
@[simp] theorem setGroup_fw (g : Nat) (x : TklGroup) (s : State) : (setGroup g x s).fw = s.fw := rfl
@[simp] theorem setGroup_log (g : Nat) (x : TklGroup) (s : State) : (setGroup g x s).log = s.log := rfl
@[simp] theorem setGroup_str (g : Nat) (x : TklGroup) (s : State) : (setGroup g x s).str = s.str := rfl
@[simp] theorem setGroup_ctxs (g : Nat) (x : TklGroup) (s : State) : (setGroup g x s).ctxs = s.ctxs := rfl
@[simp] theorem setGroup_queues (g : Nat) (x : TklGroup) (s : State) : (setGroup g x s).queues = s.queues := rfl
@[simp] theorem setGroup_hitches (g : Nat) (x : TklGroup) (s : State) : (setGroup g x s).hitches = s.hitches := rfl
@[simp] theorem setGroup_fetched (g : Nat) (x : TklGroup) (s : State) : (setGroup g x s).fetched = s.fetched := rfl
@[simp] theorem setGroup_jobs (g : Nat) (x : TklGroup) (s : State) : (setGroup g x s).jobs = s.jobs := rfl
@[simp] theorem setGroup_mem (g : Nat) (x : TklGroup) (s : State) : (setGroup g x s).mem = s.mem := rfl
@[simp] theorem setGroup_arr (g : Nat) (x : TklGroup) (s : State) : (setGroup g x s).arr = s.arr := rfl
@[simp] theorem setGroup_trk (g : Nat) (x : TklGroup) (s : State) : (setGroup g x s).trk = s.trk := rfl
@[simp] theorem setGroup_wins (g : Nat) (x : TklGroup) (s : State) : (setGroup g x s).wins = s.wins := rfl
@[simp] theorem setGroup_lnk (g : Nat) (x : TklGroup) (s : State) : (setGroup g x s).lnk = s.lnk := rfl
@[simp] theorem setGroup_spl (g : Nat) (x : TklGroup) (s : State) : (setGroup g x s).spl = s.spl := rfl
@[simp] theorem setGroup_ttls (g : Nat) (x : TklGroup) (s : State) : (setGroup g x s).ttls = s.ttls := rfl
@[simp] theorem setGroup_rst (g : Nat) (x : TklGroup) (s : State) : (setGroup g x s).rst = s.rst := rfl
@[simp] theorem setGroup_capt (g : Nat) (x : TklGroup) (s : State) : (setGroup g x s).capt = s.capt := rfl
@[simp] theorem setGroup_snarl (g : Nat) (x : TklGroup) (s : State) : (setGroup g x s).snarl = s.snarl := rfl
@[simp] theorem setGroup_pci (g : Nat) (x : TklGroup) (s : State) : (setGroup g x s).pci = s.pci := rfl
@[simp] theorem setGroup_mgt (g : Nat) (x : TklGroup) (s : State) : (setGroup g x s).mgt = s.mgt := rfl

/-! setTklRun changes tkl alone -/

@[simp] theorem setTklRun_pending (r : TklRun) (s : State) : (setTklRun r s).pending = s.pending := rfl
@[simp] theorem setTklRun_freeCtr (r : TklRun) (s : State) : (setTklRun r s).freeCtr = s.freeCtr := rfl
@[simp] theorem setTklRun_nextUid (r : TklRun) (s : State) : (setTklRun r s).nextUid = s.nextUid := rfl
@[simp] theorem setTklRun_clk (r : TklRun) (s : State) : (setTklRun r s).clk = s.clk := rfl
@[simp] theorem setTklRun_pwr (r : TklRun) (s : State) : (setTklRun r s).pwr = s.pwr := rfl
@[simp] theorem setTklRun_fw (r : TklRun) (s : State) : (setTklRun r s).fw = s.fw := rfl
@[simp] theorem setTklRun_log (r : TklRun) (s : State) : (setTklRun r s).log = s.log := rfl
@[simp] theorem setTklRun_str (r : TklRun) (s : State) : (setTklRun r s).str = s.str := rfl
@[simp] theorem setTklRun_ctxs (r : TklRun) (s : State) : (setTklRun r s).ctxs = s.ctxs := rfl
@[simp] theorem setTklRun_queues (r : TklRun) (s : State) : (setTklRun r s).queues = s.queues := rfl
@[simp] theorem setTklRun_hitches (r : TklRun) (s : State) : (setTklRun r s).hitches = s.hitches := rfl
@[simp] theorem setTklRun_fetched (r : TklRun) (s : State) : (setTklRun r s).fetched = s.fetched := rfl
@[simp] theorem setTklRun_jobs (r : TklRun) (s : State) : (setTklRun r s).jobs = s.jobs := rfl
@[simp] theorem setTklRun_mem (r : TklRun) (s : State) : (setTklRun r s).mem = s.mem := rfl
@[simp] theorem setTklRun_arr (r : TklRun) (s : State) : (setTklRun r s).arr = s.arr := rfl
@[simp] theorem setTklRun_trk (r : TklRun) (s : State) : (setTklRun r s).trk = s.trk := rfl
@[simp] theorem setTklRun_wins (r : TklRun) (s : State) : (setTklRun r s).wins = s.wins := rfl
@[simp] theorem setTklRun_lnk (r : TklRun) (s : State) : (setTklRun r s).lnk = s.lnk := rfl
@[simp] theorem setTklRun_spl (r : TklRun) (s : State) : (setTklRun r s).spl = s.spl := rfl
@[simp] theorem setTklRun_ttls (r : TklRun) (s : State) : (setTklRun r s).ttls = s.ttls := rfl
@[simp] theorem setTklRun_rst (r : TklRun) (s : State) : (setTklRun r s).rst = s.rst := rfl
@[simp] theorem setTklRun_capt (r : TklRun) (s : State) : (setTklRun r s).capt = s.capt := rfl
@[simp] theorem setTklRun_snarl (r : TklRun) (s : State) : (setTklRun r s).snarl = s.snarl := rfl
@[simp] theorem setTklRun_pci (r : TklRun) (s : State) : (setTklRun r s).pci = s.pci := rfl
@[simp] theorem setTklRun_mgt (r : TklRun) (s : State) : (setTklRun r s).mgt = s.mgt := rfl

/-! setPlacement changes mem alone -/

@[simp] theorem setPlacement_pending (i n : Nat) (b : Bool) (s : State) : (setPlacement i n b s).pending = s.pending := rfl
@[simp] theorem setPlacement_freeCtr (i n : Nat) (b : Bool) (s : State) : (setPlacement i n b s).freeCtr = s.freeCtr := rfl
@[simp] theorem setPlacement_nextUid (i n : Nat) (b : Bool) (s : State) : (setPlacement i n b s).nextUid = s.nextUid := rfl
@[simp] theorem setPlacement_clk (i n : Nat) (b : Bool) (s : State) : (setPlacement i n b s).clk = s.clk := rfl
@[simp] theorem setPlacement_pwr (i n : Nat) (b : Bool) (s : State) : (setPlacement i n b s).pwr = s.pwr := rfl
@[simp] theorem setPlacement_fw (i n : Nat) (b : Bool) (s : State) : (setPlacement i n b s).fw = s.fw := rfl
@[simp] theorem setPlacement_log (i n : Nat) (b : Bool) (s : State) : (setPlacement i n b s).log = s.log := rfl
@[simp] theorem setPlacement_str (i n : Nat) (b : Bool) (s : State) : (setPlacement i n b s).str = s.str := rfl
@[simp] theorem setPlacement_ctxs (i n : Nat) (b : Bool) (s : State) : (setPlacement i n b s).ctxs = s.ctxs := rfl
@[simp] theorem setPlacement_queues (i n : Nat) (b : Bool) (s : State) : (setPlacement i n b s).queues = s.queues := rfl
@[simp] theorem setPlacement_hitches (i n : Nat) (b : Bool) (s : State) : (setPlacement i n b s).hitches = s.hitches := rfl
@[simp] theorem setPlacement_fetched (i n : Nat) (b : Bool) (s : State) : (setPlacement i n b s).fetched = s.fetched := rfl
@[simp] theorem setPlacement_jobs (i n : Nat) (b : Bool) (s : State) : (setPlacement i n b s).jobs = s.jobs := rfl
@[simp] theorem setPlacement_arr (i n : Nat) (b : Bool) (s : State) : (setPlacement i n b s).arr = s.arr := rfl
@[simp] theorem setPlacement_trk (i n : Nat) (b : Bool) (s : State) : (setPlacement i n b s).trk = s.trk := rfl
@[simp] theorem setPlacement_wins (i n : Nat) (b : Bool) (s : State) : (setPlacement i n b s).wins = s.wins := rfl
@[simp] theorem setPlacement_lnk (i n : Nat) (b : Bool) (s : State) : (setPlacement i n b s).lnk = s.lnk := rfl
@[simp] theorem setPlacement_spl (i n : Nat) (b : Bool) (s : State) : (setPlacement i n b s).spl = s.spl := rfl
@[simp] theorem setPlacement_tkl (i n : Nat) (b : Bool) (s : State) : (setPlacement i n b s).tkl = s.tkl := rfl
@[simp] theorem setPlacement_ttls (i n : Nat) (b : Bool) (s : State) : (setPlacement i n b s).ttls = s.ttls := rfl
@[simp] theorem setPlacement_rst (i n : Nat) (b : Bool) (s : State) : (setPlacement i n b s).rst = s.rst := rfl
@[simp] theorem setPlacement_capt (i n : Nat) (b : Bool) (s : State) : (setPlacement i n b s).capt = s.capt := rfl
@[simp] theorem setPlacement_snarl (i n : Nat) (b : Bool) (s : State) : (setPlacement i n b s).snarl = s.snarl := rfl
@[simp] theorem setPlacement_pci (i n : Nat) (b : Bool) (s : State) : (setPlacement i n b s).pci = s.pci := rfl
@[simp] theorem setPlacement_mgt (i n : Nat) (b : Bool) (s : State) : (setPlacement i n b s).mgt = s.mgt := rfl

/-! poisonKeys changes mem alone -/

@[simp] theorem poisonKeys_pending (ks : List (Nat × Nat)) (s : State) : (poisonKeys ks s).pending = s.pending := rfl
@[simp] theorem poisonKeys_freeCtr (ks : List (Nat × Nat)) (s : State) : (poisonKeys ks s).freeCtr = s.freeCtr := rfl
@[simp] theorem poisonKeys_nextUid (ks : List (Nat × Nat)) (s : State) : (poisonKeys ks s).nextUid = s.nextUid := rfl
@[simp] theorem poisonKeys_clk (ks : List (Nat × Nat)) (s : State) : (poisonKeys ks s).clk = s.clk := rfl
@[simp] theorem poisonKeys_pwr (ks : List (Nat × Nat)) (s : State) : (poisonKeys ks s).pwr = s.pwr := rfl
@[simp] theorem poisonKeys_fw (ks : List (Nat × Nat)) (s : State) : (poisonKeys ks s).fw = s.fw := rfl
@[simp] theorem poisonKeys_log (ks : List (Nat × Nat)) (s : State) : (poisonKeys ks s).log = s.log := rfl
@[simp] theorem poisonKeys_str (ks : List (Nat × Nat)) (s : State) : (poisonKeys ks s).str = s.str := rfl
@[simp] theorem poisonKeys_ctxs (ks : List (Nat × Nat)) (s : State) : (poisonKeys ks s).ctxs = s.ctxs := rfl
@[simp] theorem poisonKeys_queues (ks : List (Nat × Nat)) (s : State) : (poisonKeys ks s).queues = s.queues := rfl
@[simp] theorem poisonKeys_hitches (ks : List (Nat × Nat)) (s : State) : (poisonKeys ks s).hitches = s.hitches := rfl
@[simp] theorem poisonKeys_fetched (ks : List (Nat × Nat)) (s : State) : (poisonKeys ks s).fetched = s.fetched := rfl
@[simp] theorem poisonKeys_jobs (ks : List (Nat × Nat)) (s : State) : (poisonKeys ks s).jobs = s.jobs := rfl
@[simp] theorem poisonKeys_arr (ks : List (Nat × Nat)) (s : State) : (poisonKeys ks s).arr = s.arr := rfl
@[simp] theorem poisonKeys_trk (ks : List (Nat × Nat)) (s : State) : (poisonKeys ks s).trk = s.trk := rfl
@[simp] theorem poisonKeys_wins (ks : List (Nat × Nat)) (s : State) : (poisonKeys ks s).wins = s.wins := rfl
@[simp] theorem poisonKeys_lnk (ks : List (Nat × Nat)) (s : State) : (poisonKeys ks s).lnk = s.lnk := rfl
@[simp] theorem poisonKeys_spl (ks : List (Nat × Nat)) (s : State) : (poisonKeys ks s).spl = s.spl := rfl
@[simp] theorem poisonKeys_tkl (ks : List (Nat × Nat)) (s : State) : (poisonKeys ks s).tkl = s.tkl := rfl
@[simp] theorem poisonKeys_ttls (ks : List (Nat × Nat)) (s : State) : (poisonKeys ks s).ttls = s.ttls := rfl
@[simp] theorem poisonKeys_rst (ks : List (Nat × Nat)) (s : State) : (poisonKeys ks s).rst = s.rst := rfl
@[simp] theorem poisonKeys_capt (ks : List (Nat × Nat)) (s : State) : (poisonKeys ks s).capt = s.capt := rfl
@[simp] theorem poisonKeys_snarl (ks : List (Nat × Nat)) (s : State) : (poisonKeys ks s).snarl = s.snarl := rfl
@[simp] theorem poisonKeys_pci (ks : List (Nat × Nat)) (s : State) : (poisonKeys ks s).pci = s.pci := rfl
@[simp] theorem poisonKeys_mgt (ks : List (Nat × Nat)) (s : State) : (poisonKeys ks s).mgt = s.mgt := rfl

/-! countFence changes log alone -/

@[simp] theorem countFence_pending (p : Nat) (s : State) : (countFence p s).pending = s.pending := rfl
@[simp] theorem countFence_freeCtr (p : Nat) (s : State) : (countFence p s).freeCtr = s.freeCtr := rfl
@[simp] theorem countFence_nextUid (p : Nat) (s : State) : (countFence p s).nextUid = s.nextUid := rfl
@[simp] theorem countFence_clk (p : Nat) (s : State) : (countFence p s).clk = s.clk := rfl
@[simp] theorem countFence_pwr (p : Nat) (s : State) : (countFence p s).pwr = s.pwr := rfl
@[simp] theorem countFence_fw (p : Nat) (s : State) : (countFence p s).fw = s.fw := rfl
@[simp] theorem countFence_str (p : Nat) (s : State) : (countFence p s).str = s.str := rfl
@[simp] theorem countFence_ctxs (p : Nat) (s : State) : (countFence p s).ctxs = s.ctxs := rfl
@[simp] theorem countFence_queues (p : Nat) (s : State) : (countFence p s).queues = s.queues := rfl
@[simp] theorem countFence_hitches (p : Nat) (s : State) : (countFence p s).hitches = s.hitches := rfl
@[simp] theorem countFence_fetched (p : Nat) (s : State) : (countFence p s).fetched = s.fetched := rfl
@[simp] theorem countFence_jobs (p : Nat) (s : State) : (countFence p s).jobs = s.jobs := rfl
@[simp] theorem countFence_mem (p : Nat) (s : State) : (countFence p s).mem = s.mem := rfl
@[simp] theorem countFence_arr (p : Nat) (s : State) : (countFence p s).arr = s.arr := rfl
@[simp] theorem countFence_trk (p : Nat) (s : State) : (countFence p s).trk = s.trk := rfl
@[simp] theorem countFence_wins (p : Nat) (s : State) : (countFence p s).wins = s.wins := rfl
@[simp] theorem countFence_lnk (p : Nat) (s : State) : (countFence p s).lnk = s.lnk := rfl
@[simp] theorem countFence_spl (p : Nat) (s : State) : (countFence p s).spl = s.spl := rfl
@[simp] theorem countFence_tkl (p : Nat) (s : State) : (countFence p s).tkl = s.tkl := rfl
@[simp] theorem countFence_ttls (p : Nat) (s : State) : (countFence p s).ttls = s.ttls := rfl
@[simp] theorem countFence_rst (p : Nat) (s : State) : (countFence p s).rst = s.rst := rfl
@[simp] theorem countFence_capt (p : Nat) (s : State) : (countFence p s).capt = s.capt := rfl
@[simp] theorem countFence_snarl (p : Nat) (s : State) : (countFence p s).snarl = s.snarl := rfl
@[simp] theorem countFence_pci (p : Nat) (s : State) : (countFence p s).pci = s.pci := rfl
@[simp] theorem countFence_mgt (p : Nat) (s : State) : (countFence p s).mgt = s.mgt := rfl

/-! countFenceEvent changes str alone -/

@[simp] theorem countFenceEvent_pending (p : Strand) (s : State) : (countFenceEvent p s).pending = s.pending := rfl
@[simp] theorem countFenceEvent_freeCtr (p : Strand) (s : State) : (countFenceEvent p s).freeCtr = s.freeCtr := rfl
@[simp] theorem countFenceEvent_nextUid (p : Strand) (s : State) : (countFenceEvent p s).nextUid = s.nextUid := rfl
@[simp] theorem countFenceEvent_clk (p : Strand) (s : State) : (countFenceEvent p s).clk = s.clk := rfl
@[simp] theorem countFenceEvent_pwr (p : Strand) (s : State) : (countFenceEvent p s).pwr = s.pwr := rfl
@[simp] theorem countFenceEvent_fw (p : Strand) (s : State) : (countFenceEvent p s).fw = s.fw := rfl
@[simp] theorem countFenceEvent_log (p : Strand) (s : State) : (countFenceEvent p s).log = s.log := rfl
@[simp] theorem countFenceEvent_ctxs (p : Strand) (s : State) : (countFenceEvent p s).ctxs = s.ctxs := rfl
@[simp] theorem countFenceEvent_queues (p : Strand) (s : State) : (countFenceEvent p s).queues = s.queues := rfl
@[simp] theorem countFenceEvent_hitches (p : Strand) (s : State) : (countFenceEvent p s).hitches = s.hitches := rfl
@[simp] theorem countFenceEvent_fetched (p : Strand) (s : State) : (countFenceEvent p s).fetched = s.fetched := rfl
@[simp] theorem countFenceEvent_jobs (p : Strand) (s : State) : (countFenceEvent p s).jobs = s.jobs := rfl
@[simp] theorem countFenceEvent_mem (p : Strand) (s : State) : (countFenceEvent p s).mem = s.mem := rfl
@[simp] theorem countFenceEvent_arr (p : Strand) (s : State) : (countFenceEvent p s).arr = s.arr := rfl
@[simp] theorem countFenceEvent_trk (p : Strand) (s : State) : (countFenceEvent p s).trk = s.trk := rfl
@[simp] theorem countFenceEvent_wins (p : Strand) (s : State) : (countFenceEvent p s).wins = s.wins := rfl
@[simp] theorem countFenceEvent_lnk (p : Strand) (s : State) : (countFenceEvent p s).lnk = s.lnk := rfl
@[simp] theorem countFenceEvent_spl (p : Strand) (s : State) : (countFenceEvent p s).spl = s.spl := rfl
@[simp] theorem countFenceEvent_tkl (p : Strand) (s : State) : (countFenceEvent p s).tkl = s.tkl := rfl
@[simp] theorem countFenceEvent_ttls (p : Strand) (s : State) : (countFenceEvent p s).ttls = s.ttls := rfl
@[simp] theorem countFenceEvent_rst (p : Strand) (s : State) : (countFenceEvent p s).rst = s.rst := rfl
@[simp] theorem countFenceEvent_capt (p : Strand) (s : State) : (countFenceEvent p s).capt = s.capt := rfl
@[simp] theorem countFenceEvent_snarl (p : Strand) (s : State) : (countFenceEvent p s).snarl = s.snarl := rfl
@[simp] theorem countFenceEvent_pci (p : Strand) (s : State) : (countFenceEvent p s).pci = s.pci := rfl
@[simp] theorem countFenceEvent_mgt (p : Strand) (s : State) : (countFenceEvent p s).mgt = s.mgt := rfl

/-! updQueue changes queues alone -/

@[simp] theorem updQueue_pending (g : Nat) (f : Queue → Queue) (s : State) : (updQueue g f s).pending = s.pending := by unfold updQueue; split <;> rfl
@[simp] theorem updQueue_freeCtr (g : Nat) (f : Queue → Queue) (s : State) : (updQueue g f s).freeCtr = s.freeCtr := by unfold updQueue; split <;> rfl
@[simp] theorem updQueue_nextUid (g : Nat) (f : Queue → Queue) (s : State) : (updQueue g f s).nextUid = s.nextUid := by unfold updQueue; split <;> rfl
@[simp] theorem updQueue_clk (g : Nat) (f : Queue → Queue) (s : State) : (updQueue g f s).clk = s.clk := by unfold updQueue; split <;> rfl
@[simp] theorem updQueue_pwr (g : Nat) (f : Queue → Queue) (s : State) : (updQueue g f s).pwr = s.pwr := by unfold updQueue; split <;> rfl
@[simp] theorem updQueue_fw (g : Nat) (f : Queue → Queue) (s : State) : (updQueue g f s).fw = s.fw := by unfold updQueue; split <;> rfl
@[simp] theorem updQueue_log (g : Nat) (f : Queue → Queue) (s : State) : (updQueue g f s).log = s.log := by unfold updQueue; split <;> rfl
@[simp] theorem updQueue_str (g : Nat) (f : Queue → Queue) (s : State) : (updQueue g f s).str = s.str := by unfold updQueue; split <;> rfl
@[simp] theorem updQueue_ctxs (g : Nat) (f : Queue → Queue) (s : State) : (updQueue g f s).ctxs = s.ctxs := by unfold updQueue; split <;> rfl
@[simp] theorem updQueue_hitches (g : Nat) (f : Queue → Queue) (s : State) : (updQueue g f s).hitches = s.hitches := by unfold updQueue; split <;> rfl
@[simp] theorem updQueue_fetched (g : Nat) (f : Queue → Queue) (s : State) : (updQueue g f s).fetched = s.fetched := by unfold updQueue; split <;> rfl
@[simp] theorem updQueue_jobs (g : Nat) (f : Queue → Queue) (s : State) : (updQueue g f s).jobs = s.jobs := by unfold updQueue; split <;> rfl
@[simp] theorem updQueue_mem (g : Nat) (f : Queue → Queue) (s : State) : (updQueue g f s).mem = s.mem := by unfold updQueue; split <;> rfl
@[simp] theorem updQueue_arr (g : Nat) (f : Queue → Queue) (s : State) : (updQueue g f s).arr = s.arr := by unfold updQueue; split <;> rfl
@[simp] theorem updQueue_trk (g : Nat) (f : Queue → Queue) (s : State) : (updQueue g f s).trk = s.trk := by unfold updQueue; split <;> rfl
@[simp] theorem updQueue_wins (g : Nat) (f : Queue → Queue) (s : State) : (updQueue g f s).wins = s.wins := by unfold updQueue; split <;> rfl
@[simp] theorem updQueue_lnk (g : Nat) (f : Queue → Queue) (s : State) : (updQueue g f s).lnk = s.lnk := by unfold updQueue; split <;> rfl
@[simp] theorem updQueue_spl (g : Nat) (f : Queue → Queue) (s : State) : (updQueue g f s).spl = s.spl := by unfold updQueue; split <;> rfl
@[simp] theorem updQueue_tkl (g : Nat) (f : Queue → Queue) (s : State) : (updQueue g f s).tkl = s.tkl := by unfold updQueue; split <;> rfl
@[simp] theorem updQueue_ttls (g : Nat) (f : Queue → Queue) (s : State) : (updQueue g f s).ttls = s.ttls := by unfold updQueue; split <;> rfl
@[simp] theorem updQueue_rst (g : Nat) (f : Queue → Queue) (s : State) : (updQueue g f s).rst = s.rst := by unfold updQueue; split <;> rfl
@[simp] theorem updQueue_capt (g : Nat) (f : Queue → Queue) (s : State) : (updQueue g f s).capt = s.capt := by unfold updQueue; split <;> rfl
@[simp] theorem updQueue_snarl (g : Nat) (f : Queue → Queue) (s : State) : (updQueue g f s).snarl = s.snarl := by unfold updQueue; split <;> rfl
@[simp] theorem updQueue_pci (g : Nat) (f : Queue → Queue) (s : State) : (updQueue g f s).pci = s.pci := by unfold updQueue; split <;> rfl
@[simp] theorem updQueue_mgt (g : Nat) (f : Queue → Queue) (s : State) : (updQueue g f s).mgt = s.mgt := by unfold updQueue; split <;> rfl

/-! updWindow changes wins alone -/

@[simp] theorem updWindow_pending (w : Nat) (f : Window → Window) (s : State) : (updWindow w f s).pending = s.pending := by unfold updWindow; split <;> rfl
@[simp] theorem updWindow_freeCtr (w : Nat) (f : Window → Window) (s : State) : (updWindow w f s).freeCtr = s.freeCtr := by unfold updWindow; split <;> rfl
@[simp] theorem updWindow_nextUid (w : Nat) (f : Window → Window) (s : State) : (updWindow w f s).nextUid = s.nextUid := by unfold updWindow; split <;> rfl
@[simp] theorem updWindow_clk (w : Nat) (f : Window → Window) (s : State) : (updWindow w f s).clk = s.clk := by unfold updWindow; split <;> rfl
@[simp] theorem updWindow_pwr (w : Nat) (f : Window → Window) (s : State) : (updWindow w f s).pwr = s.pwr := by unfold updWindow; split <;> rfl
@[simp] theorem updWindow_fw (w : Nat) (f : Window → Window) (s : State) : (updWindow w f s).fw = s.fw := by unfold updWindow; split <;> rfl
@[simp] theorem updWindow_log (w : Nat) (f : Window → Window) (s : State) : (updWindow w f s).log = s.log := by unfold updWindow; split <;> rfl
@[simp] theorem updWindow_str (w : Nat) (f : Window → Window) (s : State) : (updWindow w f s).str = s.str := by unfold updWindow; split <;> rfl
@[simp] theorem updWindow_ctxs (w : Nat) (f : Window → Window) (s : State) : (updWindow w f s).ctxs = s.ctxs := by unfold updWindow; split <;> rfl
@[simp] theorem updWindow_queues (w : Nat) (f : Window → Window) (s : State) : (updWindow w f s).queues = s.queues := by unfold updWindow; split <;> rfl
@[simp] theorem updWindow_hitches (w : Nat) (f : Window → Window) (s : State) : (updWindow w f s).hitches = s.hitches := by unfold updWindow; split <;> rfl
@[simp] theorem updWindow_fetched (w : Nat) (f : Window → Window) (s : State) : (updWindow w f s).fetched = s.fetched := by unfold updWindow; split <;> rfl
@[simp] theorem updWindow_jobs (w : Nat) (f : Window → Window) (s : State) : (updWindow w f s).jobs = s.jobs := by unfold updWindow; split <;> rfl
@[simp] theorem updWindow_mem (w : Nat) (f : Window → Window) (s : State) : (updWindow w f s).mem = s.mem := by unfold updWindow; split <;> rfl
@[simp] theorem updWindow_arr (w : Nat) (f : Window → Window) (s : State) : (updWindow w f s).arr = s.arr := by unfold updWindow; split <;> rfl
@[simp] theorem updWindow_trk (w : Nat) (f : Window → Window) (s : State) : (updWindow w f s).trk = s.trk := by unfold updWindow; split <;> rfl
@[simp] theorem updWindow_lnk (w : Nat) (f : Window → Window) (s : State) : (updWindow w f s).lnk = s.lnk := by unfold updWindow; split <;> rfl
@[simp] theorem updWindow_spl (w : Nat) (f : Window → Window) (s : State) : (updWindow w f s).spl = s.spl := by unfold updWindow; split <;> rfl
@[simp] theorem updWindow_tkl (w : Nat) (f : Window → Window) (s : State) : (updWindow w f s).tkl = s.tkl := by unfold updWindow; split <;> rfl
@[simp] theorem updWindow_ttls (w : Nat) (f : Window → Window) (s : State) : (updWindow w f s).ttls = s.ttls := by unfold updWindow; split <;> rfl
@[simp] theorem updWindow_rst (w : Nat) (f : Window → Window) (s : State) : (updWindow w f s).rst = s.rst := by unfold updWindow; split <;> rfl
@[simp] theorem updWindow_capt (w : Nat) (f : Window → Window) (s : State) : (updWindow w f s).capt = s.capt := by unfold updWindow; split <;> rfl
@[simp] theorem updWindow_snarl (w : Nat) (f : Window → Window) (s : State) : (updWindow w f s).snarl = s.snarl := by unfold updWindow; split <;> rfl
@[simp] theorem updWindow_pci (w : Nat) (f : Window → Window) (s : State) : (updWindow w f s).pci = s.pci := by unfold updWindow; split <;> rfl
@[simp] theorem updWindow_mgt (w : Nat) (f : Window → Window) (s : State) : (updWindow w f s).mgt = s.mgt := by unfold updWindow; split <;> rfl

/-! updPlan changes spl alone -/

@[simp] theorem updPlan_pending (p : Nat) (f : Plan → Plan) (s : State) : (updPlan p f s).pending = s.pending := by unfold updPlan; split <;> rfl
@[simp] theorem updPlan_freeCtr (p : Nat) (f : Plan → Plan) (s : State) : (updPlan p f s).freeCtr = s.freeCtr := by unfold updPlan; split <;> rfl
@[simp] theorem updPlan_nextUid (p : Nat) (f : Plan → Plan) (s : State) : (updPlan p f s).nextUid = s.nextUid := by unfold updPlan; split <;> rfl
@[simp] theorem updPlan_clk (p : Nat) (f : Plan → Plan) (s : State) : (updPlan p f s).clk = s.clk := by unfold updPlan; split <;> rfl
@[simp] theorem updPlan_pwr (p : Nat) (f : Plan → Plan) (s : State) : (updPlan p f s).pwr = s.pwr := by unfold updPlan; split <;> rfl
@[simp] theorem updPlan_fw (p : Nat) (f : Plan → Plan) (s : State) : (updPlan p f s).fw = s.fw := by unfold updPlan; split <;> rfl
@[simp] theorem updPlan_log (p : Nat) (f : Plan → Plan) (s : State) : (updPlan p f s).log = s.log := by unfold updPlan; split <;> rfl
@[simp] theorem updPlan_str (p : Nat) (f : Plan → Plan) (s : State) : (updPlan p f s).str = s.str := by unfold updPlan; split <;> rfl
@[simp] theorem updPlan_ctxs (p : Nat) (f : Plan → Plan) (s : State) : (updPlan p f s).ctxs = s.ctxs := by unfold updPlan; split <;> rfl
@[simp] theorem updPlan_queues (p : Nat) (f : Plan → Plan) (s : State) : (updPlan p f s).queues = s.queues := by unfold updPlan; split <;> rfl
@[simp] theorem updPlan_hitches (p : Nat) (f : Plan → Plan) (s : State) : (updPlan p f s).hitches = s.hitches := by unfold updPlan; split <;> rfl
@[simp] theorem updPlan_fetched (p : Nat) (f : Plan → Plan) (s : State) : (updPlan p f s).fetched = s.fetched := by unfold updPlan; split <;> rfl
@[simp] theorem updPlan_jobs (p : Nat) (f : Plan → Plan) (s : State) : (updPlan p f s).jobs = s.jobs := by unfold updPlan; split <;> rfl
@[simp] theorem updPlan_mem (p : Nat) (f : Plan → Plan) (s : State) : (updPlan p f s).mem = s.mem := by unfold updPlan; split <;> rfl
@[simp] theorem updPlan_arr (p : Nat) (f : Plan → Plan) (s : State) : (updPlan p f s).arr = s.arr := by unfold updPlan; split <;> rfl
@[simp] theorem updPlan_trk (p : Nat) (f : Plan → Plan) (s : State) : (updPlan p f s).trk = s.trk := by unfold updPlan; split <;> rfl
@[simp] theorem updPlan_wins (p : Nat) (f : Plan → Plan) (s : State) : (updPlan p f s).wins = s.wins := by unfold updPlan; split <;> rfl
@[simp] theorem updPlan_lnk (p : Nat) (f : Plan → Plan) (s : State) : (updPlan p f s).lnk = s.lnk := by unfold updPlan; split <;> rfl
@[simp] theorem updPlan_tkl (p : Nat) (f : Plan → Plan) (s : State) : (updPlan p f s).tkl = s.tkl := by unfold updPlan; split <;> rfl
@[simp] theorem updPlan_ttls (p : Nat) (f : Plan → Plan) (s : State) : (updPlan p f s).ttls = s.ttls := by unfold updPlan; split <;> rfl
@[simp] theorem updPlan_rst (p : Nat) (f : Plan → Plan) (s : State) : (updPlan p f s).rst = s.rst := by unfold updPlan; split <;> rfl
@[simp] theorem updPlan_capt (p : Nat) (f : Plan → Plan) (s : State) : (updPlan p f s).capt = s.capt := by unfold updPlan; split <;> rfl
@[simp] theorem updPlan_snarl (p : Nat) (f : Plan → Plan) (s : State) : (updPlan p f s).snarl = s.snarl := by unfold updPlan; split <;> rfl
@[simp] theorem updPlan_pci (p : Nat) (f : Plan → Plan) (s : State) : (updPlan p f s).pci = s.pci := by unfold updPlan; split <;> rfl
@[simp] theorem updPlan_mgt (p : Nat) (f : Plan → Plan) (s : State) : (updPlan p f s).mgt = s.mgt := by unfold updPlan; split <;> rfl

/-! updBkt changes spl alone -/

@[simp] theorem updBkt_pending (p e : Nat) (f : Bkt → Bkt) (s : State) : (updBkt p e f s).pending = s.pending := by simp [updBkt]
@[simp] theorem updBkt_freeCtr (p e : Nat) (f : Bkt → Bkt) (s : State) : (updBkt p e f s).freeCtr = s.freeCtr := by simp [updBkt]
@[simp] theorem updBkt_nextUid (p e : Nat) (f : Bkt → Bkt) (s : State) : (updBkt p e f s).nextUid = s.nextUid := by simp [updBkt]
@[simp] theorem updBkt_clk (p e : Nat) (f : Bkt → Bkt) (s : State) : (updBkt p e f s).clk = s.clk := by simp [updBkt]
@[simp] theorem updBkt_pwr (p e : Nat) (f : Bkt → Bkt) (s : State) : (updBkt p e f s).pwr = s.pwr := by simp [updBkt]
@[simp] theorem updBkt_fw (p e : Nat) (f : Bkt → Bkt) (s : State) : (updBkt p e f s).fw = s.fw := by simp [updBkt]
@[simp] theorem updBkt_log (p e : Nat) (f : Bkt → Bkt) (s : State) : (updBkt p e f s).log = s.log := by simp [updBkt]
@[simp] theorem updBkt_str (p e : Nat) (f : Bkt → Bkt) (s : State) : (updBkt p e f s).str = s.str := by simp [updBkt]
@[simp] theorem updBkt_ctxs (p e : Nat) (f : Bkt → Bkt) (s : State) : (updBkt p e f s).ctxs = s.ctxs := by simp [updBkt]
@[simp] theorem updBkt_queues (p e : Nat) (f : Bkt → Bkt) (s : State) : (updBkt p e f s).queues = s.queues := by simp [updBkt]
@[simp] theorem updBkt_hitches (p e : Nat) (f : Bkt → Bkt) (s : State) : (updBkt p e f s).hitches = s.hitches := by simp [updBkt]
@[simp] theorem updBkt_fetched (p e : Nat) (f : Bkt → Bkt) (s : State) : (updBkt p e f s).fetched = s.fetched := by simp [updBkt]
@[simp] theorem updBkt_jobs (p e : Nat) (f : Bkt → Bkt) (s : State) : (updBkt p e f s).jobs = s.jobs := by simp [updBkt]
@[simp] theorem updBkt_mem (p e : Nat) (f : Bkt → Bkt) (s : State) : (updBkt p e f s).mem = s.mem := by simp [updBkt]
@[simp] theorem updBkt_arr (p e : Nat) (f : Bkt → Bkt) (s : State) : (updBkt p e f s).arr = s.arr := by simp [updBkt]
@[simp] theorem updBkt_trk (p e : Nat) (f : Bkt → Bkt) (s : State) : (updBkt p e f s).trk = s.trk := by simp [updBkt]
@[simp] theorem updBkt_wins (p e : Nat) (f : Bkt → Bkt) (s : State) : (updBkt p e f s).wins = s.wins := by simp [updBkt]
@[simp] theorem updBkt_lnk (p e : Nat) (f : Bkt → Bkt) (s : State) : (updBkt p e f s).lnk = s.lnk := by simp [updBkt]
@[simp] theorem updBkt_tkl (p e : Nat) (f : Bkt → Bkt) (s : State) : (updBkt p e f s).tkl = s.tkl := by simp [updBkt]
@[simp] theorem updBkt_ttls (p e : Nat) (f : Bkt → Bkt) (s : State) : (updBkt p e f s).ttls = s.ttls := by simp [updBkt]
@[simp] theorem updBkt_rst (p e : Nat) (f : Bkt → Bkt) (s : State) : (updBkt p e f s).rst = s.rst := by simp [updBkt]
@[simp] theorem updBkt_capt (p e : Nat) (f : Bkt → Bkt) (s : State) : (updBkt p e f s).capt = s.capt := by simp [updBkt]
@[simp] theorem updBkt_snarl (p e : Nat) (f : Bkt → Bkt) (s : State) : (updBkt p e f s).snarl = s.snarl := by simp [updBkt]
@[simp] theorem updBkt_pci (p e : Nat) (f : Bkt → Bkt) (s : State) : (updBkt p e f s).pci = s.pci := by simp [updBkt]
@[simp] theorem updBkt_mgt (p e : Nat) (f : Bkt → Bkt) (s : State) : (updBkt p e f s).mgt = s.mgt := by simp [updBkt]

/-! hitchPut changes hitches, the jobs that wait on it and the plans that it begins alone -/

@[simp] theorem hitchPut_pending (h : Nat) (v : DWord) (s : State) : (hitchPut h v s).pending = s.pending := rfl
@[simp] theorem hitchPut_freeCtr (h : Nat) (v : DWord) (s : State) : (hitchPut h v s).freeCtr = s.freeCtr := rfl
@[simp] theorem hitchPut_nextUid (h : Nat) (v : DWord) (s : State) : (hitchPut h v s).nextUid = s.nextUid := rfl
@[simp] theorem hitchPut_clk (h : Nat) (v : DWord) (s : State) : (hitchPut h v s).clk = s.clk := rfl
@[simp] theorem hitchPut_pwr (h : Nat) (v : DWord) (s : State) : (hitchPut h v s).pwr = s.pwr := rfl
@[simp] theorem hitchPut_fw (h : Nat) (v : DWord) (s : State) : (hitchPut h v s).fw = s.fw := rfl
@[simp] theorem hitchPut_log (h : Nat) (v : DWord) (s : State) : (hitchPut h v s).log = s.log := rfl
@[simp] theorem hitchPut_str (h : Nat) (v : DWord) (s : State) : (hitchPut h v s).str = s.str := rfl
@[simp] theorem hitchPut_ctxs (h : Nat) (v : DWord) (s : State) : (hitchPut h v s).ctxs = s.ctxs := rfl
@[simp] theorem hitchPut_queues (h : Nat) (v : DWord) (s : State) : (hitchPut h v s).queues = s.queues := rfl
@[simp] theorem hitchPut_fetched (h : Nat) (v : DWord) (s : State) : (hitchPut h v s).fetched = s.fetched := rfl
@[simp] theorem hitchPut_mem (h : Nat) (v : DWord) (s : State) : (hitchPut h v s).mem = s.mem := rfl
@[simp] theorem hitchPut_arr (h : Nat) (v : DWord) (s : State) : (hitchPut h v s).arr = s.arr := rfl
@[simp] theorem hitchPut_trk (h : Nat) (v : DWord) (s : State) : (hitchPut h v s).trk = s.trk := rfl
@[simp] theorem hitchPut_wins (h : Nat) (v : DWord) (s : State) : (hitchPut h v s).wins = s.wins := rfl
@[simp] theorem hitchPut_lnk (h : Nat) (v : DWord) (s : State) : (hitchPut h v s).lnk = s.lnk := rfl
@[simp] theorem hitchPut_tkl (h : Nat) (v : DWord) (s : State) : (hitchPut h v s).tkl = s.tkl := rfl
@[simp] theorem hitchPut_ttls (h : Nat) (v : DWord) (s : State) : (hitchPut h v s).ttls = s.ttls := rfl
@[simp] theorem hitchPut_rst (h : Nat) (v : DWord) (s : State) : (hitchPut h v s).rst = s.rst := rfl
@[simp] theorem hitchPut_capt (h : Nat) (v : DWord) (s : State) : (hitchPut h v s).capt = s.capt := rfl
@[simp] theorem hitchPut_snarl (h : Nat) (v : DWord) (s : State) : (hitchPut h v s).snarl = s.snarl := rfl
@[simp] theorem hitchPut_pci (h : Nat) (v : DWord) (s : State) : (hitchPut h v s).pci = s.pci := rfl
@[simp] theorem hitchPut_mgt (h : Nat) (v : DWord) (s : State) : (hitchPut h v s).mgt = s.mgt := rfl

/-! physWrite changes mem, and in str the injections armed, alone -/

theorem same_pending {s t : State} (h : SameButMemory s t) : t.pending = s.pending := by unfold SameButMemory at h; rw [h]
@[simp] theorem physWrite_pending (pa : Nat) (bs : List PByte) (s : State) : (physWrite pa bs s).pending = s.pending := same_pending (physWrite_same pa bs s)
@[simp] theorem physPut_pending (pa : Nat) (bs : List Byte) (s : State) : (physPut pa bs s).pending = s.pending := physWrite_pending _ _ _
theorem same_freeCtr {s t : State} (h : SameButMemory s t) : t.freeCtr = s.freeCtr := by unfold SameButMemory at h; rw [h]
@[simp] theorem physWrite_freeCtr (pa : Nat) (bs : List PByte) (s : State) : (physWrite pa bs s).freeCtr = s.freeCtr := same_freeCtr (physWrite_same pa bs s)
@[simp] theorem physPut_freeCtr (pa : Nat) (bs : List Byte) (s : State) : (physPut pa bs s).freeCtr = s.freeCtr := physWrite_freeCtr _ _ _
theorem same_nextUid {s t : State} (h : SameButMemory s t) : t.nextUid = s.nextUid := by unfold SameButMemory at h; rw [h]
@[simp] theorem physWrite_nextUid (pa : Nat) (bs : List PByte) (s : State) : (physWrite pa bs s).nextUid = s.nextUid := same_nextUid (physWrite_same pa bs s)
@[simp] theorem physPut_nextUid (pa : Nat) (bs : List Byte) (s : State) : (physPut pa bs s).nextUid = s.nextUid := physWrite_nextUid _ _ _
theorem same_clk {s t : State} (h : SameButMemory s t) : t.clk = s.clk := by unfold SameButMemory at h; rw [h]
@[simp] theorem physWrite_clk (pa : Nat) (bs : List PByte) (s : State) : (physWrite pa bs s).clk = s.clk := same_clk (physWrite_same pa bs s)
@[simp] theorem physPut_clk (pa : Nat) (bs : List Byte) (s : State) : (physPut pa bs s).clk = s.clk := physWrite_clk _ _ _
theorem same_pwr {s t : State} (h : SameButMemory s t) : t.pwr = s.pwr := by unfold SameButMemory at h; rw [h]
@[simp] theorem physWrite_pwr (pa : Nat) (bs : List PByte) (s : State) : (physWrite pa bs s).pwr = s.pwr := same_pwr (physWrite_same pa bs s)
@[simp] theorem physPut_pwr (pa : Nat) (bs : List Byte) (s : State) : (physPut pa bs s).pwr = s.pwr := physWrite_pwr _ _ _
theorem same_fw {s t : State} (h : SameButMemory s t) : t.fw = s.fw := by unfold SameButMemory at h; rw [h]
@[simp] theorem physWrite_fw (pa : Nat) (bs : List PByte) (s : State) : (physWrite pa bs s).fw = s.fw := same_fw (physWrite_same pa bs s)
@[simp] theorem physPut_fw (pa : Nat) (bs : List Byte) (s : State) : (physPut pa bs s).fw = s.fw := physWrite_fw _ _ _
theorem same_log {s t : State} (h : SameButMemory s t) : t.log = s.log := by unfold SameButMemory at h; rw [h]
@[simp] theorem physWrite_log (pa : Nat) (bs : List PByte) (s : State) : (physWrite pa bs s).log = s.log := same_log (physWrite_same pa bs s)
@[simp] theorem physPut_log (pa : Nat) (bs : List Byte) (s : State) : (physPut pa bs s).log = s.log := physWrite_log _ _ _
theorem same_ctxs {s t : State} (h : SameButMemory s t) : t.ctxs = s.ctxs := by unfold SameButMemory at h; rw [h]
@[simp] theorem physWrite_ctxs (pa : Nat) (bs : List PByte) (s : State) : (physWrite pa bs s).ctxs = s.ctxs := same_ctxs (physWrite_same pa bs s)
@[simp] theorem physPut_ctxs (pa : Nat) (bs : List Byte) (s : State) : (physPut pa bs s).ctxs = s.ctxs := physWrite_ctxs _ _ _
theorem same_queues {s t : State} (h : SameButMemory s t) : t.queues = s.queues := by unfold SameButMemory at h; rw [h]
@[simp] theorem physWrite_queues (pa : Nat) (bs : List PByte) (s : State) : (physWrite pa bs s).queues = s.queues := same_queues (physWrite_same pa bs s)
@[simp] theorem physPut_queues (pa : Nat) (bs : List Byte) (s : State) : (physPut pa bs s).queues = s.queues := physWrite_queues _ _ _
theorem same_hitches {s t : State} (h : SameButMemory s t) : t.hitches = s.hitches := by unfold SameButMemory at h; rw [h]
@[simp] theorem physWrite_hitches (pa : Nat) (bs : List PByte) (s : State) : (physWrite pa bs s).hitches = s.hitches := same_hitches (physWrite_same pa bs s)
@[simp] theorem physPut_hitches (pa : Nat) (bs : List Byte) (s : State) : (physPut pa bs s).hitches = s.hitches := physWrite_hitches _ _ _
theorem same_fetched {s t : State} (h : SameButMemory s t) : t.fetched = s.fetched := by unfold SameButMemory at h; rw [h]
@[simp] theorem physWrite_fetched (pa : Nat) (bs : List PByte) (s : State) : (physWrite pa bs s).fetched = s.fetched := same_fetched (physWrite_same pa bs s)
@[simp] theorem physPut_fetched (pa : Nat) (bs : List Byte) (s : State) : (physPut pa bs s).fetched = s.fetched := physWrite_fetched _ _ _
theorem same_jobs {s t : State} (h : SameButMemory s t) : t.jobs = s.jobs := by unfold SameButMemory at h; rw [h]
@[simp] theorem physWrite_jobs (pa : Nat) (bs : List PByte) (s : State) : (physWrite pa bs s).jobs = s.jobs := same_jobs (physWrite_same pa bs s)
@[simp] theorem physPut_jobs (pa : Nat) (bs : List Byte) (s : State) : (physPut pa bs s).jobs = s.jobs := physWrite_jobs _ _ _
theorem same_arr {s t : State} (h : SameButMemory s t) : t.arr = s.arr := by unfold SameButMemory at h; rw [h]
@[simp] theorem physWrite_arr (pa : Nat) (bs : List PByte) (s : State) : (physWrite pa bs s).arr = s.arr := same_arr (physWrite_same pa bs s)
@[simp] theorem physPut_arr (pa : Nat) (bs : List Byte) (s : State) : (physPut pa bs s).arr = s.arr := physWrite_arr _ _ _
theorem same_trk {s t : State} (h : SameButMemory s t) : t.trk = s.trk := by unfold SameButMemory at h; rw [h]
@[simp] theorem physWrite_trk (pa : Nat) (bs : List PByte) (s : State) : (physWrite pa bs s).trk = s.trk := same_trk (physWrite_same pa bs s)
@[simp] theorem physPut_trk (pa : Nat) (bs : List Byte) (s : State) : (physPut pa bs s).trk = s.trk := physWrite_trk _ _ _
theorem same_wins {s t : State} (h : SameButMemory s t) : t.wins = s.wins := by unfold SameButMemory at h; rw [h]
@[simp] theorem physWrite_wins (pa : Nat) (bs : List PByte) (s : State) : (physWrite pa bs s).wins = s.wins := same_wins (physWrite_same pa bs s)
@[simp] theorem physPut_wins (pa : Nat) (bs : List Byte) (s : State) : (physPut pa bs s).wins = s.wins := physWrite_wins _ _ _
theorem same_lnk {s t : State} (h : SameButMemory s t) : t.lnk = s.lnk := by unfold SameButMemory at h; rw [h]
@[simp] theorem physWrite_lnk (pa : Nat) (bs : List PByte) (s : State) : (physWrite pa bs s).lnk = s.lnk := same_lnk (physWrite_same pa bs s)
@[simp] theorem physPut_lnk (pa : Nat) (bs : List Byte) (s : State) : (physPut pa bs s).lnk = s.lnk := physWrite_lnk _ _ _
theorem same_spl {s t : State} (h : SameButMemory s t) : t.spl = s.spl := by unfold SameButMemory at h; rw [h]
@[simp] theorem physWrite_spl (pa : Nat) (bs : List PByte) (s : State) : (physWrite pa bs s).spl = s.spl := same_spl (physWrite_same pa bs s)
@[simp] theorem physPut_spl (pa : Nat) (bs : List Byte) (s : State) : (physPut pa bs s).spl = s.spl := physWrite_spl _ _ _
theorem same_tkl {s t : State} (h : SameButMemory s t) : t.tkl = s.tkl := by unfold SameButMemory at h; rw [h]
@[simp] theorem physWrite_tkl (pa : Nat) (bs : List PByte) (s : State) : (physWrite pa bs s).tkl = s.tkl := same_tkl (physWrite_same pa bs s)
@[simp] theorem physPut_tkl (pa : Nat) (bs : List Byte) (s : State) : (physPut pa bs s).tkl = s.tkl := physWrite_tkl _ _ _
theorem same_ttls {s t : State} (h : SameButMemory s t) : t.ttls = s.ttls := by unfold SameButMemory at h; rw [h]
@[simp] theorem physWrite_ttls (pa : Nat) (bs : List PByte) (s : State) : (physWrite pa bs s).ttls = s.ttls := same_ttls (physWrite_same pa bs s)
@[simp] theorem physPut_ttls (pa : Nat) (bs : List Byte) (s : State) : (physPut pa bs s).ttls = s.ttls := physWrite_ttls _ _ _
theorem same_rst {s t : State} (h : SameButMemory s t) : t.rst = s.rst := by unfold SameButMemory at h; rw [h]
@[simp] theorem physWrite_rst (pa : Nat) (bs : List PByte) (s : State) : (physWrite pa bs s).rst = s.rst := same_rst (physWrite_same pa bs s)
@[simp] theorem physPut_rst (pa : Nat) (bs : List Byte) (s : State) : (physPut pa bs s).rst = s.rst := physWrite_rst _ _ _
theorem same_capt {s t : State} (h : SameButMemory s t) : t.capt = s.capt := by unfold SameButMemory at h; rw [h]
@[simp] theorem physWrite_capt (pa : Nat) (bs : List PByte) (s : State) : (physWrite pa bs s).capt = s.capt := same_capt (physWrite_same pa bs s)
@[simp] theorem physPut_capt (pa : Nat) (bs : List Byte) (s : State) : (physPut pa bs s).capt = s.capt := physWrite_capt _ _ _
theorem same_snarl {s t : State} (h : SameButMemory s t) : t.snarl = s.snarl := by unfold SameButMemory at h; rw [h]
@[simp] theorem physWrite_snarl (pa : Nat) (bs : List PByte) (s : State) : (physWrite pa bs s).snarl = s.snarl := same_snarl (physWrite_same pa bs s)
@[simp] theorem physPut_snarl (pa : Nat) (bs : List Byte) (s : State) : (physPut pa bs s).snarl = s.snarl := physWrite_snarl _ _ _
theorem same_pci {s t : State} (h : SameButMemory s t) : t.pci = s.pci := by unfold SameButMemory at h; rw [h]
@[simp] theorem physWrite_pci (pa : Nat) (bs : List PByte) (s : State) : (physWrite pa bs s).pci = s.pci := same_pci (physWrite_same pa bs s)
@[simp] theorem physPut_pci (pa : Nat) (bs : List Byte) (s : State) : (physPut pa bs s).pci = s.pci := physWrite_pci _ _ _
theorem same_mgt {s t : State} (h : SameButMemory s t) : t.mgt = s.mgt := by unfold SameButMemory at h; rw [h]
@[simp] theorem physWrite_mgt (pa : Nat) (bs : List PByte) (s : State) : (physWrite pa bs s).mgt = s.mgt := same_mgt (physWrite_same pa bs s)
@[simp] theorem physPut_mgt (pa : Nat) (bs : List Byte) (s : State) : (physPut pa bs s).mgt = s.mgt := physWrite_mgt _ _ _

/-! The touched field -/

@[simp] theorem addJob_jobs (j : Job) (s : State) : (addJob j s).jobs = s.jobs ++ [j] := rfl
@[simp] theorem dropJob_jobs (uid : Nat) (s : State) : (dropJob uid s).jobs = s.jobs.filter fun j => j.uid != uid := rfl
@[simp] theorem updJob_jobs (uid : Nat) (f : Job → Job) (s : State) :
    (updJob uid f s).jobs = s.jobs.map fun j => if j.uid = uid then f j else j := rfl
@[simp] theorem setCtx_ctxs (c : Nat) (x : Ctx) (s : State) : (setCtx c x s).ctxs = kvSet c x s.ctxs := rfl
@[simp] theorem freeEntry_entries (tid : Nat) (s : State) : (freeEntry tid s).trk.entries = kvErase tid s.trk.entries := rfl
@[simp] theorem setRun_run (r : ArrRun) (s : State) : (setRun r s).arr.run = some r := rfl
@[simp] theorem addReady_ready (uid : Nat) (s : State) : (addReady uid s).arr.ready = s.arr.ready ++ [uid] := rfl
@[simp] theorem pciOut_out (o : PciOut) (s : State) : (pciOut o s).pci.out = s.pci.out ++ [o] := rfl
@[simp] theorem pciOut_mbox (o : PciOut) (s : State) : (pciOut o s).pci.mbox = s.pci.mbox := rfl
@[simp] theorem mgtOut_out (o : MgtOut) (s : State) : (mgtOut o s).mgt.out = s.mgt.out ++ [o] := rfl
@[simp] theorem mgtOut_image (o : MgtOut) (s : State) : (mgtOut o s).mgt.image = s.mgt.image := rfl
@[simp] theorem setPldm_pldm (p : Pldm) (s : State) : (setPldm p s).mgt.pldm = p := rfl
@[simp] theorem setPhase_phase (n : Nat) (s : State) : (setPhase n s).rst.phase = n := rfl
@[simp] theorem updLink_links (l : Nat) (f : Link → Link) (s : State) : (updLink l f s).lnk.links = setAt l f s.lnk.links := rfl
@[simp] theorem setPlan_plans (p : Nat) (x : Plan) (s : State) : (setPlan p x s).spl.plans = kvSet p x s.spl.plans := rfl
@[simp] theorem setGroup_groups (g : Nat) (x : TklGroup) (s : State) : (setGroup g x s).tkl.groups = kvSet g x s.tkl.groups := rfl
@[simp] theorem setTklRun_run (r : TklRun) (s : State) : (setTklRun r s).tkl.run = some r := rfl

/-! A state with its queue replaced -/

@[simp] theorem withPending_freeCtr (s : State) (q : List Instr) : ({ s with pending := q } : State).freeCtr = s.freeCtr := rfl
@[simp] theorem withPending_nextUid (s : State) (q : List Instr) : ({ s with pending := q } : State).nextUid = s.nextUid := rfl
@[simp] theorem withPending_clk (s : State) (q : List Instr) : ({ s with pending := q } : State).clk = s.clk := rfl
@[simp] theorem withPending_pwr (s : State) (q : List Instr) : ({ s with pending := q } : State).pwr = s.pwr := rfl
@[simp] theorem withPending_fw (s : State) (q : List Instr) : ({ s with pending := q } : State).fw = s.fw := rfl
@[simp] theorem withPending_log (s : State) (q : List Instr) : ({ s with pending := q } : State).log = s.log := rfl
@[simp] theorem withPending_str (s : State) (q : List Instr) : ({ s with pending := q } : State).str = s.str := rfl
@[simp] theorem withPending_ctxs (s : State) (q : List Instr) : ({ s with pending := q } : State).ctxs = s.ctxs := rfl
@[simp] theorem withPending_queues (s : State) (q : List Instr) : ({ s with pending := q } : State).queues = s.queues := rfl
@[simp] theorem withPending_hitches (s : State) (q : List Instr) : ({ s with pending := q } : State).hitches = s.hitches := rfl
@[simp] theorem withPending_fetched (s : State) (q : List Instr) : ({ s with pending := q } : State).fetched = s.fetched := rfl
@[simp] theorem withPending_jobs (s : State) (q : List Instr) : ({ s with pending := q } : State).jobs = s.jobs := rfl
@[simp] theorem withPending_mem (s : State) (q : List Instr) : ({ s with pending := q } : State).mem = s.mem := rfl
@[simp] theorem withPending_arr (s : State) (q : List Instr) : ({ s with pending := q } : State).arr = s.arr := rfl
@[simp] theorem withPending_trk (s : State) (q : List Instr) : ({ s with pending := q } : State).trk = s.trk := rfl
@[simp] theorem withPending_wins (s : State) (q : List Instr) : ({ s with pending := q } : State).wins = s.wins := rfl
@[simp] theorem withPending_lnk (s : State) (q : List Instr) : ({ s with pending := q } : State).lnk = s.lnk := rfl
@[simp] theorem withPending_spl (s : State) (q : List Instr) : ({ s with pending := q } : State).spl = s.spl := rfl
@[simp] theorem withPending_tkl (s : State) (q : List Instr) : ({ s with pending := q } : State).tkl = s.tkl := rfl
@[simp] theorem withPending_ttls (s : State) (q : List Instr) : ({ s with pending := q } : State).ttls = s.ttls := rfl
@[simp] theorem withPending_rst (s : State) (q : List Instr) : ({ s with pending := q } : State).rst = s.rst := rfl
@[simp] theorem withPending_capt (s : State) (q : List Instr) : ({ s with pending := q } : State).capt = s.capt := rfl
@[simp] theorem withPending_snarl (s : State) (q : List Instr) : ({ s with pending := q } : State).snarl = s.snarl := rfl
@[simp] theorem withPending_pci (s : State) (q : List Instr) : ({ s with pending := q } : State).pci = s.pci := rfl
@[simp] theorem withPending_mgt (s : State) (q : List Instr) : ({ s with pending := q } : State).mgt = s.mgt := rfl

end Sys2Proof.Machine
end

