-- ==== Sys2Proof/Laws/Events.lean ====
section
/-! SUPPORT. The shared operations of the events, once each: what an access of the host, a flit and a delivered message can do. -/

namespace Sys2Proof.Machine

/-- An access of the host reaches its register where the BARs answer (R486, R488). -/
theorem hostAccess_up {f : State → State} {s : State} (h : barUp s = true) : hostAccess f s = f s := by rw [hostAccess, if_pos h]

/-- Where they do not, it ends as an unsupported request in D3hot, and nowhere otherwise. -/
theorem hostAccess_down {f : State → State} {s : State} (h : barUp s = false) :
    hostAccess f s = if s.pci.d3hot && !s.pci.inReset then pciOut .unsupported s else s := by simp [hostAccess, h]

/-- A flit on a link that is not open changes nothing. -/
theorem onFlit_closed {l t : Nat} {f : List Byte} {body : State → State} {s : State} (h : linkOpen s l = false) : onFlit l t f body s = s := by
  simp [onFlit, h]

/-- A flit whose CRC fails is dropped and answered NAK, and its event is counted (R330). -/
theorem onFlit_bad_crc {l t : Nat} {f : List Byte} {body : State → State} {s : State} (h : linkOpen s l = true) (c : flitOk f = false) :
    onFlit l t f body s = sendNak l (updLink l (fun k => { k with dropping := true }) (raiseEvent (sL l) 0 .none false false s)) := by
  simp [onFlit, h, c]

/-- A flit that breaks a rule is a protocol error (R331). -/
theorem onFlit_bad_rules {l t : Nat} {f : List Byte} {body : State → State} {s : State} (h : linkOpen s l = true) (c : flitOk f = true)
    (r : flitRules f = false) : onFlit l t f body s = evalLevels (protocolError l s) := by simp [onFlit, h, c, r]

/-- A sound flit gives its ACK and its credits and then has its own effect, and what waited for it goes on. -/
theorem onFlit_sound {l t : Nat} {f : List Byte} {body : State → State} {s : State} (h : linkOpen s l = true) (c : flitOk f = true)
    (r : flitRules f = true) (e : flitField f 87 85 = t) :
    onFlit l t f body s = resume l (body (takeCredit l f (takeAck l (flitField f 99 88) s))) := by simp [onFlit, h, c, r, e]

/-- The next SEQ expected is taken, and an IDLE acknowledges it. -/
theorem inSequence_next {l : Nat} {f : List Byte} {body : State → State} {s : State}
    (h : (flitField f 111 100 + 4096 - (linkOf s l).rxSeq) % 4096 = 0) :
    inSequence l f body s = sendIdles l 1 (body (updLink l (fun k => { k with rxSeq := (k.rxSeq + 1) % 4096, dropping := false }) s)) := by
  simp [inSequence, h]

/-- A SEQ that was taken before is dropped, and counted. -/
theorem inSequence_duplicate {l : Nat} {f : List Byte} {body : State → State} {s : State}
    (d : 2048 ≤ (flitField f 111 100 + 4096 - (linkOf s l).rxSeq) % 4096) :
    inSequence l f body s = updLink l (fun k => { k with duplicates := k.duplicates + 1 }) s := by
  simp only [inSequence]
  rw [if_neg (by omega), if_pos d]

/-- One after a gap that was answered is dropped. -/
theorem inSequence_dropped {l : Nat} {f : List Byte} {body : State → State} {s : State}
    (h : (flitField f 111 100 + 4096 - (linkOf s l).rxSeq) % 4096 ≠ 0)
    (a : (flitField f 111 100 + 4096 - (linkOf s l).rxSeq) % 4096 < 2048) (d : (linkOf s l).dropping = true) : inSequence l f body s = s := by
  simp only [inSequence]
  rw [if_neg h, if_neg (by omega), if_pos d]

/-- The first SEQ past a gap is answered NAK. -/
theorem inSequence_gap {l : Nat} {f : List Byte} {body : State → State} {s : State}
    (h : (flitField f 111 100 + 4096 - (linkOf s l).rxSeq) % 4096 ≠ 0)
    (a : (flitField f 111 100 + 4096 - (linkOf s l).rxSeq) % 4096 < 2048) (d : (linkOf s l).dropping = false) :
    inSequence l f body s = sendNak l (updLink l (fun k => { k with dropping := true }) s) := by
  simp only [inSequence]
  rw [if_neg h, if_neg (by omega), if_neg (by simp [d])]

/-- A delivered message is acted on after it has left its receiver. -/
theorem onArrival_some {l v : Nat} {k : Byte} {m : Msg} {act : Arrival → State → State} {s t : State} {a : Arrival}
    (h : takeArrival l v (msgBytes { m with kind := k }) s = some (a, t)) : onArrival l v k m act s = act a t := by
  simp [onArrival, h]

/-- A message that was not delivered changes nothing. -/
theorem onArrival_none {l v : Nat} {k : Byte} {m : Msg} {act : Arrival → State → State} {s : State}
    (h : takeArrival l v (msgBytes { m with kind := k }) s = none) : onArrival l v k m act s = s := by simp [onArrival, h]

/-- An event strikes, and a self-test that it cuts ends (R153). -/
theorem raiseEvent_eq (p : Strand) (src : Nat) (obj : ErrObj) (inj rail : Bool) (s : State) :
    raiseEvent p src obj inj rail s = endCutTest (strikeEvent p src obj inj rail s) := rfl

/-- While no self-test is stopped, none ends. -/
theorem endCutTest_idle {s : State} (h : ∀ r, s.arr.run = some r → (r.test && r.stop.isSome) = false) : endCutTest s = s := by
  unfold endCutTest
  split
  · rename_i r e
    rw [if_neg (by simp [h r e])]
  · rfl

/-- An event of a source that the strand does not have, or of a fenced strand, is none (R384, R396). -/
theorem strikeEvent_none {p : Strand} {src : Nat} {obj : ErrObj} {inj rail : Bool} {s : State}
    (h : sourceClass p src = none ∨ fenced s p = true) : strikeEvent p src obj inj rail s = s := by
  unfold strikeEvent
  rcases h with h | h
  · rw [h]
  · split
    · rfl
    · rw [if_pos h]

/-- Turns of the round-robin end when no flit may leave (R330). -/
theorem sendUntil_shut {l : Nat} {s : State} (h : mayFlit s l = false) (n : Nat) (stop : State → Bool) : sendUntil n stop l s = s := by
  cases n with
  | zero => rfl
  | succ n => simp [sendUntil, h]

/-- And when no virtual channel has anything to send (R329). -/
theorem sendUntil_idle {l : Nat} {s : State} (h : nextVc s l = none) (n : Nat) (stop : State → Bool) : sendUntil n stop l s = s := by
  cases n with
  | zero => rfl
  | succ n => simp [sendUntil, h]

end Sys2Proof.Machine
end

