-- ==== Sys2Proof/Laws/Packets.lean ====
section
/-! SUPPORT. What taking a packet up does, once: the shared lemmas of every packet command. -/

namespace Sys2Proof.Machine

open Sys2Proof.Safety

/-- With nothing armed, the step's operations meet no injection. -/
@[simp] theorem met_nothing_armed (b s : State) (h : b.str.armed = []) : met b s = s := by simp [met, h]

/-- What taking a packet up can do: nothing on a module that does not run, waiting, a header rejection, or running it. -/
theorem takeUp_cases (op : Nat) (run : Nat → Packet → State → State) (p : Packet) (s : State) :
    takeUp op run p s
      = if !alive s then s
        else if !mayStart s (packetNo op p s) (asOp op p) then
          (if (fetchedUid s (asOp op p)).isNone then
            let t : State := { s with fetched := s.fetched ++ [(packetNo op p s, asOp op p)], nextUid := s.nextUid + 1 }
            if engineOf op = 6 then noteReady t else t
          else s)
        else match headerVerdict (takenUp op p s) (asOp op p) with
          | some r => answerAtOnce (packetNo op p s) (asOp op p) r (takenUp op p s)
          | none => run (packetNo op p s) (asOp op p) (takenUp op p s) := rfl

/-- A packet that is ready runs under its number, in the state without it waiting. -/
theorem takeUp_ready (op : Nat) (run : Nat → Packet → State → State) (p : Packet) (s : State) (h : Ready op p s) :
    takeUp op run p s = run (packetNo op p s) (asOp op p) (takenUp op p s) := by
  obtain ⟨ha, hm, hh⟩ := h
  rw [takeUp_cases, ha, hm, hh]
  rfl

/-- An accepted packet whose effect is whole in one step is answered with the effect's result. -/
theorem runNow_accepted (checks : State → Packet → Checks) (effect : Packet → State → State × Result) (uid : Nat) (p : Packet)
    (s : State) (h : verdict (checks s p) = none) :
    runNow checks effect uid p s
      = addJob { newJob s uid p .finished with res := some (effect p s).2 } (effect p s).1 := by
  simp [runNow, h]

theorem runNowData_accepted (checks : State → Packet → Checks) (effect : Packet → State → State × Result × List Byte) (uid : Nat)
    (p : Packet) (s : State) (h : verdict (checks s p) = none) :
    runNowData checks effect uid p s
      = addJob { newJob s uid p .finished with res := some (effect p s).2.1, data := (effect p s).2.2 } (effect p s).1 := by
  simp [runNowData, h]

/-- The two together, for the commands that run at once. -/
theorem takeUp_runNow (op : Nat) (checks : State → Packet → Checks) (effect : Packet → State → State × Result) (p : Packet)
    (s : State) (h : Accepted op checks p s) :
    takeUp op (runNow checks effect) p s
      = answered op p s (effect (asOp op p) (takenUp op p s)).2 (effect (asOp op p) (takenUp op p s)).1 := by
  rw [takeUp_ready op _ p s h.1, runNow_accepted _ _ _ _ _ h.2]
  rfl

/-- A packet that a rejection holds against is answered with it, and does nothing else (R9, R83). -/
theorem takeUp_runNow_rejected (op : Nat) (checks : State → Packet → Checks) (effect : Packet → State → State × Result) (p : Packet)
    (s : State) (r : Result) (h : Ready op p s) (hv : verdict (checks (takenUp op p s) (asOp op p)) = some r) :
    takeUp op (runNow checks effect) p s = answerAtOnce (packetNo op p s) (asOp op p) r (takenUp op p s) := by
  rw [takeUp_ready op _ p s h]
  simp [runNow, hv]

end Sys2Proof.Machine
end

