-- ==== Sys2Proof/Laws/Runs.lean ====
section
/-! SUPPORT. The run functions of the commands that do not go through runNow, once each: what they do when they are accepted. -/

namespace Sys2Proof.Machine

/-- A command that streams nothing through the tracker runs at once. -/
theorem runTracked_direct (st : Strand) (virt : Packet → Bool) (checks : State → Packet → Checks) (effect : Packet → State → State × Result)
    (uid : Nat) (p : Packet) (s : State) (h : virt p = false) : runTracked st virt checks effect uid p s = runNow checks effect uid p s := by
  simp [runTracked, h]

/-- One that finds no tracker entry left to its context waits (R226, R227). -/
theorem runTracked_waits (st : Strand) (virt : Packet → Bool) (checks : State → Packet → Checks) (effect : Packet → State → State × Result)
    (uid : Nat) (p : Packet) (s : State) (h : virt p = true) (hv : verdict (checks s p) = none) (hn : entriesLeft s (issuerCtx s p.issuer) = 0) :
    runTracked st virt checks effect uid p s = { s with fetched := kvSet uid p s.fetched } := by
  simp [runTracked, h, hv, hn]

/-- A rejected one is answered (R83). -/
theorem runTracked_rejected (st : Strand) (virt : Packet → Bool) (checks : State → Packet → Checks) (effect : Packet → State → State × Result)
    (uid : Nat) (p : Packet) (s : State) (r : Result) (hv : verdict (checks s p) = some r) :
    runTracked st virt checks effect uid p s = answerAtOnce uid p r s := by
  simp [runTracked, runNow, hv]

theorem runXfer_accepted (param : State → Packet → List Nat) (make : Packet → Xfer) (remote : Bool) (uid : Nat) (p : Packet) (s : State)
    (h : verdict (xferChecks param make remote s p) = none) :
    runXfer param make remote uid p s = pumpAll (addJob (newJob s uid p (.xfer (make p))) s) := by rw [runXfer, h]

theorem runXfer_rejected (param : State → Packet → List Nat) (make : Packet → Xfer) (remote : Bool) (uid : Nat) (p : Packet) (s : State)
    (r : Result) (h : verdict (xferChecks param make remote s p) = some r) :
    runXfer param make remote uid p s = answerAtOnce uid p r s := by rw [runXfer, h]

theorem runRemoteSignal_accepted (uid : Nat) (p : Packet) (s : State) (h : verdict (remoteSignalChecks s p) = none) :
    runRemoteSignal uid p s = sendSignal uid (addJob (newJob s uid p (.remoteSignal none)) s) := by rw [runRemoteSignal, h]

theorem runSelftest_accepted (uid : Nat) (p : Packet) (s : State) (h : verdict (selftestChecks s p) = none) :
    runSelftest uid p s = addReady uid (addJob (newJob s uid p (.array [])) s) := by rw [runSelftest, h]

theorem runStep_accepted (uid : Nat) (p : Packet) (s : State) (h : verdict (stepChecks s p) = none) :
    runStep uid p s = nextGroup (newRun uid p) p (tklFirst p) (addJob (newJob s uid p .tklStep) s) := by rw [runStep, h]

theorem runWait_accepted (uid : Nat) (p : Packet) (s : State) (h : verdict (waitChecks s p) = none) :
    runWait uid p s
      = if condHolds (decide (pf p 4 17 16 = 1)) (valueOf p) (hitchOf s (hitchNo p)).value then
          answerAtOnce uid p (hitchRes stOK (hitchOf s (hitchNo p)).value) s
        else addJob (newJob s uid p (.wait (hitchNo p) (decide (pf p 4 17 16 = 1)) (valueOf p) (wd p 5))) s := by
  rw [runWait, h]

theorem runBarrier_accepted (uid : Nat) (p : Packet) (s : State) (h : verdict (barrierChecks s p) = none) :
    runBarrier uid p s
      = releaseOne (newJob s uid p (if pb p 4 0 then .barrier false (openOf s (issuerCtx s p.issuer)) else .barrier true []))
          (addJob (newJob s uid p (if pb p 4 0 then .barrier false (openOf s (issuerCtx s p.issuer)) else .barrier true [])) s) := by
  rw [runBarrier, h]

theorem runDestroy_accepted (uid : Nat) (p : Packet) (s : State) (h : verdict (destroyChecks s p) = none) :
    runDestroy uid p s = beginDestroy (pf p 4 11 0) (addJob (newJob s uid p (.ctxDestroy (pf p 4 11 0) s.clk.uptimeMs)) s) := by
  rw [runDestroy, h]

theorem runContrib_accepted (uid : Nat) (p : Packet) (s : State) (h : verdict (contribChecks s p) = none) :
    runContrib uid p s
      = match entryOf s (splPlanId p) (splTag p) with
        | some e => giveContrib uid (splPlanId p) e (addJob (newJob s uid p (.splContrib (splPlanId p) (splTag p))) s)
        | none => addJob (newJob s uid p (.splContrib (splPlanId p) (splTag p))) s := by
  rw [runContrib, h]
  rfl

/-- Without its resource class a packet that passes every check passes the checks too. -/
theorem verdict_without_resource (k : Checks) (h : verdict k = none) : verdict { k with resource := [] } = none := by
  revert h
  cases k with | mk o p d pe de c r => cases o <;> cases p <;> cases pe <;> cases de <;> cases c <;> cases r <;> simp [verdict]

/-- A packet that passes every check has no cause of rejection. -/
theorem verdict_none (k : Checks) :
    verdict k = none ↔ k.opcode = false ∧ k.param = [] ∧ k.permission = [] ∧ k.degraded = [] ∧ k.conflict = [] ∧ k.resource = [] := by
  cases k with | mk o p d pe de c r => cases o <;> cases p <;> cases pe <;> cases de <;> cases c <;> cases r <;> simp [verdict]

end Sys2Proof.Machine
end

