-- ==== Sys2Proof/Laws/Tables.lean ====
section
/-! SUPPORT. Sparse tables, lists and interval sets: what an entry reads after an update. -/

namespace Sys2Proof.Machine

/-- The keys rise: the form in which every table is held. -/
def kvRising {α : Type} : KV α → Prop
  | [] => True
  | [_] => True
  | a :: b :: t => a.1 < b.1 ∧ kvRising (b :: t)

/-- In a rising table every later key is above the first. -/
theorem kvRising_above {α : Type} {a : Nat × α} {t : KV α} (h : kvRising (a :: t)) : ∀ b ∈ t, a.1 < b.1 := by
  induction t generalizing a with
  | nil => intro b hb; cases hb
  | cons c u ih =>
    intro b hb
    cases hb with
    | head => exact h.1
    | tail _ hb => exact Nat.lt_trans h.1 (ih h.2 b hb)

theorem kvRising_tail {α : Type} {a : Nat × α} {t : KV α} (h : kvRising (a :: t)) : kvRising t := by
  cases t with
  | nil => trivial
  | cons _ _ => exact h.2

theorem kvGet_none {α : Type} {k : Nat} {t : KV α} (h : ∀ b ∈ t, b.1 ≠ k) : kvGet k t = none := by
  induction t with
  | nil => rfl
  | cons c u ih =>
    obtain ⟨j, v⟩ := c
    have hj : j ≠ k := h (j, v) List.mem_cons_self
    simp only [kvGet, if_neg hj]
    exact ih fun b hb => h b (List.mem_cons_of_mem _ hb)

/-- The entry that was set. -/
@[simp] theorem kvGet_kvSet_self {α : Type} (k : Nat) (v : α) (t : KV α) : kvGet k (kvSet k v t) = some v := by
  induction t with
  | nil => simp [kvSet, kvGet]
  | cons c u ih =>
    obtain ⟨j, w⟩ := c
    simp only [kvSet]
    split
    · simp [kvGet]
    · split
      · simp [kvGet]
      · rename_i h
        simp [kvGet, h, ih]

/-- Any other entry is as it was. -/
@[simp] theorem kvGet_kvSet_ne {α : Type} {k i : Nat} (v : α) (t : KV α) (h : i ≠ k) : kvGet i (kvSet k v t) = kvGet i t := by
  induction t with
  | nil => simp [kvSet, kvGet, Ne.symm h]
  | cons c u ih =>
    obtain ⟨j, w⟩ := c
    simp only [kvSet]
    split
    · simp [kvGet, Ne.symm h]
    · split
      · rename_i hj
        subst hj
        simp [kvGet, Ne.symm h]
      · simp [kvGet, ih]

@[simp] theorem kvGetD_kvSet_self {α : Type} (k : Nat) (d v : α) (t : KV α) : kvGetD k d (kvSet k v t) = v := by simp [kvGetD]

@[simp] theorem kvGetD_kvSet_ne {α : Type} {k i : Nat} (d v : α) (t : KV α) (h : i ≠ k) : kvGetD i d (kvSet k v t) = kvGetD i d t := by
  simp [kvGetD, h]

/-- An erased entry is gone. -/
@[simp] theorem kvGet_kvErase_self {α : Type} (k : Nat) (t : KV α) : kvGet k (kvErase k t) = none :=
  kvGet_none fun b hb => by simpa using (List.mem_filter.1 hb).2

/-- Erasing one entry leaves the others. -/
@[simp] theorem kvGet_kvErase_ne {α : Type} {k i : Nat} (t : KV α) (h : i ≠ k) : kvGet i (kvErase k t) = kvGet i t := by
  induction t with
  | nil => rfl
  | cons c u ih =>
    obtain ⟨j, w⟩ := c
    unfold kvErase at ih ⊢
    by_cases hj : j = k
    · subst hj
      simp [List.filter, kvGet, Ne.symm h, ih]
    · have : ((j, w).1 != k) = true := by simpa using hj
      simp only [List.filter, this, kvGet]
      by_cases hi : j = i
      · simp [hi]
      · simp [hi, ih]

/-- Setting an entry keeps the keys rising. -/
theorem kvRising_kvSet {α : Type} (k : Nat) (v : α) {t : KV α} (h : kvRising t) : kvRising (kvSet k v t) := by
  induction t with
  | nil => trivial
  | cons c u ih =>
    obtain ⟨j, w⟩ := c
    simp only [kvSet]
    split
    · exact ⟨by assumption, h⟩
    · split
      · rename_i hj
        subst hj
        cases u with
        | nil => trivial
        | cons d z => exact ⟨h.1, h.2⟩
      · rename_i h1 h2
        have hk : j < k := by omega
        have ih := ih (kvRising_tail h)
        cases u with
        | nil => exact ⟨hk, trivial⟩
        | cons d z =>
          obtain ⟨i, x⟩ := d
          have hji : j < i := h.1
          simp only [kvSet] at ih ⊢
          split
          · rename_i hki
            rw [if_pos hki] at ih
            exact ⟨hk, ih⟩
          · split
            · rename_i hki hik
              rw [if_neg hki, if_pos hik] at ih
              exact ⟨hk, ih⟩
            · rename_i hki hik
              rw [if_neg hki, if_neg hik] at ih
              exact ⟨hji, ih⟩

@[simp] theorem setAt_length {α : Type} (n : Nat) (f : α → α) (l : List α) : (setAt n f l).length = l.length := by
  induction l generalizing n with
  | nil => simp [setAt]
  | cons x t ih => cases n <;> simp [setAt, ih]

@[simp] theorem setAt_self {α : Type} (n : Nat) (f : α → α) (l : List α) : (setAt n f l)[n]? = l[n]?.map f := by
  induction l generalizing n with
  | nil => simp [setAt]
  | cons x t ih => cases n <;> simp [setAt, ih]

@[simp] theorem setAt_ne {α : Type} {n i : Nat} (f : α → α) (l : List α) (h : i ≠ n) : (setAt n f l)[i]? = l[i]? := by
  induction l generalizing n i with
  | nil => simp [setAt]
  | cons x t ih =>
    cases n <;> cases i <;> simp [setAt] at *
    exact ih h

@[simp] theorem leBytes_length (n v : Nat) : (leBytes n v).length = n := by
  induction n generalizing v with
  | zero => rfl
  | succ n ih => simp [leBytes, ih]

/-- What little-endian bytes spell, as far as they reach (R4). -/
theorem leNat_leBytes (n v : Nat) : leNat (leBytes n v) = v % 256 ^ n := by
  induction n generalizing v with
  | zero => simp [leBytes, leNat, Nat.mod_one]
  | succ n ih =>
    have h : (256 : Nat) ^ (n + 1) = 256 * 256 ^ n := by rw [Nat.pow_succ, Nat.mul_comm]
    rw [h, Nat.mod_mul]
    simp only [leBytes, leNat, ih, BitVec.toNat_ofNat]

@[simp] theorem slice_length (o n : Nat) (l : List Byte) : (slice o n l).length = n := by
  simp only [slice, List.length_append, List.length_replicate, List.length_take]
  omega

/-- Membership after an interval is taken out. -/
theorem ivHas_ivClear (x lo hi : Nat) (l : List (Nat × Nat)) :
    ivHas x (ivClear lo hi l) = (ivHas x l && !(decide (lo ≤ x) && decide (x < hi))) := by
  induction l with
  | nil => rfl
  | cons p t ih =>
    obtain ⟨a, b⟩ := p
    unfold ivClear
    split
    · rename_i h
      have : (!(decide (lo ≤ x) && decide (x < hi))) = true := by
        simp only [Bool.not_eq_true', Bool.and_eq_false_iff, decide_eq_false_iff_not]
        omega
      simp [this]
    · rename_i hlt
      unfold ivHas at ih ⊢
      rw [List.any_append, List.any_append, ih, List.any_cons]
      generalize (t.any fun p => decide (p.1 ≤ x) && decide (x < p.2)) = r
      rw [Bool.eq_iff_iff]
      rcases Nat.le_total b lo with hb | hb <;> rcases Nat.le_total a hi with ha | ha <;>
        simp only [Nat.min_eq_left, Nat.min_eq_right, Nat.max_eq_left, Nat.max_eq_right, hb, ha] <;>
        (repeat' split) <;> cases r <;> simp <;> omega

end Sys2Proof.Machine
end

