-- ==== Sys2Proof/WellFormed.lean ====
section
/-! DEFINITION. Which terms of Instr are commands the module can receive: the ranges of their operands (R24, R48, R58, R225, R273, R324, R328). The meanings do not need it: every command has one on any term. -/

namespace Sys2Proof

/-- An issuer that exists: the global IDs of queues are 14 bits (R58). -/
def Issuer.wf : Issuer → Bool
  | .queue g => decide (g < 16384)
  | _ => true

/-- A packet as its slots hold it: the parameter words that its LENGTH says (R48, R49). -/
def Packet.wf (p : Packet) : Bool :=
  p.issuer.wf &&
    (if p.length = 0 ∨ 16 < p.length.toNat then decide (p.params = []) else decide (p.params.length = p.length.toNat * 4 - 4))

/-- A remote message: one poison bit for each 8 bytes of data it carries (R345). -/
def Msg.wf (m : Msg) : Bool :=
  decide (m.data.length ≤ 4096) && (m.poison.isEmpty || decide (m.poison.length = (m.data.length + 7) / 8))

/-- A splice message: at most 256 elements, each with its check field and poison bit (R273). -/
def SplMsg.wf (m : SplMsg) : Bool :=
  decide (m.valid ≤ 256) && decide (m.elems.length ≤ 256) && decide (m.checks.length = m.elems.length)

/-- A path whose indices fit an ID (R25). -/
def strandFits (p : Strand) : Bool := decide (p.length ≤ 7) && p.all fun i => decide (i < 256)

def linkFits (l : Nat) : Bool := decide (l < 32)
/-- A link, or 32 for a message that the module sent to itself. -/
def boxFits (l : Nat) : Bool := decide (l < 33)
def gqidFits (g : Nat) : Bool := decide (g < 16384)
def tidFits (t : Nat) : Bool := decide (t < 262144)
def planFits (p : Nat) : Bool := decide (p < 16)
def sizeFits (n : Nat) : Bool := n == 4 || n == 8
def flitFits (l : Nat) (f : List Byte) : Bool := linkFits l && decide (f.length = 256)

/-- Operands in range. -/
def Instr.wf : Instr → Bool
  | .ctlNop p | .ctlBarrier p | .ctxCreate p | .ctxDestroy p | .ctxMap p | .ctxUnmap p | .qCreate p | .qDestroy p
  | .hchSignal p | .hchAdd p | .hchWait p | .hchRead p | .hchProducer p | .hchRemoteSignal p | .xfrCopy p | .xfrCopy2d p
  | .xfrFill p | .xfrPrefetch p | .xfrRemoteWrite p | .xfrRemoteRead p | .xfrWindowGrant p | .xfrWindowRevoke p
  | .arrMma p | .arrMmaPacked p | .arrDist p | .accSave p | .accResume p | .vecMap p | .vecReduce p | .vecSoftmax p
  | .vecNorm p | .vecConvert p | .vecQuant p | .vecOrtho p | .vecSummary p | .gsxGather p | .gsxScatter p | .gsxRoute p
  | .rnkTopk p | .attSelect p | .attFwd p | .attBwd p | .splPlan p | .splOpen p | .splContrib p | .splLowrank p
  | .splClose p | .splStatus p | .tklCoef p | .tklStepsize p | .tklMask p | .tklNorm p | .tklStep p | .tklLoad p
  | .tklStore p | .tklDigest p | .ttlBind p | .ttlRead p | .ttlReset p | .strQuery p | .strFence p | .strReset p
  | .strInject p | .strRepairCommit p | .strService p | .logMark p | .logRead p | .logLimit p | .secIdent p | .secAttest p
  | .secFwActivate p | .arrSelftest p => p.wf
  | .strUnfence p _ => p.wf
  | .secFwStage p _ => p.wf
  | .doorbellWrite _ size _ _ => sizeFits size
  | .packetFetch g _ => gqidFits g
  | .hchWaitTimeout g => gqidFits g
  | .packetComplete _ | .batchDeadline _ | .arrMapRebuild | .arraySpill | .spillSplitWrite _ | .spillSplitApply => true
  | .arraySchedule failing units => (failing.all fun c => decide (c.1 < 200) && decide (c.2 < 200)) && units.all strandFits
  | .tileDrain upsets => upsets.all fun u => decide (u.row < 200) && decide (u.col < 200)
  | .msgWrite l m | .msgReadReq l m | .msgHitchOp l m | .msgWindowRevoke l m | .msgAck l m | .msgReadData l m | .msgNeg l m
  | .msgMgtReq l _ m | .msgMgtRsp l m => boxFits l && m.wf
  | .msgSend l v => linkFits l && decide (v < 4)
  | .flitData l f | .flitIdle l f | .flitNak l f | .flitCreditAudit l f => flitFits l f
  | .flitTrain l _ _ bad _ => linkFits l && bad.all fun k => decide (k < 5)
  | .linkRetrainEnd l _ => linkFits l
  | .laneSymbolLimit l k => linkFits l && decide (k < 5)
  | .splMsgRun l m _ | .splMsgFinal l m | .splMsgGrant l m | .splMsgAbandon l m => boxFits l && m.wf
  | .splBucketActivate p => planFits p
  | .splLocalRead p _ _ _ | .splLowrankStep p _ | .splSlotRelease p _ _ | .splWaitTimeout p _ | .splFinalTimeout p _ => planFits p
  | .tklBlockUpdate _ lane _ => decide (lane < 68)
  | .tklGroupDone => true
  | .trackerTimeout t | .pcieCompletionTimeout t => tidFits t
  | .hostCompletion t _ _ _ => tidFits t
  | .memoryReply t _ _ => tidFits t
  | .errorEvent p src _ => strandFits p && decide (src < 16)
  | .railFault p src _ => strandFits p && decide (src < 16)
  | .stickyRearm p src => strandFits p && decide (src < 16)
  | .blockRemapDone u _ => strandFits u
  | .unitRedirectDone u => strandFits u
  | .patrolScrub u _ _ => strandFits u
  | .clockLoss .arrayLoop => true
  | .clockLoss (.island n) => decide (n < 236)
  | .rootScan | .watchdogExpiry | .sysRefclkLoss => true
  | .genResetDone _ | .genResetForce _ | .fndCaptureDone | .fndStopDone | .fndDrainDone | .fndResetDone | .fndRestoreDone
  | .ctxDestroyDone _ | .ctxDestroyForce _ | .snarlEval | .captTrigger | .sbTrigLow => true
  | .captureDone es => es.all fun e =>
      strandFits e.strand && e.samples.all fun x => decide (x.1 < 48) && decide (x.2 < 1024)
  | .mboxGo | .mboxDone | .irqEnableWrite _ | .deviceIdWrite _ | .apertureRead => true
  | .routingWrite _ size _ | .apertureWrite _ size _ | .regWrite _ size _ => sizeFits size
  | .bar4Read _ len => decide (1 ≤ len)
  | .bar4Write _ data _ => !data.isEmpty
  | .msixUnmask v => decide (v < 2048)
  | .pciePmStateWrite _ | .rebarSizeWrite _ | .pcieHotReset | .perstNAssert | .perstNRelease | .pcieCorrectable => true
  | .sysResetNAssert | .sysResetNRelease | .inputInWindow | .pwrEnAssert | .pwrEnDeassert | .powerdownDone | .inputDrop _ _
  | .thermalTrip _ _ | .tripLatchClear | .startupSupply | .startupRom _ | .startupMgmt => true
  | .startupHost cores => cores.all fun n => decide (n < 5)
  | .startupPower f => f.rails.all (fun d => decide (d < 148)) && f.islands.all fun n => decide (n < 236)
  | .startupTrain ps => ps.all strandFits
  | .startupTest ps bs => ps.all strandFits && bs.all fun b => strandFits b.1
  | .startupReady _ => true
  | .startupPhaseTimeout p => strandFits p
  | .logProgram | .logTokenRefill _ | .opSecondsTick | .uptimeMsTick | .opSecondsPersist => true
  | .entdaa _ | .setdasa _ _ | .setEndpointId _ | .getEndpointId | .getMctpVersionSupport | .getMessageTypeSupport
  | .getVendorDefinedMessageSupport | .getSensorReading _ | .getPdr _ | .setEventReceiver _ _ | .queryDeviceIdentifiers
  | .getFirmwareParameters | .getStatus | .requestUpdate | .passComponentTable | .updateComponent _ | .requestFirmwareData _ _
  | .activateFirmware | .cancelUpdateComponent | .cancelUpdate | .verifyComplete | .applyComplete _ => true
  | .packetReq _ _ _ ws => decide (ws.length ≤ 64)
  | .captReq _ _ _ _ _ => true
  | .frameAlignmentLoss l => linkFits l
  | .jtagPrivateInstruction op => (match op with
      | .haltCore n => decide (n < 5)
      | .burnRemoval p => strandFits p
      | .burnKeyHash k _ => decide (k < 4)
      | .programMap es => decide (es.length ≤ 16384)
      | .programCert c => decide (1 ≤ c.length) && decide (c.length ≤ 3964)
      | .programRecord n r => decide (n < 524288) && decide (r.length = 32)
      | _ => true)

end Sys2Proof
end

