-- ==== Sys2Proof/Tests/Slice0.lean ====
section
/-! SUPPORT. Tests: for every command a state and operands that meet the premises of its statements, ill-formed terms that WellFormed refuses, and results of the spec's worked examples. -/

set_option Elab.async false

open Sys2Proof Sys2Proof.Machine Sys2Proof.Safety

namespace Sys2Proof.Tests

/-! ## A small module at work -/

/-- A queue of a context. -/
def queueIn (c i : Nat) : Queue :=
  { ctx := c, qindex := i, ringVa := 0x180000, ringSlots := 64, replyVa := 0x190000, replySlots := 64, stateVa := 0x1A0000, msix := none
    hitch := none, batchWait := 0, consumed := 0, done := 0, lastTail := 0, qflags := 0, dbErrors := 0, stopping := false }

/-- A bucket of 64 elements that this module alone contributes to. -/
def bucket (tag : Nat) (st : BktState) : Bkt :=
  { tag := tag, lowrank := false, demoted := false, receive := true, startContrib := true, proceed := false, doneSignal := false, route := 0
    rank := 0, windowLog2 := 0, rows := 8, cols := 8, gVa := 0x20000, outVa := 0x21000, eVa := 0, qVa := 0, workVa := 0, doneHitch := 0
    state := st, activeMs := 0, sentLastMs := none, firstSlot := 0, slots := [], released := [], grantIn := 0, grantOut := 16
    localRead := [], contribGiven := none, upTaken := [], upGone := [], finals := [], statuses := [], partialSeen := false
    checkSeen := false, missing := none, cause := 0, nonfinite := 0, poisoned := 0, contribCount := 0, deficient := 0
    mFormed := false, reformed := false, lrStep := 0 }

/-- A tail's route: this module contributes, and two others send to it. -/
def routeSet : Route :=
  { contrib := true, tail := true, down := 0, parent := 0, ups := [3, 4], children := [3], c := 3, contribSum := 9, waitMs := 100, finalMs := 100 }

def plan (armed : Bool) (b : Bkt) : Plan :=
  { owner := 1, jobKey := 77, lrMin := 65536, statusVa := 0x22000, spWork := 0, routes := [routeSet], buckets := [b]
    armed := if armed then some 5 else none, prevStep := if armed then some 5 else none, hitch := 10, v := 0, begun := armed, stray := 0, stale := 0 }

/-- An enabled group of 128 parameters at the bottom of tier S. -/
def group : TklGroup :=
  { base := 0, nParams := 128, gVa := 0x30000, wVa := 0x31000, scaleVa := 0, hitch := 0, wFmt := 2, wBlocking := 0, wCols := 0, gflags := 1
    rsvd := List.replicate 18 0, b1 := 0, c1 := 0, b2 := 0, c2 := 0, am := 0, ag := 0, ap := 0, eps := 0, t := 0, p1 := 0, p2 := 0, eta := 0
    mu := 0, stepArmed := true }

/-- Context 1 maps its first 2 MiB at device address 0x200000. -/
def mapped (s : State) : State :=
  physPut 0x103000 (leBytes 8 0x200007) (physPut 0x102000 (leBytes 8 0x103001) (physPut 0x100000 (leBytes 8 0x102001) s))

def ctx1 : Ctx := { noCtx with state := .live, gen := 5, poolBase := 0x100000, poolSize := 0x100000, nBanks := 4 }

/-- A module past start-up, with context 1, its queue 5, hitch 10, telltale slot 3, window 0, plans 0 and 1 and Tackle group 0. -/
def running : State :=
  mapped { State.reset with
    nextUid := 20
    clk := { State.reset.clk with uptimeMs := 1000 }
    pwr := { State.reset.pwr with phase := .running, inputOk := true, pwrEn := true, perstLow := false, sysResetLow := false }
    log := { State.reset.log with booted := true }
    str := { State.reset.str with phasesDone := 8, held := 0x1F, levelsLogged := 0x1F }
    fw := { State.reset.fw with verA := true }
    ctxs := [(0, { noCtx with state := .live, gen := 1 }), (1, ctx1)]
    queues := [(4, queueIn 0 0), (5, queueIn 1 0)]
    hitches := [(10, { value := 3, owner := some 1, regs := [] })]
    mem := { State.reset.mem with banks := (List.range 48).map some, tsChannels := List.range 12, ready := true }
    arr := { State.reset.arr with
      rowMap := List.range 192, colMap := List.range 192, rowLanes := [199, 198], colLanes := [199, 198], shapeReg := 0xC8C80000 }
    wins := [(0, { valid := true, epoch := 0, dev := 3, ctx := 1, gen := 9, hitchKind := false, read := true, write := true, base := 0, length := 0x1000
                   owner := 1, ownerGen := 5 })]
    lnk := { State.reset.lnk with
      deviceIdValid := true, deviceId := 2, routing := [(3, 0x8000)]
      links := { Link.initial with state := .up, trained := true } :: List.replicate 31 Link.initial }
    spl := { plans := [(0, plan true (bucket 7 .active)), (1, plan false { (bucket 8 .idle) with lowrank := true, rank := 2 })], order := [0] }
    tkl := { State.reset.tkl with groups := [(0, group)], owner := some 1 }
    ttls := [(3, { owner := some 1, written := 0, zeros := 0, saturated := 0, nonfinite := 0, maxExp := 0 })]
    pci := { State.reset.pci with crs := false, inReset := false } }

def q0 : Issuer := .queue 4
def q1 : Issuer := .queue 5
def pt : Issuer := .port 3

/-- A host that has written nothing and answers every read. -/
def noNews : HostNews := { cells := [], refused := [], silent := [] }

/-- A packet of a LENGTH with the words given, the rest 0. -/
def pkt (i : Issuer) (len : Nat) (ws : List (Nat × Nat)) : Packet :=
  { issuer := i, opcode := 0, flags := if 4 < len then 0x10 else 0, length := BitVec.ofNat 8 len, rsvd := 0, seq := 7, cookie := 9
    params := (List.range (4 * len - 4)).map fun w => BitVec.ofNat 32 (((ws.find? fun x => x.1 == w + 4).map Prod.snd).getD 0) }

/-! ## Packets that are accepted (the premises of the completion statements) -/

def ready (op : Nat) (p : Packet) (s : State) : Bool :=
  alive s && mayStart s (packetNo op p s) (asOp op p) && (headerVerdict (takenUp op p s) (asOp op p)).isNone

theorem ready_of {op : Nat} {p : Packet} {s : State} (h : ready op p s = true) : Ready op p s := by
  simpa [ready, Ready, and_assoc] using h

theorem accepted_of {op : Nat} {k : State → Packet → Checks} {p : Packet} {s : State}
    (h : (ready op p s && (verdict (k (takenUp op p s) (asOp op p))).isNone) = true) : Accepted op k p s := by
  rw [Bool.and_eq_true] at h
  exact ⟨ready_of h.1, by simpa using h.2⟩

def pCtlNop : Packet := (pkt q1 1 [])
theorem witness_ctlNop_accepted : Accepted 0x100 nopChecks pCtlNop running := accepted_of (by decide +kernel)
def pCtlBarrier : Packet := (pkt q1 2 [])
theorem witness_ctlBarrier_accepted : Accepted 0x101 barrierChecks pCtlBarrier running := accepted_of (by decide +kernel)
def pCtxCreate : Packet := (pkt q0 3 [(4, 2), (6, 0x800000), (8, 0x200000), (10, 0x20008)])
theorem witness_ctxCreate_accepted : Accepted 0x110 createChecks pCtxCreate running := accepted_of (by decide +kernel)
def pCtxDestroy : Packet := (pkt q0 2 [(4, 1)])
theorem witness_ctxDestroy_accepted : Accepted 0x111 destroyChecks pCtxDestroy running := accepted_of (by decide +kernel)
def pCtxMap : Packet := (pkt q0 3 [(4, 0x1001), (6, 0x14), (7, 2)])
theorem witness_ctxMap_accepted : Accepted 0x112 mapChecks pCtxMap running := accepted_of (by decide +kernel)
def pCtxUnmap : Packet := (pkt q0 3 [(4, 0x1001), (6, 0xa), (7, 1)])
theorem witness_ctxUnmap_accepted : Accepted 0x113 unmapChecks pCtxUnmap running := accepted_of (by decide +kernel)
def pQCreate : Packet := (pkt q0 5 [(4, 0x90001), (6, 0x30000), (8, 0x32000), (10, 0x34000), (12, 0x40), (13, 0x40)])
theorem witness_qCreate_accepted : Accepted 0x120 qCreateChecks pQCreate running := accepted_of (by decide +kernel)
def pQDestroy : Packet := (pkt q0 2 [(4, 5)])
theorem witness_qDestroy_accepted : Accepted 0x121 qDestroyChecks pQDestroy running := accepted_of (by decide +kernel)
def pHchSignal : Packet := (pkt q1 2 [(4, 0xa), (6, 7)])
theorem witness_hchSignal_accepted : Accepted 0x201 signalChecks pHchSignal running := accepted_of (by decide +kernel)
def pHchAdd : Packet := (pkt q1 2 [(4, 0xa), (6, 7)])
theorem witness_hchAdd_accepted : Accepted 0x202 signalChecks pHchAdd running := accepted_of (by decide +kernel)
def pHchWait : Packet := (pkt q1 2 [(4, 0xa), (5, 0x3e8), (6, 9)])
theorem witness_hchWait_accepted : Accepted 0x203 waitChecks pHchWait running := accepted_of (by decide +kernel)
def pHchRead : Packet := (pkt q1 2 [(4, 0xa)])
theorem witness_hchRead_accepted : Accepted 0x204 readChecks pHchRead running := accepted_of (by decide +kernel)
def pHchProducer : Packet := (pkt q1 2 [(4, 0xa), (5, 5)])
theorem witness_hchProducer_accepted : Accepted 0x205 producerChecks pHchProducer running := accepted_of (by decide +kernel)
def pHchRemoteSignal : Packet := (pkt q1 3 [(4, 3), (5, 1), (8, 1)])
theorem witness_hchRemoteSignal_accepted : Accepted 0x206 remoteSignalChecks pHchRemoteSignal running := accepted_of (by decide +kernel)
def pXfrCopy : Packet := (pkt q1 3 [(4, 0x1000), (6, 0x8000), (8, 0x100), (10, 3)])
theorem witness_xfrCopy_accepted : Accepted 0x301 (xferChecks copyParam (copyXfer false) false) pXfrCopy running := accepted_of (by decide +kernel)
def pXfrCopy2d : Packet := (pkt q1 4 [(4, 0x1000), (6, 0x8000), (8, 2), (9, 0x40), (10, 0x80), (12, 0x40), (14, 3)])
theorem witness_xfrCopy2d_accepted : Accepted 0x302 (xferChecks copy2dParam copy2dXfer false) pXfrCopy2d running := accepted_of (by decide +kernel)
def pXfrFill : Packet := (pkt q1 3 [(4, 0x1000), (6, 0x40), (8, 0xab)])
theorem witness_xfrFill_accepted : Accepted 0x303 (xferChecks fillParam fillXfer false) pXfrFill running := accepted_of (by decide +kernel)
def pXfrPrefetch : Packet := (pkt q1 3 [(4, 0x1000), (6, 0x8000), (8, 0x100), (10, 3)])
theorem witness_xfrPrefetch_accepted : Accepted 0x304 (xferChecks copyParam (copyXfer true) false) pXfrPrefetch running := accepted_of (by decide +kernel)
def pXfrRemoteWrite : Packet := (pkt q1 4 [(4, 3), (5, 1), (8, 0x1000), (10, 0x40), (12, 1)])
theorem witness_xfrRemoteWrite_accepted : Accepted 0x310 (xferChecks remoteParam remoteWriteXfer true) pXfrRemoteWrite running := accepted_of (by decide +kernel)
def pXfrRemoteRead : Packet := (pkt q1 4 [(4, 3), (5, 1), (8, 0x1000), (10, 0x40), (12, 1)])
theorem witness_xfrRemoteRead_accepted : Accepted 0x311 (xferChecks remoteParam remoteReadXfer true) pXfrRemoteRead running := accepted_of (by decide +kernel)
def pXfrWindowGrant : Packet := (pkt q1 3 [(4, 3), (5, 1), (6, 6), (8, 0x10000), (10, 0x1000)])
theorem witness_xfrWindowGrant_accepted : Accepted 0x320 windowChecks pXfrWindowGrant running := accepted_of (by decide +kernel)
def pXfrWindowRevoke : Packet := (pkt q1 2 [])
theorem witness_xfrWindowRevoke_accepted : Accepted 0x321 revokeChecks pXfrWindowRevoke running := accepted_of (by decide +kernel)
def pArrMma : Packet := (pkt q1 9 [(4, 1), (5, 1), (6, 1), (8, 0x100000), (16, 0x20002), (18, 0x10000), (22, 0x20002), (24, 0x11000), (28, 0x20000), (30, 0x12000)])
theorem witness_arrMma_accepted : Accepted 0x401 (plainChecks .mma (packetNo 0x401 pArrMma running)) pArrMma running := accepted_of (by decide +kernel)
def pArrMmaPacked : Packet := (pkt q1 3 [(4, 1), (8, 0x8000)])
theorem witness_arrMmaPacked_ready : Ready 0x402 pArrMmaPacked running := ready_of (by decide +kernel)
def pArrDist : Packet := (pkt q1 10 [(4, 1), (5, 1), (6, 1), (8, 0x100000), (16, 0x20002), (18, 0x10000), (22, 0x20002), (24, 0x11000), (28, 0x20000), (30, 0x12000)])
theorem witness_arrDist_accepted : Accepted 0x403 (plainChecks .dist (packetNo 0x403 pArrDist running)) pArrDist running := accepted_of (by decide +kernel)
def pArrSelftest : Packet := (pkt q1 1 [])
theorem witness_arrSelftest_accepted : Accepted 0x404 selftestChecks pArrSelftest running := accepted_of (by decide +kernel)
def pAccSave : Packet := (pkt q1 9 [(4, 1), (5, 1), (6, 1), (8, 0x100000), (16, 0x20002), (18, 0x10000), (22, 0x20002), (24, 0x11000), (28, 0x2000b), (30, 0x12000)])
theorem witness_accSave_accepted : Accepted 0x410 (plainChecks .save (packetNo 0x410 pAccSave running)) pAccSave running := accepted_of (by decide +kernel)
def pAccResume : Packet := (pkt q1 9 [(4, 1), (5, 1), (6, 1), (7, 0x400), (8, 0x100000), (14, 0x14000), (16, 0x20002), (18, 0x10000), (22, 0x20002), (24, 0x11000), (28, 0x20000), (30, 0x12000)])
theorem witness_accResume_accepted : Accepted 0x411 (plainChecks .resume (packetNo 0x411 pAccResume running)) pAccResume running := accepted_of (by decide +kernel)
def pVecMap : Packet := (pkt q1 9 [(4, 1), (5, 2), (6, 1), (10, 0x20000), (12, 0x1000), (16, 0x20000), (18, 0x2000), (28, 0x20000), (30, 0x3000)])
theorem witness_vecMap_accepted : Accepted 0x501 vecMapChecks pVecMap running := accepted_of (by decide +kernel)
def pVecReduce : Packet := (pkt q1 9 [(4, 1), (5, 2), (10, 0x20000), (12, 0x1000), (28, 0x20000), (30, 0x3000)])
theorem witness_vecReduce_accepted : Accepted 0x502 reduceChecks pVecReduce running := accepted_of (by decide +kernel)
def pVecSoftmax : Packet := (pkt q1 9 [(4, 1), (5, 2), (10, 0x20000), (12, 0x1000), (28, 0x20000), (30, 0x3000)])
theorem witness_vecSoftmax_accepted : Accepted 0x503 softmaxChecks pVecSoftmax running := accepted_of (by decide +kernel)
def pVecNorm : Packet := (pkt q1 9 [(4, 1), (5, 2), (10, 0x20000), (12, 0x1000), (16, 0x20000), (18, 0x2000), (28, 0x20000), (30, 0x3000)])
theorem witness_vecNorm_accepted : Accepted 0x504 normChecks pVecNorm running := accepted_of (by decide +kernel)
def pVecConvert : Packet := (pkt q1 9 [(4, 1), (5, 2), (10, 0x20000), (12, 0x1000), (28, 0x20002), (30, 0x3000)])
theorem witness_vecConvert_accepted : Accepted 0x505 (convertChecks false) pVecConvert running := accepted_of (by decide +kernel)
def pVecQuant : Packet := (pkt q1 9 [(4, 1), (5, 0x20), (10, 0x20000), (12, 0x1000), (28, 0x21203), (30, 0x3000), (32, 0x4000)])
theorem witness_vecQuant_accepted : Accepted 0x506 (convertChecks true) pVecQuant running := accepted_of (by decide +kernel)
def pVecOrtho : Packet := (pkt q1 9 [(4, 2), (5, 1), (10, 0x20000), (12, 0x1000), (28, 0x20000), (30, 0x3000)])
theorem witness_vecOrtho_accepted : Accepted 0x507 orthoChecks pVecOrtho running := accepted_of (by decide +kernel)
def pVecSummary : Packet := (pkt q1 9 [(4, 0x80), (5, 2), (7, 1), (10, 0x20002), (12, 0x1000), (28, 0x20002), (30, 0x3000)])
theorem witness_vecSummary_accepted : Accepted 0x508 summaryChecks pVecSummary running := accepted_of (by decide +kernel)
def pGsxGather : Packet := (pkt q1 7 [(4, 1), (5, 2), (8, 0x20000), (10, 0x1000), (14, 0x20000), (16, 0x3000), (20, 0x5000), (24, 1)])
theorem witness_gsxGather_accepted : Accepted 0x601 gatherChecks pGsxGather running := accepted_of (by decide +kernel)
def pGsxScatter : Packet := (pkt q1 7 [(4, 1), (5, 2), (8, 0x20000), (10, 0x1000), (14, 0x20000), (16, 0x3000), (20, 0x5000), (24, 1)])
theorem witness_gsxScatter_accepted : Accepted 0x602 scatterChecks pGsxScatter running := accepted_of (by decide +kernel)
def pGsxRoute : Packet := (pkt q1 4 [(4, 1), (5, 1), (6, 1), (7, 1), (8, 0x1000), (10, 0x2000), (12, 0x3000), (14, 0x4000)])
theorem witness_gsxRoute_accepted : Accepted 0x603 routeChecks pGsxRoute running := accepted_of (by decide +kernel)
def pRnkTopk : Packet := (pkt q1 5 [(4, 1), (5, 4), (6, 2), (8, 0x20000), (10, 0x1000), (14, 0x2000), (16, 0x3000)])
theorem witness_rnkTopk_accepted : Accepted 0x610 topkChecks pRnkTopk running := accepted_of (by decide +kernel)
def pAttSelect : Packet := (pkt q1 7 [(4, 0x80440), (5, 0x20101), (6, 1), (8, 1), (9, 0x3f800000), (10, 0x20000), (12, 0x20002), (14, 0x1000), (18, 0x20002), (20, 0x2000), (24, 0x3000)])
theorem witness_attSelect_accepted : Accepted 0x620 selectChecks pAttSelect running := accepted_of (by decide +kernel)
def pAttFwd : Packet := (pkt q1 10 [(4, 0x80440), (5, 0x20101), (6, 1), (8, 1), (9, 0x3f800000), (10, 0x20000), (12, 0x20002), (14, 0x1000), (18, 0x20002), (20, 0x2000), (24, 0x20002), (26, 0x3000), (30, 0x4000), (32, 0x20002), (34, 0x5000), (38, 0x6000)])
theorem witness_attFwd_accepted : Accepted 0x621 fwdChecks pAttFwd running := accepted_of (by decide +kernel)
def pAttBwd : Packet := (pkt q1 14 [(4, 0x80440), (5, 0x20101), (6, 1), (8, 1), (9, 0x3f800000), (10, 0x20000), (12, 0x20002), (14, 0x1000), (18, 0x20002), (20, 0x2000), (24, 0x20002), (26, 0x3000), (30, 0x20002), (32, 0x4000), (36, 0x20002), (38, 0x5000), (42, 0x6000), (44, 0x7000), (46, 0x20002), (48, 0x8000), (52, 0x9000), (54, 0xa000)])
theorem witness_attBwd_accepted : Accepted 0x622 bwdChecks pAttBwd running := accepted_of (by decide +kernel)
def pSplPlan : Packet := (pkt q1 2 [(4, 0x6000)])
theorem witness_splPlan_ready : Ready 0x701 pSplPlan running := ready_of (by decide +kernel)
def pSplOpen : Packet := (pkt q1 2 [(4, 0x60001), (5, 0xa)])
theorem witness_splOpen_accepted : Accepted 0x702 openChecks pSplOpen running := accepted_of (by decide +kernel)
def pSplContrib : Packet := (pkt q1 2 [(4, 0x70000)])
theorem witness_splContrib_accepted : Accepted 0x703 contribChecks pSplContrib running := accepted_of (by decide +kernel)
def pSplLowrank : Packet := (pkt q1 2 [(4, 0x80101)])
theorem witness_splLowrank_accepted : Accepted 0x704 lowrankChecks pSplLowrank running := accepted_of (by decide +kernel)
def pSplClose : Packet := (pkt q1 2 [])
theorem witness_splClose_accepted : Accepted 0x705 closeChecks pSplClose running := accepted_of (by decide +kernel)
def pSplStatus : Packet := (pkt q1 2 [])
theorem witness_splStatus_accepted : Accepted 0x706 statusChecks pSplStatus running := accepted_of (by decide +kernel)
def pTklCoef : Packet := (pkt q1 2 [(4, 0x2000400), (6, 0x1000)])
theorem witness_tklCoef_accepted : Accepted 0x801 coefEarly pTklCoef running := accepted_of (by decide +kernel)
def pTklStepsize : Packet := (pkt q1 3 [(4, 0x1000400), (5, 0x3f800000), (6, 0x3f800000)])
theorem witness_tklStepsize_accepted : Accepted 0x802 (fun s p => stepsizeChecks s p []) pTklStepsize running := accepted_of (by decide +kernel)
def pTklMask : Packet := (pkt q1 3 [(8, 4)])
theorem witness_tklMask_accepted : Accepted 0x803 maskChecks pTklMask running := accepted_of (by decide +kernel)
def pTklNorm : Packet := (pkt q1 2 [])
theorem witness_tklNorm_accepted : Accepted 0x804 tklNormChecks pTklNorm running := accepted_of (by decide +kernel)
def pTklStep : Packet := (pkt q1 3 [])
theorem witness_tklStep_accepted : Accepted 0x805 stepChecks pTklStep running := accepted_of (by decide +kernel)
def pTklLoad : Packet := (pkt q1 4 [(4, 0x1000000), (6, 0x1000)])
theorem witness_tklLoad_accepted : Accepted 0x806 (moveChecks true) pTklLoad running := accepted_of (by decide +kernel)
def pTklStore : Packet := (pkt q1 4 [(4, 0x1000000), (6, 0x1000)])
theorem witness_tklStore_accepted : Accepted 0x807 (moveChecks false) pTklStore running := accepted_of (by decide +kernel)
def pTklDigest : Packet := (pkt q1 2 [])
theorem witness_tklDigest_accepted : Accepted 0x808 digestChecks pTklDigest running := accepted_of (by decide +kernel)
def pTtlBind : Packet := (pkt q1 2 [(4, 0x1000)])
theorem witness_ttlBind_accepted : Accepted 0x901 bindChecks pTtlBind running := accepted_of (by decide +kernel)
def pTtlRead : Packet := (pkt q1 2 [(4, 3), (6, 0x1000)])
theorem witness_ttlRead_accepted : Accepted 0x902 ttlReadChecks pTtlRead running := accepted_of (by decide +kernel)
def pTtlReset : Packet := (pkt q1 2 [(4, 3)])
theorem witness_ttlReset_accepted : Accepted 0x903 ttlResetChecks pTtlReset running := accepted_of (by decide +kernel)
def pStrQuery : Packet := (pkt pt 2 [])
theorem witness_strQuery_accepted : Accepted 0xa01 queryChecks pStrQuery running := accepted_of (by decide +kernel)
def pStrFence : Packet := (pkt pt 2 [(5, 0x30002030)])
theorem witness_strFence_accepted : Accepted 0xa02 fenceChecks pStrFence running := accepted_of (by decide +kernel)
def pStrUnfence : Packet := (pkt pt 2 [(5, 0x30002030)])
theorem witness_strUnfence_accepted : Accepted 0xa03 unfenceChecks pStrUnfence running := accepted_of (by decide +kernel)
def pStrReset : Packet := (pkt pt 2 [(5, 0x30002030)])
theorem witness_strReset_accepted : Accepted 0xa04 resetChecks pStrReset running := accepted_of (by decide +kernel)
def pStrInject : Packet := (pkt pt 2 [(5, 0x30003050)])
theorem witness_strInject_accepted : Accepted 0xa05 injectChecks pStrInject running := accepted_of (by decide +kernel)
def pStrRepairCommit : Packet := (pkt pt 2 [])
theorem witness_strRepairCommit_accepted : Accepted 0xa06 commitChecks pStrRepairCommit running := accepted_of (by decide +kernel)
def pStrService : Packet := (pkt pt 1 [])
theorem witness_strService_accepted : Accepted 0xa07 (fun s p => { noChecks with permission := ctx0Only s p }) pStrService running := accepted_of (by decide +kernel)
def pLogMark : Packet := (pkt pt 2 [(4, 5)])
theorem witness_logMark_accepted : Accepted 0xb01 markChecks pLogMark running := accepted_of (by decide +kernel)
def pLogRead : Packet := (pkt pt 2 [(5, 1)])
theorem witness_logRead_accepted : Accepted 0xb02 readLogChecks pLogRead running := accepted_of (by decide +kernel)
def pLogLimit : Packet := (pkt pt 2 [(4, 0x50100), (5, 0x3c)])
theorem witness_logLimit_accepted : Accepted 0xb03 limitChecks pLogLimit running := accepted_of (by decide +kernel)
def pSecIdent : Packet := (pkt pt 2 [])
theorem witness_secIdent_accepted : Accepted 0xc01 identChecks pSecIdent running := accepted_of (by decide +kernel)
def pSecAttest : Packet := (pkt pt 4 [])
theorem witness_secAttest_accepted : Accepted 0xc02 attestChecks pSecAttest running := accepted_of (by decide +kernel)
def pSecFwActivate : Packet := (pkt pt 2 [])
theorem witness_secFwActivate_accepted : Accepted 0xc04 activateChecks pSecFwActivate running := accepted_of (by decide +kernel)

/-- A vector command over virtual memory, and one that stays in the grant; with and without a tracker entry left (R227). -/
theorem witness_tracked : vecVirtual (asOp 0x501 pVecMap) = true ∧ vecVirtual (asOp 0x501 (pkt q1 9 [(4, 1), (5, 2)])) = false
    ∧ entriesLeft (takenUp 0x501 pVecMap running) 1 ≠ 0 ∧ running.str.armed = []
    ∧ entriesLeft { running with ctxs := [(1, { ctx1 with trkQuota := 0 })] } 1 = 0 := by decide +kernel

/-! ## Rejected, waiting and malformed packets -/

/-- The packet with all parameter words ones. -/
def ones (p : Packet) : Packet := { p with params := p.params.map fun _ => 0xFFFFFFFF }

theorem rejected_of {op : Nat} {k : State → Packet → Checks} {p : Packet} {s : State}
    (h : (ready op p s && (verdict (k (takenUp op p s) (asOp op p))).isSome) = true) :
    ∃ r, Ready op p s ∧ verdict (k (takenUp op p s) (asOp op p)) = some r := by
  rw [Bool.and_eq_true] at h
  exact ⟨_, ready_of h.1, Option.some_get h.2 |>.symm⟩

theorem witness_ctxCreate_rejected : ∃ r, Ready 0x110 (ones pCtxCreate) running ∧
    verdict (createChecks (takenUp 0x110 (ones pCtxCreate) running) (asOp 0x110 (ones pCtxCreate))) = some r := rejected_of (by decide +kernel)
theorem witness_ctxUnmap_rejected : ∃ r, Ready 0x113 (ones pCtxUnmap) running ∧
    verdict (unmapChecks (takenUp 0x113 (ones pCtxUnmap) running) (asOp 0x113 (ones pCtxUnmap))) = some r := rejected_of (by decide +kernel)
theorem witness_qCreate_rejected : ∃ r, Ready 0x120 (ones pQCreate) running ∧
    verdict (qCreateChecks (takenUp 0x120 (ones pQCreate) running) (asOp 0x120 (ones pQCreate))) = some r := rejected_of (by decide +kernel)
theorem witness_hchSignal_rejected : ∃ r, Ready 0x201 (ones pHchSignal) running ∧
    verdict (signalChecks (takenUp 0x201 (ones pHchSignal) running) (asOp 0x201 (ones pHchSignal))) = some r := rejected_of (by decide +kernel)
theorem witness_hchAdd_rejected : ∃ r, Ready 0x202 (ones pHchAdd) running ∧
    verdict (signalChecks (takenUp 0x202 (ones pHchAdd) running) (asOp 0x202 (ones pHchAdd))) = some r := rejected_of (by decide +kernel)
theorem witness_hchWait_rejected : ∃ r, Ready 0x203 (ones pHchWait) running ∧
    verdict (waitChecks (takenUp 0x203 (ones pHchWait) running) (asOp 0x203 (ones pHchWait))) = some r := rejected_of (by decide +kernel)
theorem witness_hchProducer_rejected : ∃ r, Ready 0x205 (ones pHchProducer) running ∧
    verdict (producerChecks (takenUp 0x205 (ones pHchProducer) running) (asOp 0x205 (ones pHchProducer))) = some r := rejected_of (by decide +kernel)
theorem witness_xfrFill_rejected : ∃ r, Ready 0x303 (ones pXfrFill) running ∧
    verdict ((xferChecks fillParam fillXfer false) (takenUp 0x303 (ones pXfrFill) running) (asOp 0x303 (ones pXfrFill))) = some r := rejected_of (by decide +kernel)
theorem witness_xfrCopy_rejected : ∃ r, Ready 0x301 (ones pXfrCopy) running ∧
    verdict ((xferChecks copyParam (copyXfer false) false) (takenUp 0x301 (ones pXfrCopy) running) (asOp 0x301 (ones pXfrCopy))) = some r := rejected_of (by decide +kernel)
theorem witness_xfrWindowGrant_rejected : ∃ r, Ready 0x320 (ones pXfrWindowGrant) running ∧
    verdict (windowChecks (takenUp 0x320 (ones pXfrWindowGrant) running) (asOp 0x320 (ones pXfrWindowGrant))) = some r := rejected_of (by decide +kernel)
theorem witness_vecMap_rejected : ∃ r, Ready 0x501 (ones pVecMap) running ∧
    verdict (vecMapChecks (takenUp 0x501 (ones pVecMap) running) (asOp 0x501 (ones pVecMap))) = some r := rejected_of (by decide +kernel)
theorem witness_gsxGather_rejected : ∃ r, Ready 0x601 (ones pGsxGather) running ∧
    verdict (gatherChecks (takenUp 0x601 (ones pGsxGather) running) (asOp 0x601 (ones pGsxGather))) = some r := rejected_of (by decide +kernel)
theorem witness_attFwd_rejected : ∃ r, Ready 0x621 (ones pAttFwd) running ∧
    verdict (fwdChecks (takenUp 0x621 (ones pAttFwd) running) (asOp 0x621 (ones pAttFwd))) = some r := rejected_of (by decide +kernel)
theorem witness_splClose_rejected : ∃ r, Ready 0x705 (ones pSplClose) running ∧
    verdict (closeChecks (takenUp 0x705 (ones pSplClose) running) (asOp 0x705 (ones pSplClose))) = some r := rejected_of (by decide +kernel)
theorem witness_tklStep_rejected : ∃ r, Ready 0x805 (ones pTklStep) running ∧
    verdict (stepChecks (takenUp 0x805 (ones pTklStep) running) (asOp 0x805 (ones pTklStep))) = some r := rejected_of (by decide +kernel)
theorem witness_ttlBind_rejected : ∃ r, Ready 0x901 (ones pTtlBind) running ∧
    verdict (bindChecks (takenUp 0x901 (ones pTtlBind) running) (asOp 0x901 (ones pTtlBind))) = some r := rejected_of (by decide +kernel)
theorem witness_strFence_rejected : ∃ r, Ready 0xa02 (ones pStrFence) running ∧
    verdict (fenceChecks (takenUp 0xa02 (ones pStrFence) running) (asOp 0xa02 (ones pStrFence))) = some r := rejected_of (by decide +kernel)
theorem witness_logLimit_rejected : ∃ r, Ready 0xb03 (ones pLogLimit) running ∧
    verdict (limitChecks (takenUp 0xb03 (ones pLogLimit) running) (asOp 0xb03 (ones pLogLimit))) = some r := rejected_of (by decide +kernel)
theorem witness_secFwActivate_rejected : ∃ r, Ready 0xc04 (ones pSecFwActivate) running ∧
    verdict (activateChecks (takenUp 0xc04 (ones pSecFwActivate) running) (asOp 0xc04 (ones pSecFwActivate))) = some r := rejected_of (by decide +kernel)

theorem witness_header_faults :
    opLength (asOp 0x0F00 pHchAdd).opcode.toNat = none
    ∧ (let p := asOp 0x0202 pHchAdd
       opcodeBad p = false ∧ (∀ q ∈ [{ p with flags := 0x40 }, { p with rsvd := 1 }, { p with length := 3 }, { p with flags := 0x10 },
           { p with flags := 0x04 }], opcodeBad q = false ∧
         (q.flags.toNat / 64 ≠ 0 ∨ q.rsvd ≠ 0 ∨ opLength q.opcode.toNat ≠ some q.length.toNat
          ∨ hasFlag q flLONG = decide (q.length.toNat ≤ 4) ∨ (hasFlag q flBATCHABLE = true ∧ q.opcode ≠ 0x0401)))) := by decide +kernel

/-- A queue that an earlier wait blocks. -/
def waiting : State :=
  { running with
    jobs := [newJob running 11 pHchWait (.wait 10 false 9 1000), newJob running 12 pHchWait (.wait 10 true 5 0),
             newJob running 13 pHchWait (.wait 9 false 0 0), { newJob running 14 pHchAdd .finished with res := some okRes }]
    spl := { plans := [(0, { plan true (bucket 7 .armed) with begun := false, v := 4, hitch := 10 })], order := [0] } }

theorem witness_packets_wait : alive State.reset = false ∧ alive waiting = true
    ∧ mayStart waiting (packetNo 0x0202 pHchAdd waiting) (asOp 0x0202 pHchAdd) = false ∧ fetchedUid waiting (asOp 0x0202 pHchAdd) = none
    ∧ (let s := { waiting with fetched := [(15, asOp 0x0202 pHchAdd)] }
       alive s = true ∧ mayStart s (packetNo 0x0202 pHchAdd s) (asOp 0x0202 pHchAdd) = false ∧ fetchedUid s (asOp 0x0202 pHchAdd) ≠ none) := by
  decide +kernel

/-- Waits of hitch 10 of either kind, one of hitch 9, and a packet that does not wait; a plan that waits for hitch 10. -/
theorem witness_hitch_waiters :
    (waiting.jobs.map fun j => (j.work, j.res))
      = [(.wait 10 false 9 1000, none), (.wait 10 true 5 0, none), (.wait 9 false 0 0, none), (.finished, some okRes)]
    ∧ (waiting.spl.plans.map fun x => (x.1, x.2.armed, x.2.hitch, x.2.v, x.2.begun)) = [(0, some 5, 10, 4, false)] := by decide +kernel

/-- Values 3, 4, 5 and 9 of hitch 10: which of its waits end, and whether the plan begins (R71, R72, R258). -/
theorem test_hitch_waiters : ([3, 4, 5, 9] : List DWord).map (fun v =>
      let u := hitchPut 10 v waiting
      (u.jobs.map fun j => j.res.isSome, u.spl.plans.map fun x => x.2.begun))
    = [([false, false, false, true], [false]), ([false, false, false, true], [true]), ([false, true, false, true], [true]),
       ([true, false, false, true], [true])] := by decide +kernel

def pMapBanks : Packet := pkt q0 3 [(4, 0x2001), (6, 4), (7, 2)]
def pMapPlacement : Packet := pkt q0 3 [(4, 0x83000), (6, 1), (7, 2)]

theorem witness_ctxMap_banks : Accepted 0x0112 mapChecks pMapBanks running ∧ mapKind pMapBanks = 2
    ∧ openOf (takenUp 0x0112 pMapBanks running) (mapCtx pMapBanks) = [] :=
  ⟨accepted_of (by decide +kernel), by decide +kernel, by decide +kernel⟩

theorem witness_ctxMap_banks_wait : Accepted 0x0112 mapChecks pMapBanks waiting
    ∧ openOf (takenUp 0x0112 pMapBanks waiting) (mapCtx pMapBanks) ≠ [] := ⟨accepted_of (by decide +kernel), by decide +kernel⟩

theorem witness_ctxMap_placement :
    Accepted 0x0112 mapChecks pMapPlacement { running with ctxs := [(0, { noCtx with state := .live, gen := 1 })] } ∧ mapKind pMapPlacement = 3 ∧ mapKind pCtxMap = 1
    ∧ mapKind pCtxUnmap = 1 := ⟨accepted_of (by decide +kernel), by decide +kernel, by decide +kernel, by decide +kernel⟩

def pUnmapPage : Packet := pkt q0 3 [(4, 1), (6, 0x40000000), (10, 0x10000)]
theorem witness_ctxUnmap_range : Accepted 0x0113 unmapChecks pUnmapPage running ∧ mapKind pUnmapPage = 0 := ⟨accepted_of (by decide +kernel), by decide +kernel⟩

theorem witness_free_queue : freeQueue running = some 0 ∧ freeWindowId running = some 1 ∧ running.str.armed = []
    ∧ slotToBind running pTtlBind = some 0 ∧ (running.ttls.map Prod.fst).Pairwise (· < ·)
    ∧ slotToBind running { pTtlBind with params := [3, 0, 0, 0] } = some 3
    ∧ (vaWrite reachQueue (issuerCtx running pTtlRead.issuer) (dw pTtlRead 6) ((slotRecord running 3).map fun x => (x, false)) running).2 = none := by
  decide +kernel

theorem witness_generation_and_windows : (ctxOf running 1).bumped = false ∧ running.wins ≠ []
    ∧ (ctxOf (bumpGen 1 running) 1).bumped = true ∧ windowHeld running 0 = []
    ∧ windowHeld { running with lnk := { running.lnk with held := [(0, 0, { blankMsg with kind := 2 })] } } 0 ≠ [] := by decide +kernel

/-- A row of 64 bytes that begins 16 bytes before a page, with one byte left and with the row left. -/
theorem witness_transfer : (let x := newXfer (.va 0xFF0) (.va 0x8000) 2 64 128 64 false
    0 < x.rowBytes ∧ (0 : Nat) < 1 ∧ (63 : Nat) < 64 ∧ (0 : Nat) < 128 ∧ (∀ v, x.src ≠ .pattern v) ∧ ∀ v, x.dst ≠ .pattern v) := by
  refine ⟨by decide, by decide, by decide, by decide, ?_, ?_⟩ <;> intro v h <;> cases h

/-- Its transfers: 16 bytes to the page, then the rest of the row, then the second row (R222). -/
theorem test_transfer_lengths : (let x := newXfer (.va 0xFF0) (.va 0x8000) 2 64 128 64 false
    (xferLen x 0 128, xferLen x 16 128, xferLen x 64 128, xferLen x 127 128) = (16, 48, 64, 1)) := by decide +kernel

/-! ## A firmware image that verifies: the private key is 1 and the signature's number 1, computed apart from the model (R468, R469) -/

/-- The first 928 bytes: the header with the base point as key, and a body of zeros. -/
def imageHead : List Byte :=
  leBytes 4 0x46345A49 ++ leBytes 4 1 ++ leBytes 4 1024 ++ leBytes 4 7 ++ [0, 0, 0, 0] ++ leBytes 4 0xB0
    ++ beBytes 48 0x1d1c64f068cf45ffa2a63a81b7c13f6b8847a3e77ef14fe3db7fcafe0cbd10e8e826e03436d646aaef87b2e247d4af1e
    ++ beBytes 48 0x8abe1d7520f9c2a45cb1eb8e95cfd55262b70b29feec5864e19c054ff99129280e4646217791811142820341263c5315
    ++ zeros 808

def image : List Byte :=
  imageHead
    ++ beBytes 48 0x1d1c64f068cf45ffa2a63a81b7c13f6b8847a3e77ef14fe3db7fcafe0cbd10e8e826e03436d646aaef87b2e247d4af1e
    ++ beBytes 48 0x37987bc03b60ff7970f9cea6e5239db55b91192c9f5b953c22a5954ebec0b2a041cccdc5c468c9c4e3735680c6967509

def fwKey : BitVec 384 := 0xe7621064df002f3dfc4ebfbb2d516984793dc57441010755c7981c139d3e89ab3bc2dfe550d90bf4d6629ada61cb86c3

/-- SHA-384 of the signed bytes, as the reference gives it (R468). -/
theorem test_sha384 : shaBits imageHead = 0x1a7c16cfd291b979ce5394252d625e49d3497545206a45584725ca50b203a1b759a5ed918d928319f3eba39e7ec1c5eb := by decide +kernel

theorem test_image_key : headerGood image = true ∧ imageLength image = 1024 ∧ shaBits (slice 24 96 image) = fwKey
    ∧ signedRegion image = imageHead := by decide +kernel
theorem test_image_signature : ecdsaVerify (beNat (slice 24 48 image)) (beNat (slice 72 48 image)) (0x1a7c16cfd291b979ce5394252d625e49d3497545206a45584725ca50b203a1b759a5ed918d928319f3eba39e7ec1c5eb : BitVec 384).toNat
    (beNat (slice 928 48 image)) (beNat (slice 976 48 image)) = true := by decide +kernel

theorem image_good {fw : Fw} (hk : fw.keyHash.getD 0 0 = fwKey) (hr : fw.keyRevoked = 0) (hs : fw.rollback = 0) : verifyImage fw image = .good := by
  obtain ⟨h1, h2, h3, h4⟩ := test_image_key
  have h5 : imageKeySlot image = 0 := by decide +kernel
  have h6 : imageSvn image = 0 := by decide +kernel
  have h7 := test_image_signature
  unfold verifyImage
  rw [h1, h2, h3, h4, h5, h6, hk, hr, hs]
  simp only [test_sha384]
  rw [show 1024 - 96 = 928 from rfl, show 1024 - 48 = 976 from rfl, h7]
  simp

/-- Bytes as the cells of a memory that holds nothing else. -/
def cellsFrom : Nat → List Byte → List Host.Cell
  | _, [] => []
  | a, b :: t => if b = 0 then cellsFrom (a + 1) t else (a, b) :: cellsFrom (a + 1) t

theorem cellGet_cellsFrom (bs : List Byte) : ∀ a i, cellGet (a + i) (cellsFrom a bs) = bs.getD i 0 ∧ ∀ j < a, cellGet j (cellsFrom a bs) = 0 := by
  induction bs with
  | nil => intro a i; simp [cellsFrom, cellGet]
  | cons b t ih =>
    intro a i
    have h0 : ∀ j < a, cellGet j (cellsFrom (a + 1) t) = 0 := fun j h => (ih (a + 1) 0).2 j (by omega)
    have h1 : cellGet a (cellsFrom (a + 1) t) = 0 := (ih (a + 1) 0).2 a (by omega)
    have h2 : ∀ k, cellGet (a + (k + 1)) (cellsFrom (a + 1) t) = t.getD k 0 := fun k => by
      rw [show a + (k + 1) = a + 1 + k by omega]; exact (ih (a + 1) k).1
    unfold cellsFrom
    split
    · rename_i hb
      refine ⟨?_, h0⟩
      cases i with
      | zero => simpa [hb] using h1
      | succ k => simpa using h2 k
    · refine ⟨?_, fun j h => by simp [cellGet, h, show ¬ a = j by omega]⟩
      cases i with
      | zero => simp [cellGet]
      | succ k => simpa [cellGet, show ¬ a + (k + 1) < a by omega] using h2 k

theorem length_leBytes (n v : Nat) : (leBytes n v).length = n := by
  induction n generalizing v <;> simp_all [leBytes]

theorem image_length : image.length = 1024 := by
  simp only [image, imageHead, beBytes, List.length_append, List.length_reverse, length_leBytes, zeros, List.length_replicate, List.length_cons,
    List.length_nil]

theorem cellRead_cellsFrom (a : Nat) (bs : List Byte) : cellRead a bs.length (cellsFrom a bs) = bs := by
  apply List.ext_getElem
  · simp [cellRead]
  · intro i h1 h2
    simp [cellRead, cellGet_cellsFrom, List.getElem?_eq_getElem h2]

def withHost (h : List Host.Cell) (s : State) : State := { s with mem := { s.mem with host := h } }

theorem takenUp_host (op : Nat) (p : Packet) (h : List Host.Cell) (s : State) : (takenUp op p (withHost h s)).mem.host = h := by
  unfold takenUp; split <;> rfl

/-- Context 0 shares the table of context 1, whose next 2 MiB are a page of host memory that begins with the image. -/
def staged : State :=
  withHost (cellsFrom 0x400000 image) (physPut 0x103008 (leBytes 8 0x400013) { running with
    ctxs := [(0, { ctx1 with gen := 1 }), (1, ctx1)], fw := { running.fw with keyHash := [fwKey] } })

theorem staged_host (op : Nat) (p : Packet) : (takenUp op p staged).mem.host = cellsFrom 0x400000 image :=
  takenUp_host op p _ _

def pSecFwStage : Packet := pkt q0 2 [(4, 0x200000), (6, 1024)]

theorem host_image {s : State} {p : Packet} {v n a : Nat} {w : Bool} {bs : List Byte} (h1 : pieces (dw p 4) (wd p 6) = [(v, n)])
    (h2 : translateFor s reachQueue (issuerCtx s p.issuer) v false = .ok { host := true, pasid := none, wr := w, addr := a })
    (h3 : cellRead (hostKey none a) n s.mem.host = bs) (h4 : s.mem.hostRefused = []) (h5 : s.mem.hostSilent = []) :
    stageImage s p = some (bs.map fun b => (b, false)) := by
  unfold stageImage vaRead
  rw [h1, List.foldl_cons, List.foldl_nil]
  dsimp only
  rw [h2]
  unfold leafRead
  dsimp only
  rw [h3, h4, h5]
  rfl

theorem staged_image : stageImage (takenUp 0x0C03 pSecFwStage staged) (asOp 0x0C03 pSecFwStage) = some (image.map fun b => (b, false)) := by
  have h1 : pieces (dw (asOp 0x0C03 pSecFwStage) 4) (wd (asOp 0x0C03 pSecFwStage) 6) = [(0x200000, 1024)] := by decide +kernel
  have h2 : translateFor (takenUp 0x0C03 pSecFwStage staged) reachQueue
      (issuerCtx (takenUp 0x0C03 pSecFwStage staged) (asOp 0x0C03 pSecFwStage).issuer) 0x200000 false
      = .ok { host := true, pasid := none, wr := false, addr := 0x400000 } := by
    have h : (match translateFor (takenUp 0x0C03 pSecFwStage staged) reachQueue
      (issuerCtx (takenUp 0x0C03 pSecFwStage staged) (asOp 0x0C03 pSecFwStage).issuer) 0x200000 false with
      | .ok l => decide (l = { host := true, pasid := none, wr := false, addr := 0x400000 })
      | .error _ => false) = true := by decide +kernel
    split at h
    · rename_i l hl
      rw [hl, of_decide_eq_true h]
    · cases h
  have h5 := cellRead_cellsFrom 0x400000 image
  rw [image_length] at h5
  refine host_image h1 h2 ?_ (by decide +kernel) (by decide +kernel)
  rw [staged_host]
  exact h5

theorem clean_bytes (l : List Byte) : anyPoison (l.map fun b => (b, false)) = false ∧ (l.map fun b => ((b, false) : PByte)).map Prod.fst = l := by
  induction l <;> simp_all [anyPoison]

theorem stage_accepted {s : State} {p : Packet} {img : List Byte} (h1 : stageImage s p = some (img.map fun b => (b, false)))
    (h2 : imageLength img = wd p 6) (h3 : verifyImage s.fw img = .good)
    (h4 : (badIf (wd p 6 == 0 || decide (2 ^ 24 < wd p 6)) 6 ++ dataField s p 4 1 (min (wd p 6) (2 ^ 24)) false ++ zeroWords p [7]).isEmpty = true)
    (h5 : verdict { noChecks with permission := ctx0Only s p, conflict := badIf (stagingBusy s) 0 } = none) :
    verdict (stageChecks s p) = none := by
  simp only [stageChecks]
  rw [h4, h1]
  simp only [(clean_bytes img).1, (clean_bytes img).2, h3, h2]
  simpa using h5

theorem witness_secFwStage_accepted : Accepted 0x0C03 stageChecks pSecFwStage staged
    ∧ stageImage (takenUp 0x0C03 pSecFwStage staged) (asOp 0x0C03 pSecFwStage) = some (image.map fun b => (b, false))
    ∧ anyPoison (image.map fun b => (b, false)) = false :=
  ⟨⟨ready_of (by decide +kernel),
    stage_accepted staged_image (test_image_key.2.1.trans (by decide +kernel)) (image_good (by decide +kernel) (by decide +kernel) (by decide +kernel))
      (by decide +kernel) (by decide +kernel)⟩, staged_image, (clean_bytes image).1⟩

/-! ## Packets that read records from memory before they start -/

/-- Bytes at an address of context 1. -/
def poke (va : Nat) (bs : List Byte) (s : State) : State :=
  { s with mem := { s.mem with cells := cellMerge (((List.range bs.length).zip bs).map fun x => (keyOf s (0x200000 + va + x.1), x.2)) s.mem.cells } }

def words (ws : List Nat) : List Byte := ws.flatMap (leBytes 4)

/-- ACC.SAVE that starts from the state at 0x14000; ACC.RESUME does so too. -/
def pSaveState : Packet := { pAccSave with params := (pAccSave.params.set 3 0x400).set 10 0x14000 }

def saveStateOp : AOp :=
  plainOp .save (packetNo 0x0410 pSaveState running) (envHN (takenUp 0x0410 pSaveState running) (asOp 0x0410 pSaveState)) (asOp 0x0410 pSaveState) []

/-- The header that R174 gives that state: path, L, S, flags, M and N. -/
def withHeader : State := poke 0x14000 ([BitVec.ofNat 8 saveStateOp.path.no, BitVec.ofNat 8 (headerL saveStateOp), BitVec.ofNat 8 saveStateOp.sLog, 0]
  ++ words [1, 1]) running

/-- Does a read give bytes, none poisoned, that a check accepts? -/
def readsClean (r : Except AFault (List PByte)) (ok : List PByte → Bool) : Bool :=
  match r with
  | .ok h => !anyPoison h && ok h
  | .error _ => false

theorem readsClean_ok {r : Except AFault (List PByte)} {ok : List PByte → Bool} (h : readsClean r ok = true) :
    ∃ bs, r = .ok bs ∧ anyPoison bs = false ∧ ok bs = true := by
  cases r with
  | error => cases h
  | ok bs => exact ⟨bs, rfl, by simpa [readsClean] using h⟩

theorem witness_save_from_state : Accepted 0x0401 (plainChecks .save (packetNo 0x0410 pSaveState withHeader)) pSaveState withHeader
    ∧ saveStateOp.start = startSTATE ∧ (∃ h, stateRead (takenUp 0x0410 pSaveState withHeader)
        (envHN (takenUp 0x0410 pSaveState withHeader) (asOp 0x0410 pSaveState)) saveStateOp.stateVa 64 = .ok h ∧ anyPoison h = false
        ∧ (headerMismatch saveStateOp (wd (asOp 0x0410 pSaveState) 4) (wd (asOp 0x0410 pSaveState) 5) (h.map Prod.fst)).isEmpty = true) :=
  ⟨accepted_of (by decide +kernel), by decide +kernel, readsClean_ok (by decide +kernel)⟩

theorem witness_resume_from_state : Accepted 0x0411 (plainChecks .resume (packetNo 0x0411 pAccResume withHeader)) pAccResume withHeader
    ∧ (let q := asOp 0x0411 pAccResume
       let s0 := takenUp 0x0411 pAccResume withHeader
       let o := plainOp .resume (packetNo 0x0411 pAccResume withHeader) (envHN s0 q) q []
       o.start = startSTATE ∧ ∃ h, stateRead s0 (envHN s0 q) o.stateVa 64 = .ok h ∧ anyPoison h = false
        ∧ (headerMismatch o (wd q 4) (wd q 5) (h.map Prod.fst)).isEmpty = true) :=
  ⟨accepted_of (by decide +kernel), by decide +kernel, readsClean_ok (by decide +kernel)⟩

theorem witness_fresh_starts :
    [(ArrKind.mma, 0x0401, pArrMma), (.dist, 0x0403, pArrDist), (.save, 0x0410, pAccSave)].all (fun x =>
      (plainOp x.1 (packetNo x.2.1 x.2.2 running) (envHN (takenUp x.2.1 x.2.2 running) (asOp x.2.1 x.2.2)) (asOp x.2.1 x.2.2) []).start
        != startSTATE) = true := by decide +kernel

/-- Two problems of 1 by 1 by 1. -/
def withRecords : State :=
  let r := fun (o : Nat) => words [1, 1, 0, 0, 0, 0, 0, 0, 0x20002, 0, 0x10000 + o, 0, 0, 0, 0x20002, 0, 0x11000 + o, 0, 0, 0, 0x20000, 0, 0x12000 + o]
    ++ zeros 36
  poke 0x8000 (r 0 ++ r 0x80) running

theorem witness_packed : Ready 0x0402 pArrMmaPacked withRecords
    ∧ (let q := asOp 0x0402 pArrMmaPacked
       let s0 := takenUp 0x0402 pArrMmaPacked withRecords
       let no := packetNo 0x0402 pArrMmaPacked withRecords
       let v := envHN s0 q
       (packedBad (blankPacked no v q) q v []).isEmpty = true
       ∧ ∃ bs, vaRead s0 v.reach v.c (dw q 8) 256 = .ok bs ∧ anyPoison bs = false
         ∧ (verdict (packedChecks no (bs.map Prod.fst) (detectVa v.reach v.c (dw q 8) 256 s0) q)).isNone = true) :=
  ⟨ready_of (by decide +kernel), by decide +kernel, readsClean_ok (by decide +kernel)⟩

theorem witness_offer_forms : hasFlag pArrMma flBATCHABLE = false ∧ hasFlag { pArrMma with flags := 0x14 } flBATCHABLE = true
    ∧ rowsOf (jobOp (newJob running 30 (asOp 0x0401 { pArrMma with flags := 0x14 }) (.array []))) = 1 := by decide +kernel

/-- A plan of one bucket of 8 by 8 elements: this module contributes, and takes what devices 3 and 4 send. -/
def withPlan : State :=
  poke 0x6000 (words [2 + 0x10000, 77, 1, 0, 0x22000, 0, 0, 0] ++ zeros 32
    ++ words [0x00010302, 0, 0x00040003, 0, 3, 0, 0, 0, 3, 9, 100, 100] ++ zeros 16
    ++ words [9, 0, 8, 8, 0x20000, 0, 0x21000, 0] ++ zeros 32) { running with spl := { plans := [], order := [] } }

theorem witness_plan : Ready 0x0701 pSplPlan withPlan
    ∧ (let q := asOp 0x0701 pSplPlan
       let s0 := takenUp 0x0701 pSplPlan withPlan
       (verdict { noChecks with param := planParam q, degraded := splDegraded s0 }).isNone = true
       ∧ ∃ bs, planBytes s0 (envHN s0 q) (dw q 4) = .ok bs ∧ anyPoison bs = false
         ∧ (verdict (planChecks (detectVa reachHN (issuerCtx s0 q.issuer) (dw q 4) bs.length s0) q (bs.map Prod.fst))).isNone = true) :=
  ⟨ready_of (by decide +kernel), by decide +kernel,
    readsClean_ok (ok := fun bs => (verdict (planChecks (detectVa reachHN (issuerCtx (takenUp 0x0701 pSplPlan withPlan) (asOp 0x0701 pSplPlan).issuer)
      (dw (asOp 0x0701 pSplPlan) 4) bs.length (takenUp 0x0701 pSplPlan withPlan)) (asOp 0x0701 pSplPlan) (bs.map Prod.fst))).isNone) (by decide +kernel)⟩

theorem witness_plan_loaded : (planOf running (splPlanId pSplOpen)).isSome = true ∧ splitPending running = false
    ∧ isArmed running (splPlanId pSplClose) = true ∧ isArmed running 1 = false := by decide +kernel

/-- A group of 128 parameters. -/
def withGroup : State :=
  poke 0x1000 (words [0, 0, 128, 0, 0x30000, 0, 0x31000, 0, 0, 0, 0x20000, 0, 1] ++ zeros 12 ++ words [0, 0, 0, 0, 0, 0, 0, 0x3F800000] ++ zeros 32)
    { running with tkl := { running.tkl with groups := [] } }

def pCoefWrite : Packet := pkt q1 2 [(4, 0x1000400), (6, 0x1000)]

theorem witness_coef_write : Ready 0x0801 pCoefWrite withGroup
    ∧ (let q := asOp 0x0801 pCoefWrite
       let s0 := takenUp 0x0801 pCoefWrite withGroup
       coefWrite q = true ∧ (coefParam q).isEmpty = true
       ∧ ∃ bs, vaRead s0 reachQueue (issuerCtx s0 q.issuer) (dw q 6) (128 * tklCount q) = .ok bs ∧ anyPoison bs = false
         ∧ (verdict (coefChecks s0 q (bs.map Prod.fst))).isNone = true) :=
  ⟨ready_of (by decide +kernel), by decide +kernel, by decide +kernel, readsClean_ok (ok := fun bs => (verdict (coefChecks
    (takenUp 0x0801 pCoefWrite withGroup) (asOp 0x0801 pCoefWrite) (bs.map Prod.fst))).isNone) (by decide +kernel)⟩

theorem witness_coef_read : coefWrite pTklCoef = false ∧ coefRead pTklCoef = true := by decide +kernel

def pStepsizeMem : Packet := pkt q1 3 [(4, 0x400), (8, 0x1000)]

theorem witness_stepsize : stepScalar pTklStepsize = true ∧ stepScalar pStepsizeMem = false ∧ Ready 0x0802 pStepsizeMem running
    ∧ (let q := asOp 0x0802 pStepsizeMem
       let s0 := takenUp 0x0802 pStepsizeMem running
       ∃ bs, vaRead s0 reachHN (issuerCtx s0 q.issuer) (dw q 8) (8 * tklCount q) = .ok bs ∧ anyPoison bs = false
         ∧ (verdict (stepsizeChecks s0 q ((chunks 4 (bs.map Prod.fst)).map fun (w : List Byte) => (BitVec.ofNat 32 (leNat w) : Word)))).isNone
           = true) :=
  ⟨by decide +kernel, by decide +kernel, ready_of (by decide +kernel), readsClean_ok (ok := fun bs => (verdict (stepsizeChecks
    (takenUp 0x0802 pStepsizeMem running) (asOp 0x0802 pStepsizeMem)
    ((chunks 4 (bs.map Prod.fst)).map fun (w : List Byte) => (BitVec.ofNat 32 (leNat w) : Word)))).isNone) (by decide +kernel)⟩

/-! ## The chips and the array at work -/

/-- TKL.STEP of group 0 under way, before its first block. -/
def stepping : State :=
  { running with jobs := [newJob running 11 (asOp 0x0805 pTklStep) .tklStep], tkl := { running.tkl with run := some (newRun 11 pTklStep) } }

/-- Its group finished; with a skip bitmap. -/
def stepped (p : Packet) : State :=
  { running with jobs := [newJob running 11 (asOp 0x0805 p) .tklStep], tkl := { running.tkl with run := some { newRun 11 p with block := 1 } } }

def pStepSkips : Packet := pkt q1 3 [(4, 0x2000000), (8, 0x1000)]

theorem witness_tackle_block : (stepping.tkl.run.map fun r => decide (r.block < (groupOf stepping r.group).blocks)) = some true
    ∧ laneActive stepping 67 = true := by decide +kernel

theorem witness_tackle_group : ((tklJob (stepped pTklStep)).map fun x =>
      decide ((groupOf (stepped pTklStep) x.1.group).blocks ≤ x.1.block) && !stepSkipV x.2.pkt) = some true
    ∧ ((tklJob (stepped pStepSkips)).map fun x =>
      let s := stepped pStepSkips
      decide ((groupOf s x.1.group).blocks ≤ x.1.block) && stepSkipV x.2.pkt
        && (vaWrite reachHN x.2.ctx (dw x.2.pkt 8 + (skipBytes x.1 (groupOf s x.1.group)).1)
            ((skipBytes x.1 (groupOf s x.1.group)).2.map fun b => (b, false)) s).2.isNone) = some true := by decide +kernel

theorem witness_tackle_owner : running.tkl.owner ≠ none ∧ tklFirst pTklStepsize ≤ 0 ∧ 0 < tklFirst pTklStepsize + tklCount pTklStepsize := by
  decide +kernel

/-- One multiply of 1 by 1 with K k-steps waits for the array. -/
def pMmaOf (k : Nat) : Packet := asOp 0x0401 { pArrMma with params := (pArrMma.params.set 2 (BitVec.ofNat 32 k)).set 3 0x40 }
def offered (k : Nat) : State := { running with jobs := [newJob running 11 (pMmaOf k) (.array [])], arr := { running.arr with ready := [11] } }

/-- The array runs it. -/
def multiplying (k : Nat) : State :=
  match execArraySchedule [] [] (offered k) with
  | .next t => t
  | _ => offered k

theorem witness_array_schedule : ((chooseOp (offered 1)).map fun c => (c.uids, outgrown (offered 1) c, (takeOp c (offered 1)).2.isSome))
      = some ([11], [], true) ∧ (offered 1).arr.run = none ∧ (offered 1).arr.rebuild = false ∧ underReset (offered 1) sARR = false
    ∧ ((chooseOp (offered 1)).bind fun c => (jobOf (offered 1) 11).map fun j =>
        ((jobOp j).kind, startDegraded (leaveWaiting c (offered 1)) (jobOp j), decide ((jobOp j).start = startZERO))) = some (.mma, false, true) := by
  decide +kernel

/-- A second packet waits while the first has its only tile in the array. -/
def following : State :=
  let s := multiplying 1
  { s with jobs := s.jobs ++ [newJob running 12 (pMmaOf 1) (.array [])], arr := { s.arr with ready := [12] } }

theorem witness_array_next : following.arr.rebuild = false ∧ following.arr.next = none ∧ underReset following sARR = false
    ∧ (following.arr.run.map fun r => (r.test, inLastTile following r)) = some (false, true)
    ∧ ((chooseOp following).map fun c => c.uids) = some [12] := by decide +kernel

/-- The array runs a self-test. -/
def testing : State :=
  match execArraySchedule [] [] { running with
    jobs := [newJob running 11 (asOp 0x0404 pArrSelftest) (.array [])], arr := { running.arr with ready := [11] } } with
  | .next t => t
  | _ => running

theorem witness_array_test : (testing.arr.run.map fun r => (r.uids, r.test)) = some ([11], true) := by decide +kernel

theorem witness_array_drain : ((multiplying 1).arr.run.bind fun r => (runOp (multiplying 1) r).map fun o =>
      !r.test && decide (o.k ≤ r.kPos + 2 ^ o.sLog) && !feederWaits (multiplying 1) o) = some true := by decide +kernel

theorem witness_array_spill : ((multiplying 17).arr.run.bind fun r => (runOp (multiplying 17) r).map fun o =>
      let t := readyRun o r (multiplying 17)
      !r.test && decide (r.kPos + 2 ^ o.sLog < o.k) && !feederWaits (multiplying 17) o && !allStopped (interval t.1 o t.2).run) = some true := by
  decide +kernel

/-- Its A has no page: the read of the interval ends its only problem. -/
def starved : State :=
  let p := asOp 0x0401 { pArrMma with params := ((pArrMma.params.set 2 17).set 3 0x40).set 14 0x40000000 }
  match execArraySchedule [] [] { running with jobs := [newJob running 11 p (.array [])], arr := { running.arr with ready := [11] } } with
  | .next t => t
  | _ => running

theorem witness_array_stopped : (starved.arr.run.bind fun r => (runOp starved r).map fun o =>
      let t := readyRun o r starved
      !r.test && decide (r.kPos + 2 ^ o.sLog < o.k) && !feederWaits starved o && allStopped (interval t.1 o t.2).run) = some true := by decide +kernel

theorem witness_array_rest : running.arr.run = none ∧ 7 ≤ running.str.phasesDone ∧ barUp running = true ∧ unitHeld running (regUnit 0x4004) = false
    ∧ areaHeld running = false ∧ mergeHeld { running with spl := { plans := [], order := [] } } = false := by decide +kernel

/-! ## Queues -/

theorem witness_doorbell : barUp running = true ∧ alive running = true ∧ doorbellQueue running 1 0 = some 5 ∧ (queueOf running 5).isSome = true
    ∧ destroyed running 5 = false ∧ (writeFlags 5 (updQueue 5 (fun q => { q with lastTail := 64 }) running)).2 = none
    ∧ ((queueOf running 5).map fun q => (decide (((64 : Word) - q.consumed).toNat ≤ q.ringSlots), decide (((65 : Word) - q.consumed).toNat ≤ q.ringSlots)))
      = some (true, false) := by decide +kernel

/-- A tail 64 slots on is taken, one 65 on is refused (R64). -/
theorem test_doorbell_tails : ([64, 65] : List DWord).map (fun v =>
      match execDoorbellWrite 0x1000 8 v noNews running with
      | .next t => (queueOf t 5).map fun q => (q.lastTail, q.qflags, q.dbErrors)
      | _ => none) = [some (64, 0, 0), some (0, 1, 1)] := by decide +kernel

/-- A ring of context 1 that holds HCH.ADD of 7 to hitch 10 in its first slot. -/
def ringed : State :=
  let s := poke 0x180000 (words [0x00000202, 2, 1, 0, 10, 0, 7, 0]) running
  updQueue 5 (fun q => { q with lastTail := 1 }) s

theorem witness_fetch : ((queueOf ringed 5).map fun q => mayFetch ringed q && (match ringNext ringed 5 q with
      | .packet p n => decide (n = 1) && decide (p.opcode = 0x0202) && decide (wd p 6 = 7)
      | _ => false)) = some true := by decide +kernel

/-- A finished packet of queue 5, of the port and of a link. -/
def finishedBy (i : Issuer) : State :=
  { running with jobs := [{ newJob running 11 { pHchAdd with issuer := i } .finished with res := some okRes }]
                 mgt := { running.mgt with busyUid := some 11 } }

theorem witness_completion : ([q1, pt, .link 3 7 1 0 0 none].map fun i => (jobOf (finishedBy i) 11).map fun j => (decide (j.pkt.issuer = i), j.res.isSome))
      = [some (true, true), some (true, true), some (true, true)]
    ∧ (queueOf (finishedBy q1) 5).isSome = true ∧ (finishedBy pt).mgt.busyUid = some 11 := by decide +kernel

theorem witness_deadlines : (waiting.jobs.map Job.uid).Nodup ∧ timedWait waiting 5 = true ∧ timedWait running 5 = false := by decide +kernel

theorem witness_strand_resets : (let p := pStrReset
    strandArg p = some [0, 2, 3] ∧ resetKind (takenUp 0x0A04 p running) [0, 2, 3] = .genTag ∧ running.rst.run = none
    ∧ strandArg (pkt pt 2 []) = some [] ∧ resetKind running [] = .fnd [] false) ∧ resetKind running [0, 4, 1] = .genTag := by decide +kernel

/-- A reset of IZ in a phase. -/
def resettingRun (target : Strand) : FndRun :=
  { target := target, cause := 0, beginMs := 990, phaseMs := 940, hostLink := false, uids := [], forced := 0, aborted := 0, captureNo := 0, restart := false
    past := none }

def resetting (n : Nat) (target : Strand) : State :=
  { running with rst := { running.rst with phase := n, run := some (resettingRun target) } }

/-- The Izette is under fence-and-drain, and a stack of MB1 is to be reset (R419). -/
theorem witness_reset_inside : (let s := resetting 3 []
    resetKind (takenUp 0x0A04 pStrReset s) [0, 2, 3] = .genTag ∧ (underReset s [0, 2, 3] && [0, 2, 3] != ([] : Strand)) = true)
    ∧ Accepted 0x0A04 resetChecks pStrReset (resetting 3 []) := ⟨by decide +kernel, accepted_of (by decide +kernel)⟩

theorem witness_root_reset : Accepted 0x0A04 resetChecks (pkt pt 2 []) running := accepted_of (by decide +kernel)

/-! ## The host's side -/

theorem witness_host_access : barUp running = true ∧ barAccessOk 0x107FFC 4 = true ∧ barAccessOk 0x107FF8 8 = true ∧ barAccessOk 0x3FFFFFC 4 = true
    ∧ barAccessOk 0x3FFFFFC 8 = false ∧ barAccessOk 2 4 = false ∧ barAccessOk 0xA004 4 = true ∧ 0xA004 / 8 * 8 = 0xA000
    ∧ running.str.armed = [] ∧ unitHeld running (regUnit 0x7000) = false := by decide +kernel

theorem witness_interrupts : running.pci.irqStatus.getLsbD 8 = false
    ∧ ({ running with pci := { running.pci with irqStatus := 0x100 } } : State).pci.irqStatus.getLsbD 8 = true := by decide +kernel

theorem witness_aperture : inBar4 running (2 ^ 36 - 8) 8 = true ∧ inBar4 running (2 ^ 36 - 7) 8 = false ∧ running.mem.damaged = []
    ∧ apertureShut running = false ∧ apertureShut (resetting 3 sIZ) = true ∧ barUp (resetting 3 sIZ) = true ∧ running.pci.inReset = false
    ∧ running.pci.crs = false := by decide +kernel

/-- A packet of the mailbox that has its result; vector 5 has a message pending; D3hot. -/
def mailing : State :=
  { running with
    jobs := [{ newJob running 11 { pHchAdd with issuer := .mbox } .finished with res := some okRes }]
    pci := { running.pci with mboxBusy := true, mboxUid := some 11, pending := [5], d3hot := true } }

theorem witness_mailbox : running.pci.mboxBusy = false ∧ running.pci.mboxUid = none ∧ mailing.pci.mboxBusy = true ∧ alive mailing = true
    ∧ running.pci.pending.contains 5 = false ∧ ({ running with pci := { running.pci with inReset := true } } : State).pci.inReset = true
    ∧ ((mailing.pci.mboxUid.bind (jobOf mailing)).map fun j => j.res.isSome) = some true ∧ mailing.pci.pending.contains 5 = true
    ∧ barUp { mailing with pci := { mailing.pci with d3hot := false } } = true ∧ mailing.pci.d3hot = true ∧ mailing.pci.inReset = false
    ∧ mailing.pci.crs = false ∧ powered mailing = true := by decide +kernel

/-! ## Pins, power and start-up -/

def inPhase (p : PwrPhase) : State := { running with pwr := { running.pwr with phase := p } }

theorem witness_pins : running.pci.inReset = false ∧ 4 ≤ running.str.phasesDone ∧ powered State.reset = false ∧ running.rst.run = none ∧ running.pwr.perstLow = false
    ∧ ({ running with pwr := { running.pwr with perstLow := true } } : State).pwr.perstLow = true
    ∧ running.pwr.sysResetLow = false ∧ running.pwr.phase = .running ∧ endpointFree running = true ∧ endpointFree State.reset = false
    ∧ State.reset.pwr.phase = .unpowered ∧ powered running = true ∧ (inPhase .heldOff).pwr.inputOk = true
    ∧ (inPhase .poweringDown).pwr.phase = .poweringDown := by decide +kernel

theorem witness_power : boardUp running = true ∧ powered running = true ∧ (6 : BitVec 4).toNat ≤ 6
    ∧ (let s : State := { inPhase .tripped with pwr := { running.pwr with phase := .tripped, pwrEn := false } }
       s.pwr.phase = .tripped ∧ (s.pwr.pwrEn = false ∨ s.pwr.inputOk = false))
    ∧ (let s : State := { inPhase .tripped with pwr := { running.pwr with phase := .tripped, inputOk := false } }
       s.pwr.phase = .tripped ∧ (s.pwr.pwrEn = false ∨ s.pwr.inputOk = false)) := by decide +kernel

theorem witness_startup : ((List.range 8).all fun n => decide ((inPhase (.starting n)).pwr.phase = .starting n)) = true
    ∧ strandOk [0, 0, 2] = true := by decide +kernel

/-! ## Time and the Logline -/

def due : State :=
  { running with clk := { running.clk with uptimeMs := 2000, msToSecond := 1000, secToPersist := 60 }, log := { running.log with buffer := [zeros 32, 1 :: zeros 31] } }

/-- The continuation of a record is code 1 (R444). -/
theorem witness_time : clockRuns due = true ∧ 1000 ≤ due.clk.msToSecond ∧ logAlive due = true ∧ 60 ≤ due.clk.secToPersist
    ∧ due.log.buffer = zeros 32 :: [1 :: zeros 31] ∧ ([1 :: zeros 31].head?.map (leAt 0 2)) = some 1 ∧ due.log.writer < 524288
    ∧ (([] : List (List Byte)).head?.map (leAt 0 2)) ≠ some 1 ∧ running.log.buffer = [] ∧ logAlive State.reset = false
    ∧ due.log.dropped = 0 ∧ definedCodes.contains 0x0004 = true ∧ exemptCodes.contains 0x0004 = false
    ∧ refillMs (bucketOf due 0x0004) ≤ refillAge due (bucketOf due 0x0004) ∧ refillAge State.reset (bucketOf State.reset 0x0004) < refillMs (bucketOf State.reset 0x0004) := by
  decide +kernel

/-! ## Errors, repair and resets -/

theorem witness_errors : powered running = true ∧ strandOk [0, 0, 2] = true ∧ strandOk [0] = true ∧ (clockStrands (.island 0)).length ≠ 0 ∧ running.pwr.refclk = true
    ∧ logAlive running = true
    ∧ (({ running with str := { running.str with recorded := [(strandId [0, 1], 0, 7)] } } : State).str.recorded.find? fun r =>
        r.1 == strandId [0, 1] && r.2.1 == 0) = some (strandId [0, 1], 0, 7)
    ∧ strandOk [5, 1, 3] = true ∧ fenced running [5, 1, 3] = false ∧ admitted running [5, 1, 3] = true ∧ underReset running [5, 1, 3] = false := by
  decide +kernel

/-- An entry of the tracker, of the present generation of context 1. -/
def entry (q : Req) : Entry :=
  { epoch := 2, ctx := 1, gen := 5, strand := sXE 0, sgen := 0, issueMs := 950, uid := 11, req := q, row := 0, off := 0, len := 64, pa := 0x210000
    data := [], poison := [] }

def tracking (e : Entry) : State := { running with trk := { running.trk with entries := [(7, e)] } }

def genResetting : State :=
  { running with jobs := [newJob running 11 (asOp 0x0A04 pStrReset) (.genReset [0, 4, 0] 950 0)] }

theorem witness_generation_reset : workOf genResetting 11 = some (.genReset [0, 4, 0] 950 0)
    ∧ (genResetting.trk.entries.any fun kv => earlierEntries genResetting [0, 4, 0] kv.2) = false
    ∧ (let s : State := { genResetting with trk := { running.trk with entries := [(7, { entry .memRead with sgen := 0xFF })] } }
       s.trk.entries.any (fun kv => earlierEntries s [0, 4, 0] kv.2) = true ∧ 50 ≤ (s.clk.uptimeMs - 950).toNat) := by decide +kernel

theorem witness_destroy : (let s : State := { running with jobs := [newJob running 11 (asOp 0x0111 pCtxDestroy) (.ctxDestroy 1 950)] }
    workOf s 11 = some (.ctxDestroy 1 950) ∧ windowsIdle s 1 = true ∧ entriesGone s 1 = true ∧ startedDone s 1 = true
      ∧ 50 ≤ (s.clk.uptimeMs - 950).toNat) := by decide +kernel

theorem witness_reset_phases : ([2, 3, 4, 5, 6].all fun n => decide ((resetting n sIZ).rst.phase = n) && (resetting n sIZ).rst.run.isSome) = true
    ∧ (resetting 2 sIZ).capt.cur = none ∧ takenUids (resetting 3 sIZ) = [] ∧ takesIz [1] = false
    ∧ drainBound (resettingRun sIZ) (resetting 4 sIZ) ≤ ((resetting 4 sIZ).clk.uptimeMs - (resettingRun sIZ).phaseMs).toNat
    ∧ ((resetting 4 sIZ).trk.entries.filter fun kv => outstandingFor (resetting 4 sIZ) sIZ kv.2) = []
    ∧ 50 ≤ ((resetting 4 sIZ).clk.uptimeMs - 940).toNat ∧ (resetting 5 []).pwr.sysResetLow = false ∧ sIZ ≠ [] := by decide +kernel

def captureAtWork : Capture :=
  { cause := 1, named := 0, spans := false, oldest := 0, target := 0, trigMs := 900, inSnarl := [] }

def capturing : State := { running with capt := { running.capt with ctl := 1, cur := some captureAtWork } }

theorem witness_captures : alive running = true ∧ dispatcherReset running = false ∧ running.snarl.declared = none ∧ capturing.capt.cur.isSome = true
    ∧ capturing.capt.ctl.getLsbD 0 = true ∧ alive capturing = true ∧ barUp running = true := by decide +kernel

theorem witness_replies : ([Req.memRead, .memWrite, .hostRead].all fun q =>
      let s := tracking (entry q)
      s.str.armed.isEmpty && decide (entryFor s 7 2 = some (entry q)) && !heldByRemap s (entry q).pa (entry q).len && entryCurrent s (entry q)) = true
    ∧ entryFor (tracking (entry .memRead)) 7 3 = none ∧ 50 ≤ ((tracking (entry .memRead)).clk.uptimeMs - (entry .memRead).issueMs).toNat
    ∧ entryCurrent (tracking { entry .memRead with gen := 4 }) { entry .memRead with gen := 4 } = false := by decide +kernel

/-! ## Messages, links and the splice -/

/-- Message bytes that wait on link 0 in a virtual channel. -/
def delivered (v : Nat) (b : List Byte) : State :=
  { running with lnk := { running.lnk with inbox := [{ link := 0, vc := v, localOnly := true, bytes := b }] } }

theorem witness_messages : ([(0x01, 0), (0x02, 0), (0x03, 0), (0x04, 0), (0x80, 1), (0x81, 1), (0x82, 1), (0x05, 3), (0x85, 3)].all fun k =>
      let b := msgBytes { blankMsg with kind := BitVec.ofNat 8 k.1 }
      (takeArrival 0 k.2 b (delivered k.2 b)).isSome) = true
    ∧ oldestWrite (delivered 0 (msgBytes { blankMsg with kind := 1 })) 0 { blankMsg with kind := 1 } = true := by decide +kernel

def sending : State :=
  updVc 0 1 (fun c => { c with txAvail := 4, txq := [{ dest := 3, hops := 0, localOnly := false, bytes := zeros 32, origin := none }] }) running

theorem witness_send : vcReady sending 0 1 = true ∧ vcReady sending 0 2 = false ∧ mayFlit sending 0 = true ∧ nextVc sending 0 = some 1
    ∧ ((linkOf sending 0).vcs.getD 1 Vc.initial).txq.length = 1
    ∧ (let c := (linkOf (startSend 0 1 sending) 0).vcs.getD 1 Vc.initial
       c.tx ≠ none ∧ c.txq = [] ∧ c.txAvail = 3) := by decide +kernel

/-- A flit of a type without a message start, without payload. -/
def flit (t : Nat) : List Byte :=
  let b := leBytes 14 (2 ^ 85 * t) ++ zeros 238
  b ++ leBytes 4 (crc32 b)

theorem witness_flits : linkOpen running 0 = true
    ∧ ([0, 1, 2, 3].all fun t => flitOk (flit t) && flitRules (flit t) && decide (flitField (flit t) 87 85 = t)) = true
    ∧ flitOk (zeros 256) = false ∧ flitOk (flit 5) = true ∧ flitRules (flit 5) = false := by decide +kernel

theorem witness_training : mayTrain running 1 = true ∧ 1 < running.lnk.links.length ∧ (linkOf running 1).state = .down
    ∧ (let s := updLink 1 (fun k => { k with state := .training }) running
       (linkOf s 1).state = .training ∧ fenced s (sL 1) = false ∧ mayTrain s 1 = true)
    ∧ (linkOf running 0).state = .up := by decide +kernel

/-- A splice message for bucket 0 of plan 0. -/
def splMsgOf (k : Nat) : SplMsg := { blankSpl with kind := BitVec.ofNat 8 k, tag := 7, step := 5, jobKey := 77 }

theorem witness_splice_messages : ([0, 1, 2, 3].all fun k =>
      let bytes := splBytes (splMsgOf k)
      let w := splOf bytes
      match takeArrival 0 2 bytes (delivered 2 bytes) with
      | some (_, t) => decide (phaseAt t sIZ < 3) && decide (splMatch t w.tag.toNat = some (0, 0)) && (bktOf t 0 0).isSome
          && ((planOf t 0).any fun x => splNames x w)
      | none => false) = true := by decide +kernel

/-- Plan 0 with its bucket changed. -/
def splicing (f : Bkt → Bkt) : State := { running with spl := { plans := [(0, plan true (f (bucket 7 .active)))], order := [0] } }

theorem witness_activation : (activation (splicing fun b => { b with state := .armed }) 0).isSome = true := by decide +kernel

theorem witness_local_read : (let s := splicing fun b => { b with startContrib := false }
    match planOf s 0, bktOf s 0 0 with
    | some x, some b => mayRead x b 0 && (readElems s x (chunkVa b b.gVa 0) (chunkSpan b 0).2.2).isOk
    | _, _ => false) = true
    ∧ (let s := splicing fun b => { b with startContrib := false, gVa := 0x40000000 }
    match planOf s 0, bktOf s 0 0 with
    | some x, some b => mayRead x b 0 && !(readElems s x (chunkVa b b.gVa 0) (chunkSpan b 0).2.2).isOk
    | _, _ => false) = true := by decide +kernel

/-- The low-rank bucket of 8 by 8 at rank 2 before a local step. -/
def lowRank (n : Nat) (f : List Nat) : State :=
  splicing fun b => { b with lowrank := true, rank := 2, startContrib := false, lrStep := n, finals := f }

theorem witness_lowrank : ([(0, []), (1, []), (2, [0]), (4, []), (5, [0, 1]), (7, [])].all fun k =>
      let s := lowRank k.1 k.2
      match planOf s 0, bktOf s 0 0 with
      | some x, some b => lrDue x 0 b && !outOfUse s sIZ && lrServes s b && inGrant (ctxOf s x.owner) x.spWork (lrPad b) && (!lrOnArray b || lrTurn s x)
      | _, _ => false) = true := by decide +kernel

/-- Level C is lost, or the grant was taken away, between two steps. -/
theorem witness_lowrank_ends : ([0, 1].all fun k =>
      let s : State := { lowRank k [] with str := { running.str with held := 0x17 } }
      let t : State := { lowRank k [] with ctxs := [(1, { ctx1 with nBanks := 0 })] }
      match planOf s 0, bktOf s 0 0 with
      | some x, some b => lrDue x 0 b && !outOfUse s sIZ && !lrServes s b && !outOfUse t sIZ && lrServes t b && (!lrOnArray b || lrTurn t x)
          && !inGrant (ctxOf t x.owner) x.spWork (lrPad b)
      | _, _ => false) = true := by decide +kernel

def sentSlot : Slot :=
  { chunk := 0, taken := [255], elems := [], checks := [], poison := [], count := 1, devSum := 0, checkFail := false, partialSum := false
    missing := none, sent := true }

theorem witness_release : (let s := splicing fun b => { b with slots := [sentSlot] }
    match planOf s 0, bktOf s 0 0 with
    | some x, some b => b.state == .active && (slotAt b 0).any Slot.sent && !waitsForLink s x b 0
    | _, _ => false) = true := by decide +kernel

theorem witness_splice_timeouts : (let s := splicing id
    match planOf s 0, bktOf s 0 0 with
    | some x, some b => b.state == .active && !(undelivered (routeOf x b) b).isEmpty && decide ((routeOf x b).waitMs ≤ elapsedMs s b.activeMs)
    | _, _ => false) = true
    ∧ (let s : State := { running with spl := { plans := [(0, { plan true { bucket 7 .active with sentLastMs := some 0 } with
         routes := [{ routeSet with tail := false }] })], order := [0] } }
    match planOf s 0, bktOf s 0 0 with
    | some x, some b => b.state == .active && b.sentLastMs == some 0 && !(routeOf x b).tail && decide (b.finals.length ≠ chunksOf b)
        && decide ((routeOf x b).finalMs ≤ elapsedMs s 0)
    | _, _ => false) = true := by decide +kernel

/-! ## The management port -/

def listening : State := { running with mgt := { running.mgt with i3cAddr := some 0x48, eid := some 9 } }
def updating (p : Pldm) : State := { listening with mgt := { listening.mgt with pldm := p } }

theorem witness_management : portUp running = true ∧ running.mgt.i3cAddr = none ∧ Listening listening ∧ Serving listening
    ∧ Serving (updating .learn) ∧ Serving (updating .ready) ∧ Serving (updating (.download 1024 0)) ∧ Serving (updating .activate)
    ∧ portUp (updating (.verify 16)) = true ∧ portUp (updating .apply) = true ∧ stagingBusy listening = false
    ∧ stagingBusy { listening with fw := { listening.fw with staging := .pldm } } = true ∧ pldmCode .apply = 5 ∧ pldmCode (.download 1 0) = 3
    ∧ boardUp running = true ∧ running.pwr.phase ≠ .tripped ∧ 1 ≤ running.str.phasesDone := by
  unfold Serving Listening
  decide +kernel

/-! ## Memory and round trips -/

theorem witness_memory : cellsWf 0 running.mem.cells = true ∧ running.mem.loose = [] ∧ running.mem.damaged = [] ∧ running.str.armed = []
    ∧ [region 0, region (2 ^ 41 - 1), region 0x20000000000, region (paNEnd - 1), region paScratch, region (paScratchEnd - 1)]
      = [.tierH, .tierH, .tierN, .snapshot, .scratch, .scratch] ∧ Memory.wf running = true
    ∧ running.arr.splitReq.toNat ≤ 16 ∧ running.arr.splitApplied.toNat ≤ 16 ∧ running.mem.tsChannels.length = 12 := by decide +kernel

/-- A write, a read request and a splice message of one element: what is read back from their bytes. -/
theorem test_message_bytes : ([{ blankMsg with kind := 1, offset := 0x123456789A, xferTag := 7, poison := [true, false], data := [1, 2, 3, 4, 5, 6, 7, 8, 9] },
      { blankMsg with kind := 2, winId := 0x1FFF, winEpoch := 3, lenVal := 4096 }].all fun m => msgOf (msgBytes m) == m) = true
    ∧ (let m : SplMsg := { splMsgOf 0 with valid := 1, poison := [true], elems := [0x3F800000], checks := [9], count := 3, devSum := 5 }
       splOf (splBytes m) = m)
    ∧ parsePacket pHchAdd.issuer (packetBytes (asOp 0x0202 pHchAdd)) = asOp 0x0202 pHchAdd := by decide +kernel

/-! ## Results that the spec's worked examples give, and a few worked by hand -/

/-- `MB2/H09/PC17` and `IZ/ARR/ROW/037` (R25). -/
theorem test_strand_ids : strandId (sPC 9 17) = 0x3030111000000000 ∧ strandId (sROW 37) = 0x4000000250000000
    ∧ strandOf 0x3030111000000000 = some (sPC 9 17) ∧ strandOf 0x8000000000000000 = none := by decide +kernel

/-- L1 index 0x200, L2 index 0x100, L3 index 0x103, L4 index 5. -/
def walked (l3 l4 : Nat) : Except AFault Leaf :=
  let s := physPut 0x101000 (leBytes 8 0x140001) running
  let s := physPut 0x140800 (leBytes 8 0x150001) s
  let s := physPut 0x150818 (leBytes 8 l3) s
  let s := physPut 0x160028 (leBytes 8 l4) s
  translate s 1 0x1004020651234 false

theorem test_walk : (walked 0x160001 0x3000003).toOption = some { host := false, pasid := none, wr := false, addr := 0x3001234 }
    ∧ (walked 0x20000400003 0).toOption = some { host := false, pasid := none, wr := false, addr := 0x20000451234 }
    ∧ (match walked 0x160001 0 with
      | .error f => decide (f.status = stFLT_ACCESS) && decide (f.cause = 1) && decide (f.res.cnt0 = 0x20651234) && decide (f.res.cnt1 = 0x01010040)
      | .ok _ => false) = true := by decide +kernel

/-- Offset 0x1_2345 of a grant of 12 banks from bank 16 (R204). -/
theorem test_grant_address : grantPa { noCtx with firstBank := 16, nBanks := 12 } 0x12345 = 0x080005801845 := by decide +kernel

/-- 0x0001_2345_6789 with group 4 interleaved and stacked (R237). -/
theorem test_tier_h : tierHLocate [] 0x123456789 = (6, 23, 145, 0xA289) ∧ (tierHLocate [4] 0x123456789).1 = 8
    ∧ (tierHLocate [4] 0x123456789).2.1 = 7 ∧ (tierHLocate [4] 0x123456789).2.2.1 = 154 := by decide +kernel

/-- Rounding to BF16, ties to even; past the largest it saturates (R92). -/
theorem test_bf16 : ([0x3F808000, 0x3F818000, 0x7F7FF000] : List Word).map (fun w => ((cvtEl fmtBF16 0 (b32 w)).bits, (cvtEl fmtBF16 0 (b32 w)).sat))
    = [(0x3F80, false), (0x3F82, false), (0x7F7F, true)] := by decide +kernel

/-- The JIT block of R102's example: 1,000.0, 3.3, 0.01 and −0.003 at the scale 2². -/
theorem test_jit_block : (let r := writeBlock fmtE4M3 false 0 0 ([0x408F400000000000, 0x400A666666666666, 0x3F847AE147AE147B, 0xBF689374BC6A7EFA].map b64)
    (r.1.map El.bits, r.2, r.1.any El.sat)) = ([0x78, 0x35, 0x01, 0x80], 0x0081, false) := by decide +kernel

/-- The DELAYED block of R103's example, at two writes. -/
theorem test_delayed_block : (let r := writeBlock fmtE4M3 false 1 0x4A82 ([3900, 3700].map fvOfNat)
      (r.1.map El.bits, r.1.map El.sat, r.2)) = ([0x7E, 0x7E], [true, false], 0x4182)
    ∧ (let r := writeBlock fmtE4M3 false 1 0x4182 [fvOfNat 3950]
      ((cvtEl fmtE4M3 4 (fvOfNat 3950)).val, r.1.any El.sat, r.2)) = ((cvtEl fmtE4M3 4 (fvOfNat 3840)).val, false, 0x4083) := by decide +kernel

/-- One run of 64 of R161's example: the 1.0 first, and the 1.0 last. -/
def exampleRun (first : Bool) : FV :=
  let big : AEl × BEl := ({ skip := false, v := b32 0x3F800000, poison := false }, { kept := true, v := b32 0x3F800000, poison := false })
  let small : AEl × BEl := ({ skip := false, v := b32 0x3B000000, poison := false }, { kept := true, v := b32 0x3B800000, poison := false })
  (accumulate { kind := .mma, w := 1, l := 64, s := 65536, k := 64 } 0 fv0
    (if first then big :: List.replicate 63 small else List.replicate 63 small ++ [big])).total

theorem test_run : toB32 (exampleRun true) = 0x3F800000 ∧ toB32 (exampleRun false) = 0x3F801000 := by decide +kernel

/-- The comparison terms of R180's example. -/
theorem test_comparison : toB32 (cellTerm .sqdiff (b32 0x3F800000) (b32 0x3F810000)).1 = 0x38800000
    ∧ toB32 (cellTerm .sqdiff (b32 0x3F800000) (b32 0x43800000)).1 = 0x477E0100
    ∧ cellTerm .maxplus (b32 0x7F000000) (b32 0x7F000000) = (.inf false, false) := by decide +kernel

/-- Rows 192 and up come into the map as others fail (R138 to R142). -/
theorem test_array_map : (let w := fun (gone : List Nat) => (List.range 200).filter fun n => !gone.contains n
    ((shapeSize (w []) (w []), whipLanes (w []) ((w []).take 192), sparesUsed ((w []).take 192)),
     (sparesUsed ((w [37]).take 192), whipLanes (w [37]) ((w [37]).take 192)),
     (sparesUsed ((w [1, 2, 3, 4, 5, 6, 37]).take 192), whipLanes (w [1, 2, 3, 4, 5, 6, 37]) ((w [1, 2, 3, 4, 5, 6, 37]).take 192)),
     shapeSize (w [1, 2, 3, 4, 5, 6, 7, 8, 37]) (w []), ((w [1, 2, 3, 4, 5, 6, 7, 8, 37]).take 160).getLast?))
    = ((192, [199, 198], 0), (1, [199, 198]), (7, []), 160, some 168) := by decide +kernel

/-- The routing of R190's example. -/
theorem test_route : (let sel := [1, 0, 1, 2, 1, 0, 0, 1, 2, 1, 1, 2]
    let r := routePicks 6 3 3 2 sel
    (r.rows, r.dropped, rowBases r, totalRows r, routeInverse 6 2 r, allDropped 6 2 3 sel (routeInverse 6 2 r)))
    = ([[(3, 0), (0, 1), (2, 1)], [(0, 0), (1, 0), (2, 0)], [(4, 0), (1, 1), (5, 1)]], [0, 3, 0], [0, 192, 384], 576,
       [192, 1, 193, 385, 194, 2, 0, noRow, 384, noRow, noRow, 386], 0) := by decide +kernel

/-- The sum 3.0 + 1.75 × 2⁻²² of R276's example, and its check field. -/
theorem test_splice_add : addEl 0x40400000 0x34E00000 = 0x40400002 ∧ predict 0x40400000 0x34E00000 12 14 = 14 ∧ checkField 0x40400002 = 0b11110 ∧ checkOk 0x40400002 0b11110 = true
    ∧ checkOk 0x40400003 0b11110 = false := by decide +kernel

/-- CRC-64/ECMA-182 of "123456789" (R311). -/
theorem test_crc64 : crc64 0 ([0x31, 0x32, 0x33, 0x34, 0x35, 0x36, 0x37, 0x38, 0x39] : List Byte) = 0x6C40DF5F0B497347 := by decide +kernel

/-- Group 7 of R307's example. -/
def adam : TklGroup :=
  { group with gflags := 0x0F, b1 := 0x3F600000, c1 := 0x3E000000, b2 := 0x3F7FC000, c2 := 0x3A800000, am := 0x3F800000, ag := 0, ap := 0x3C000000
               eps := 0x35800000, t := 0, p1 := 0x3FF0000000000000, p2 := 0x3FF0000000000000, eta := 0x3A800000 }

theorem test_adam : (let g := groupBegin adam
    let lane := laneParam g (biasOf g.bcM g.p1) (biasOf g.bcV g.p2)
    (g.t, lane 0x3F800000 0 0 (b32 0x3F000000), lane 0x3F800000 0 0xB9800000 (b32 0x3F000000), (cvtEl fmtBF16 0 (b32 0x3F7FBF80)).bits))
    = (1, ((0x3F7FBF80, 0x3D800000, 0x39800000), true), ((0x3F800000, 0, 0xB9800000), true), 0x3F80) := by decide +kernel

/-- Transfers of the 10 MiB copy of R222: 2 KiB each where source and destination boundaries alternate, 4 KiB where they agree. -/
theorem test_copy_pieces : xferLen (newXfer (.va 0x40001800) (.va 0x90000000) 1 (10 * 2 ^ 20) 0 0 false) 0 (2 ^ 20) = 2048
    ∧ xferLen (newXfer (.va 0x40001800) (.va 0x90000000) 1 (10 * 2 ^ 20) 0 0 false) 2048 (2 ^ 20) = 2048
    ∧ xferLen (newXfer (.va 0x40002000) (.va 0x90000000) 1 (10 * 2 ^ 20) 0 0 false) 0 (2 ^ 20) = 4096 := by decide +kernel

/-- e, ln 2, tanh 1 and 1 / (1 + 1/e) in binary32 (R213). -/
theorem test_functions : [toB32 (fexp fpB32 (fvOfNat 1)), toB32 (flog fpB32 (fvOfNat 2)), toB32 (ftanh fpB32 (fvOfNat 1)), toB32 (fsigmoid fpB32 (fvOfNat 1))]
    = [0x402DF854, 0x3F317218, 0x3F42F7D6, 0x3F3B26A8] := by decide +kernel

/-- HCH.ADD of 7 to 3, and of 7 to 2⁶⁴ − 4, which wraps and is flagged (R71). -/
theorem test_hitch_add : ([3, 0xFFFFFFFFFFFFFFFC] : List DWord).map (fun v =>
      match execHchAdd pHchAdd { running with hitches := [(10, { value := v, owner := some 1, regs := [] })] } with
      | .next t => ((hitchOf t 10).value, (t.jobs.getLast?.bind Job.res).map fun r => (r.status, r.cnt0, r.cnt1))
      | _ => (0, none)) = [(10, some (stOK, 10, 0)), (3, some (stFLAGGED, 3, 0))] := by decide +kernel

/-- Rows of 1.0 + 2.0 and of 4.0 + −4.0 by VEC.MAP. -/
theorem test_vec_map :
    (match execVecMap pVecMap (poke 0x1000 (words [0x3F800000, 0x40800000]) (poke 0x2000 (words [0x40000000, 0xC0800000]) running)) with
      | .next t => ((vaRead t reachHN 1 0x3000 8).toOption.map (List.map Prod.fst), (t.jobs.getLast?.bind Job.res).map Result.status)
      | _ => (none, none)) = (some (leBytes 4 0x40400000 ++ zeros 4), some stOK) := by decide +kernel

/-! ## Ill-formed terms, one for each check (R24, R48, R49, R58, R273, R345) -/

/-- LENGTH 2 says four parameter words; here are none. -/
def badPacket : Packet := { pCtlNop with length := 2 }

/-- A splice message of one element too many. -/
def longSplMsg : SplMsg := { blankSpl with valid := 257 }

theorem smoke_packets_refused : [
    (Instr.ctlNop badPacket), (Instr.ctlBarrier badPacket), (Instr.ctxCreate badPacket), (Instr.ctxDestroy badPacket), (Instr.ctxMap badPacket), (Instr.ctxUnmap badPacket),
    (Instr.qCreate badPacket), (Instr.qDestroy badPacket), (Instr.hchSignal badPacket), (Instr.hchAdd badPacket), (Instr.hchWait badPacket), (Instr.hchRead badPacket),
    (Instr.hchProducer badPacket), (Instr.hchRemoteSignal badPacket), (Instr.xfrCopy badPacket), (Instr.xfrCopy2d badPacket), (Instr.xfrFill badPacket), (Instr.xfrPrefetch badPacket),
    (Instr.xfrRemoteWrite badPacket), (Instr.xfrRemoteRead badPacket), (Instr.xfrWindowGrant badPacket), (Instr.xfrWindowRevoke badPacket), (Instr.arrMma badPacket), (Instr.arrMmaPacked badPacket),
    (Instr.arrDist badPacket), (Instr.accSave badPacket), (Instr.accResume badPacket), (Instr.vecMap badPacket), (Instr.vecReduce badPacket), (Instr.vecSoftmax badPacket),
    (Instr.vecNorm badPacket), (Instr.vecConvert badPacket), (Instr.vecQuant badPacket), (Instr.vecOrtho badPacket), (Instr.vecSummary badPacket), (Instr.gsxGather badPacket),
    (Instr.gsxScatter badPacket), (Instr.gsxRoute badPacket), (Instr.rnkTopk badPacket), (Instr.attSelect badPacket), (Instr.attFwd badPacket), (Instr.attBwd badPacket),
    (Instr.splPlan badPacket), (Instr.splOpen badPacket), (Instr.splContrib badPacket), (Instr.splLowrank badPacket), (Instr.splClose badPacket), (Instr.splStatus badPacket),
    (Instr.tklCoef badPacket), (Instr.tklStepsize badPacket), (Instr.tklMask badPacket), (Instr.tklNorm badPacket), (Instr.tklStep badPacket), (Instr.tklLoad badPacket),
    (Instr.tklStore badPacket), (Instr.tklDigest badPacket), (Instr.ttlBind badPacket), (Instr.ttlRead badPacket), (Instr.ttlReset badPacket), (Instr.strQuery badPacket),
    (Instr.strFence badPacket), (Instr.strReset badPacket), (Instr.strInject badPacket), (Instr.strRepairCommit badPacket), (Instr.strService badPacket), (Instr.logMark badPacket),
    (Instr.logRead badPacket), (Instr.logLimit badPacket), (Instr.secIdent badPacket), (Instr.secAttest badPacket), (Instr.secFwActivate badPacket), (Instr.arrSelftest badPacket)].all (fun i => !i.wf) = true := by decide +kernel

theorem smoke_issuer_refused : (Instr.ctlNop { pCtlNop with issuer := .queue 16384 }).wf = false ∧ (Instr.ctlNop pCtlNop).wf = true := by decide +kernel

theorem smoke_events_refused : [
    (Instr.strUnfence badPacket false), (Instr.secFwStage badPacket true), (Instr.doorbellWrite 0 2 0 noNews),
    (Instr.packetFetch 16384 noNews), (Instr.hchWaitTimeout 16384), (Instr.arraySchedule [(200, 0)] []),
    (Instr.arraySchedule [] [[256]]), (Instr.tileDrain [{ row := 0, col := 200, total := 0 }]), (Instr.msgWrite 33 blankMsg),
    (Instr.msgReadReq 33 blankMsg), (Instr.msgHitchOp 33 blankMsg), (Instr.msgWindowRevoke 33 blankMsg),
    (Instr.msgAck 33 blankMsg), (Instr.msgReadData 0 { blankMsg with data := zeros 4097 }), (Instr.msgReadData 0 { blankMsg with data := zeros 16, poison := [true] }),
    (Instr.msgNeg 33 blankMsg), (Instr.msgMgtReq 33 false blankMsg), (Instr.msgMgtRsp 33 blankMsg),
    (Instr.msgSend 0 4), (Instr.flitData 0 (zeros 255)), (Instr.flitIdle 32 (zeros 256)),
    (Instr.flitNak 0 (zeros 255)), (Instr.flitCreditAudit 0 (zeros 255)), (Instr.flitTrain 0 none 0 [5] 0),
    (Instr.linkRetrainEnd 32 true), (Instr.laneSymbolLimit 0 5), (Instr.splMsgRun 0 longSplMsg []),
    (Instr.splMsgFinal 0 longSplMsg), (Instr.splMsgGrant 0 longSplMsg), (Instr.splMsgAbandon 0 longSplMsg),
    (Instr.splBucketActivate 16), (Instr.splLocalRead 16 0 0 [])].all (fun i => !i.wf) = true := by decide +kernel

theorem smoke_steps_refused : [
    (Instr.splLowrankStep 16 0), (Instr.splSlotRelease 16 0 0), (Instr.splWaitTimeout 16 0),
    (Instr.splFinalTimeout 16 0), (Instr.tklBlockUpdate 0 68 false), (Instr.trackerTimeout 262144),
    (Instr.pcieCompletionTimeout 262144), (Instr.hostCompletion 262144 0 (.data false) noNews), (Instr.memoryReply 262144 0 .clean),
    (Instr.errorEvent [] 16 .none), (Instr.railFault [0, 0, 0, 0, 0, 0, 0, 0] 0 false), (Instr.stickyRearm [] 16),
    (Instr.blockRemapDone [256] 0), (Instr.unitRedirectDone [256]), (Instr.patrolScrub [256] 0 .clean),
    (Instr.clockLoss (.island 236)), (Instr.captureDone [{ strand := [256], samples := [] }]), (Instr.routingWrite 0 3 0),
    (Instr.apertureWrite 0 3 0), (Instr.regWrite 0 3 0), (Instr.bar4Read 0 0),
    (Instr.bar4Write 0 [] false), (Instr.msixUnmask 2048), (Instr.startupHost [5]),
    (Instr.startupPower { rails := [148], islands := [] }), (Instr.startupTrain [[256]]), (Instr.startupTest [] [([256], 0)]),
    (Instr.startupPhaseTimeout [256]), (Instr.packetReq 0x1AB4 0 0 (List.replicate 65 0)), (Instr.frameAlignmentLoss 32),
    (Instr.jtagPrivateInstruction (.haltCore 5)), (Instr.jtagPrivateInstruction (.burnRemoval [256]))].all (fun i => !i.wf) = true := by decide +kernel

theorem smoke_accepted : [Instr.hchAdd pHchAdd, .doorbellWrite 0x8014 4 1 noNews, .arraySchedule [(199, 199)] [[1, 3, 2]], .msgWrite 32 blankMsg,
    .flitIdle 31 (zeros 256), .splMsgRun 0 { longSplMsg with valid := 256 } [], .tklBlockUpdate 0 67 false, .memoryReply 262143 0 .corrected,
    .msixUnmask 2047, .jtagPrivateInstruction (.haltCore 4)].all (fun i => i.wf) = true := by decide +kernel

end Sys2Proof.Tests
end

section
/-! PROOFS. The header of a packet (R49 to R51): which faults give which rejection. -/

namespace Sys2Proof.Machine

/-- An opcode that fails is the rejection, whatever else is wrong (R83). -/
theorem verdict_status_of_opcode {k : Checks} (h : k.opcode = true) : (verdict k).map Result.status = some stREJ_OPCODE := by
  rw [verdict, if_pos h]
  rfl

/-- A word held against the parameters is the rejection, where the opcode stands (R83). -/
theorem verdict_status_of_param {k : Checks} (h : k.opcode = false) (hp : k.param ≠ []) :
    (verdict k).map Result.status = some stREJ_PARAM := by
  rw [verdict, if_neg (by simp [h]), if_pos (by simpa using hp)]
  rfl

@[simp] theorem badIf_eq_nil {c : Bool} {w : Nat} : badIf c w = [] ↔ c = false := by cases c <;> simp [badIf]

/-- An opcode outside the table is a bad one, whoever issued the packet (R355). -/
theorem opcodeBad_of_unlisted {p : Packet} (h : opLength p.opcode.toNat = none) : opcodeBad p = true := by simp [opcodeBad, h]

/-- A header with no offending word keeps R49 to R51: no reserved bit, the opcode's LENGTH, LONG as LENGTH says, and BATCHABLE on ARR.MMA only. -/
theorem header_of_headerBad_nil {s : State} {p : Packet} (h : headerBad s p = []) :
    p.flags.toNat / 64 = 0 ∧ p.rsvd = 0 ∧ opLength p.opcode.toNat = some p.length.toNat
      ∧ hasFlag p flLONG = decide (4 < p.length.toNat) ∧ (hasFlag p flBATCHABLE = true → p.opcode = 0x0401) := by
  simp only [headerBad, List.append_eq_nil_iff, badIf_eq_nil, bne_eq_false_iff_eq, decide_eq_false_iff_not, Classical.not_not] at h
  obtain ⟨⟨⟨⟨⟨⟨hflags, hrsvd⟩, -⟩, hlong⟩, hlen⟩, hbatch⟩, -⟩ := h
  refine ⟨hflags, hrsvd, hlen, hlong, fun hb => BitVec.eq_of_toNat_eq ?_⟩
  simpa [hb] using hbatch

end Sys2Proof.Machine

namespace Sys2Proof

open Machine

/-- Settles O5: the header's checks give one of the two classes of R83 that its faults belong to. -/
theorem headerFaultsAreRejected : Obligations.HeaderFaultsAreRejected := by
  intro s p
  refine ⟨fun h => verdict_status_of_opcode (opcodeBad_of_unlisted h), fun hop fault => verdict_status_of_param hop fun hnil => ?_⟩
  obtain ⟨hflags, hrsvd, hlen, hlong, hbatch⟩ := header_of_headerBad_nil hnil
  rcases fault with f | f | f | f | ⟨hb, f⟩
  · exact f hflags
  · exact f hrsvd
  · exact f hlen
  · rw [hlong, decide_eq_decide] at f
    omega
  · exact f (hbatch hb)

end Sys2Proof
end

section
/-! PROOFS. Rejected packets (R9, R83): a run function that answers what its checks reject makes a command that only answers. -/

namespace Sys2Proof.Machine

open Safety

theorem runNow_rejected (checks : State → Packet → Checks) (effect : Packet → State → State × Result) (uid : Nat) (p : Packet) (s : State)
    (r : Result) (h : verdict (checks s p) = some r) : runNow checks effect uid p s = answerAtOnce uid p r s := by simp [runNow, h]

theorem runUnmap_rejected (uid : Nat) (p : Packet) (s : State) (r : Result) (h : verdict (unmapChecks s p) = some r) :
    runUnmap uid p s = answerAtOnce uid p r s := by rw [runUnmap, h]

theorem runWait_rejected (uid : Nat) (p : Packet) (s : State) (r : Result) (h : verdict (waitChecks s p) = some r) :
    runWait uid p s = answerAtOnce uid p r s := by rw [runWait, h]

theorem runClose_rejected (uid : Nat) (p : Packet) (s : State) (r : Result) (h : verdict (closeChecks s p) = some r) :
    runClose uid p s = answerAtOnce uid p r s := by rw [runClose, h]

theorem runStep_rejected (uid : Nat) (p : Packet) (s : State) (r : Result) (h : verdict (stepChecks s p) = some r) :
    runStep uid p s = answerAtOnce uid p r s := by rw [runStep, h]

/-- A command that takes its packet up for a run function which answers every rejection of its checks only answers a rejected packet. -/
theorem rejectsOnly_of_run {mk : Packet → Instr} {op : Nat} {run : Nat → Packet → State → State} {checks : State → Packet → Checks}
    (takes : ∀ p s, exec (mk p) s = .next (met s (takeUp op run p s)))
    (answers : ∀ uid p s r, verdict (checks s p) = some r → run uid p s = answerAtOnce uid p r s) : RejectsOnly mk op checks := by
  intro p s r ready rejected
  rw [takes, takeUp_ready op run p s ready, answers _ _ _ r rejected]

/-- A command whole in one step. -/
theorem rejectsOnly_of_runNow {mk : Packet → Instr} {op : Nat} {checks : State → Packet → Checks} {effect : Packet → State → State × Result}
    (takes : ∀ p s, exec (mk p) s = .next (met s (takeUp op (runNow checks effect) p s))) : RejectsOnly mk op checks :=
  rejectsOnly_of_run takes (runNow_rejected checks effect)

/-- A command whose operands stream through the tracker. -/
theorem rejectsOnly_of_runTracked {mk : Packet → Instr} {op : Nat} {st : Strand} {virt : Packet → Bool} {checks : State → Packet → Checks}
    {effect : Packet → State → State × Result}
    (takes : ∀ p s, exec (mk p) s = .next (met s (takeUp op (runTracked st virt checks effect) p s))) : RejectsOnly mk op checks :=
  rejectsOnly_of_run takes (runTracked_rejected st virt checks effect)

/-- A transfer. -/
theorem rejectsOnly_of_runXfer {mk : Packet → Instr} {op : Nat} {param : State → Packet → List Nat} {make : Packet → Xfer} {remote : Bool}
    (takes : ∀ p s, exec (mk p) s = .next (met s (takeUp op (runXfer param make remote) p s))) :
    RejectsOnly mk op (xferChecks param make remote) :=
  rejectsOnly_of_run takes (runXfer_rejected param make remote)

end Sys2Proof.Machine

namespace Sys2Proof

open Machine

/-- Settles O4, command by command, by the kind of run function that takes its packet up. -/
theorem rejectedPacketsOnlyAnswer : Obligations.RejectedPacketsOnlyAnswer := by
  unfold Obligations.RejectedPacketsOnlyAnswer
  exact
    ⟨rejectsOnly_of_runNow fun _ _ => rfl,                     -- CTX.CREATE
     rejectsOnly_of_run (fun _ _ => rfl) runUnmap_rejected,    -- CTX.UNMAP
     rejectsOnly_of_runNow fun _ _ => rfl,                     -- Q.CREATE
     rejectsOnly_of_runNow fun _ _ => rfl,                     -- HCH.SIGNAL
     rejectsOnly_of_runNow fun _ _ => rfl,                     -- HCH.ADD
     rejectsOnly_of_run (fun _ _ => rfl) runWait_rejected,     -- HCH.WAIT
     rejectsOnly_of_runNow fun _ _ => rfl,                     -- HCH.PRODUCER
     rejectsOnly_of_runXfer fun _ _ => rfl,                    -- XFR.FILL
     rejectsOnly_of_runXfer fun _ _ => rfl,                    -- XFR.COPY
     rejectsOnly_of_runNow fun _ _ => rfl,                     -- XFR.WINDOW_GRANT
     rejectsOnly_of_runTracked fun _ _ => rfl,                 -- VEC.MAP
     rejectsOnly_of_runTracked fun _ _ => rfl,                 -- GSX.GATHER
     rejectsOnly_of_runTracked fun _ _ => rfl,                 -- ATT.FWD
     rejectsOnly_of_run (fun _ _ => rfl) runClose_rejected,    -- SPL.CLOSE
     rejectsOnly_of_run (fun _ _ => rfl) runStep_rejected,     -- TKL.STEP
     rejectsOnly_of_runNow fun _ _ => rfl,                     -- TTL.BIND
     rejectsOnly_of_runNow fun _ _ => rfl,                     -- STR.FENCE
     rejectsOnly_of_runNow fun _ _ => rfl,                     -- LOG.LIMIT
     rejectsOnly_of_runNow fun _ _ => rfl⟩                     -- SEC.FW_ACTIVATE

end Sys2Proof
end

section
/-! PROOFS. Where a capture lays its engine blocks (R431, R432). The samples of a silent engine come with CAPTURE_DONE, in a list without a bound, and they may take the blocks past the end of the snapshot area. -/

namespace Sys2Proof.Machine

/-- No cell of a memory in form stands below its bound. -/
theorem cellsWf_le {lo : Nat} {m : List Host.Cell} (w : cellsWf lo m = true) {x : Host.Cell} (hx : x ∈ m) : lo ≤ x.1 := by
  induction m generalizing lo with
  | nil => cases hx
  | cons c t ih =>
    simp only [cellsWf, Bool.and_eq_true, decide_eq_true_eq] at w
    obtain ⟨⟨hc, -⟩, ht⟩ := w
    rcases List.mem_cons.1 hx with rfl | hx
    · exact hc
    · exact Nat.le_trans hc (Nat.le_of_succ_le (ih ht hx))

/-- In a memory in form, each cell stands below every later one. -/
theorem cellsWf_append_lt {lo : Nat} {front back : List Host.Cell} (w : cellsWf lo (front ++ back) = true) {x y : Host.Cell}
    (hx : x ∈ front) (hy : y ∈ back) : x.1 < y.1 := by
  induction front generalizing lo with
  | nil => cases hx
  | cons c t ih =>
    simp only [List.cons_append, cellsWf, Bool.and_eq_true] at w
    rcases List.mem_cons.1 hx with rfl | hx
    · exact cellsWf_le w.2 (List.mem_append_right t hy)
    · exact ih w.2 hx

/-- A nonzero byte is listed, at its place. -/
theorem mem_cellsAt {base i : Nat} {bs : List Byte} (hi : i < bs.length) (hb : bs.getD i 0 ≠ 0) : (base + i, bs.getD i 0) ∈ cellsAt base bs :=
  List.mem_filter.2 ⟨List.mem_map.2 ⟨i, List.mem_range.2 hi, rfl⟩, by simpa using hb⟩

/-- What a slice from the start shows of the bytes it is cut from. -/
theorem slice_getD {n i : Nat} {l : List Byte} (hn : i < n) (hl : i < l.length) : (slice 0 n l).getD i 0 = l.getD i 0 := by
  have inTake : i < (l.take n).length := by
    rw [List.length_take]
    exact Nat.lt_min.2 ⟨hn, hl⟩
  simp only [slice, List.drop_zero, List.getD_eq_getElem?_getD]
  rw [List.getElem?_append_left inTake, List.getElem?_take_of_lt hn]

theorem engineHead_append (s : State) (p : Strand) : ∃ more, engineHead s p = leBytes 8 (strandId p) ++ more := by
  simp only [engineHead, List.append_assoc]
  exact ⟨_, rfl⟩

/-- The block of an engine that answers is a head of 4 KiB. -/
theorem engineBlock_answers {s : State} {silent : List SilentEngine} {p : Strand} (h : (silent.any fun e => e.strand == p) = false) :
    (engineBlock s silent p).map Prod.fst = slice 0 4096 (engineHead s p) := by
  simp [engineBlock, h, Function.comp_def]

/-- It begins with the engine's strand ID (R432). -/
theorem engineBlock_strandId {s : State} {silent : List SilentEngine} {p : Strand} (answers : (silent.any fun e => e.strand == p) = false)
    {i : Nat} (hi : i < 8) : ((engineBlock s silent p).map Prod.fst).getD i 0 = (leBytes 8 (strandId p)).getD i 0 := by
  obtain ⟨more, hmore⟩ := engineHead_append s p
  rw [engineBlock_answers answers, hmore, slice_getD (by omega) (by rw [List.length_append, leBytes_length]; omega), List.getD_eq_getElem?_getD,
    List.getElem?_append_left (by rw [leBytes_length]; exact hi), List.getD_eq_getElem?_getD]

/-- A snapshot leaves memory in form only where every byte of an engine block lies below every cell kept past the area. -/
theorem block_below_of_writeSnapshot_wf {c : Capture} {silent : List SilentEngine} {s : State} {p : Strand} (asked : p ∈ askedEngines s)
    {x y : Host.Cell} (hx : x ∈ cellsAt (paSnap + blockOffset s silent p) ((engineBlock s silent p).map Prod.fst)) (hy : y ∈ s.mem.cells)
    (past : paNEnd ≤ y.1) (w : cellsWf 0 (writeSnapshot c silent s).mem.cells = true) : x.1 < y.1 := by
  refine cellsWf_append_lt w (List.mem_append_right _ (List.mem_append_right _ ?_)) (List.mem_filter.2 ⟨hy, by simpa using past⟩)
  exact List.mem_flatMap.2 ⟨_, List.mem_map.2 ⟨p, asked, rfl⟩, hx⟩

/-! ## CAPTURE_DONE writes memory with its snapshot alone -/

/-- A record changes the log, and the management port that announces it. -/
theorem logRec_frame (r : LogRec) (s : State) : logRec r s = { s with log := (logRec r s).log, mgt := (logRec r s).mgt } := by
  simp only [logRec, bufferRec, sendEvent]
  repeat' split
  all_goals rfl

/-- An interrupt changes the PCI Express endpoint. -/
theorem setIrq_frame (n : Nat) (s : State) : setIrq n s = { s with pci := (setIrq n s).pci } := by
  simp only [setIrq, raiseMsix]
  repeat' split
  all_goals rfl

theorem execCaptureDone_cells {s : State} {c : Capture} (silent : List SilentEngine) (running : s.capt.cur = some c)
    (usable : snapUsable s = true) (noSnarl : s.snarl.declared = none) :
    ∃ t, execCaptureDone silent s = .next t ∧ t.mem.cells = (writeSnapshot c silent s).mem.cells := by
  simp only [execCaptureDone, running, usable, if_true]
  rw [setIrq_frame, logRec_frame]
  simp only [writeSnapshot, noSnarl]
  exact ⟨_, rfl, rfl⟩

/-! ## A capture whose blocks run past the snapshot area -/

/-- The array gave no answer, and last addressed so many lines that the next block begins where the snapshot area ends. -/
def longSilence : List SilentEngine := [{ strand := sARR, samples := List.replicate 61439 (0, 0) }]

/-- A module past start-up whose capture is done. Its memory lists a byte of a strand ID, as such a capture has left it past the area before. -/
def capturing : State :=
  { State.reset with
    pending := [.captureDone longSilence]
    str := { State.reset.str with phasesDone := 8 }
    mem := { State.reset.mem with cells := [(paNEnd + 7, 0x30)], ready := true }
    capt := { State.reset.capt with cur := some (plainCapture 4 0) } }

theorem capturing_wf : Memory.wf capturing = true := by decide

theorem unfenced_of_no_stopper {s : State} (h : s.str.stoppers = []) (p : Strand) : fenced s p = false := by
  simp [fenced, ancestorFenced, stopperOf, h, kvGet, fences]

theorem askedEngines_of_no_stopper {s : State} (h : s.str.stoppers = []) : askedEngines s = captureEngines := by
  simp [askedEngines, unfenced_of_no_stopper h]

/-- Its snapshot area can be used (R431). -/
theorem capturing_snapUsable : snapUsable capturing = true := by
  have backed : ∀ n ∈ List.range 16, tnBacked capturing n = true := by decide
  simp only [snapUsable, snapOk, unfenced_of_no_stopper (s := capturing) rfl, Bool.and_eq_true, List.all_eq_true]
  exact ⟨⟨rfl, backed, rfl⟩, fun _ _ => rfl⟩

theorem blockSize_longSilence : blockSize longSilence sARR = 4096 * 61440 := by
  have samples : samplesOf longSilence sARR = List.replicate 61439 (0, 0) := rfl
  rw [blockSize, samples, List.length_replicate]

/-- The block after the array's begins where the area ends. -/
theorem blockOffset_longSilence {s : State} (h : s.str.stoppers = []) : blockOffset s longSilence (sVEC 0) = paNEnd - paSnap := by
  have before : captureEngines.takeWhile (fun q => q != sVEC 0) = [sARR] := by decide
  rw [blockOffset, askedEngines_of_no_stopper h, before, List.map_singleton, blockSize_longSilence]
  decide

/-- The last byte of that block's strand ID. -/
theorem strandId_past_area {s : State} (h : s.str.stoppers = []) :
    (paNEnd + 7, 0x30#8) ∈ cellsAt (paSnap + blockOffset s longSilence (sVEC 0)) ((engineBlock s longSilence (sVEC 0)).map Prod.fst) := by
  have answers : (longSilence.any fun e => e.strand == sVEC 0) = false := rfl
  have byte : ((engineBlock s longSilence (sVEC 0)).map Prod.fst).getD 7 0 = 0x30#8 := by
    rw [engineBlock_strandId answers (by decide)]
    decide
  have inBlock : 7 < ((engineBlock s longSilence (sVEC 0)).map Prod.fst).length := by
    rw [engineBlock_answers answers, slice_length]
    decide
  have listed := mem_cellsAt (base := paSnap + blockOffset s longSilence (sVEC 0)) inBlock (by rw [byte]; decide)
  rw [byte] at listed
  rwa [blockOffset_longSilence h] at listed ⊢

/-- The snapshot lists that byte, and keeps the cell that stood at its address. -/
theorem writeSnapshot_longSilence_not_wf {c : Capture} {s : State} (h : s.str.stoppers = []) (listed : (paNEnd + 7, 0x30#8) ∈ s.mem.cells) :
    cellsWf 0 (writeSnapshot c longSilence s).mem.cells ≠ true := by
  intro w
  have asked : sVEC 0 ∈ askedEngines s := by
    rw [askedEngines_of_no_stopper h]
    decide
  exact Nat.lt_irrefl _ (block_below_of_writeSnapshot_wf asked (strandId_past_area h) listed (Nat.le_add_right _ _) w)

end Sys2Proof.Machine

namespace Sys2Proof

open Machine

/-- Refutes O60: a CAPTURE_DONE with 61,439 samples of the array's lines lays the next engine's block past the end of the snapshot area (R431, R432), where the snapshot keeps the cells that stand there, so that one address is listed twice. Each sample names a bank and a line that exist; nothing bounds how many come with the command. -/
theorem not_memoryKeepsItsForm : ¬ Obligations.MemoryKeepsItsForm := by
  unfold Obligations.MemoryKeepsItsForm
  intro keeps
  obtain ⟨t, (stepped : step capturing = .next t), cells⟩ :=
    execCaptureDone_cells (s := { capturing with pending := [] }) longSilence rfl capturing_snapUsable rfl
  have formed := ((memory_wf_iff t).1 (keeps _ _ capturing_wf stepped)).1
  rw [cells] at formed
  exact writeSnapshot_longSilence_not_wf (s := { capturing with pending := [] }) rfl List.mem_cons_self formed

end Sys2Proof
end

section
/-! PROOFS. Errors, the root's scan and the repair of memory (R17, R244 to R248, R384 to R403): what each event does where its conditions hold. -/

namespace Sys2Proof.Machine

/-- A detector of a strand that exists, on a module with power (R384). -/
theorem exec_errorEvent {p : Strand} {s : State} (src : Nat) (o : ErrObj) (power : powered s = true) (named : strandOk p = true) :
    exec (.errorEvent p src o) s = .next (advance (raiseEvent p src o false false s)) :=
  congrArg Host.Outcome.next (if_pos (by rw [power, named, Bool.and_self]))

/-- On a module with power and a strand that exists, the pair decides what a rail fault does (R386). -/
theorem exec_railFault {p : Strand} {s : State} (src : Nat) (onSummary : Bool) (power : powered s = true) (named : strandOk p = true) :
    exec (.railFault p src onSummary) s
      = .next (if onSummary then (if p.length = 1 then advance (summaryFault p s) else s) else advance (raiseEvent p src .none false true s)) :=
  congrArg Host.Outcome.next (if_neg (by rw [power, named]; decide))

theorem exec_railFault_source {p : Strand} {s : State} (src : Nat) (power : powered s = true) (named : strandOk p = true) :
    exec (.railFault p src false) s = .next (advance (raiseEvent p src .none false true s)) :=
  exec_railFault src false power named

theorem exec_railFault_summary {p : Strand} {s : State} (src : Nat) (power : powered s = true) (named : strandOk p = true)
    (depth : p.length = 1) : exec (.railFault p src true) s = .next (advance (summaryFault p s)) := by
  rw [exec_railFault src true power named, if_pos rfl, if_pos depth]

theorem exec_clockLoss {s : State} (what : ClockFault) (power : powered s = true) :
    exec (.clockLoss what) s = .next (advance ((clockStrands what).foldl (fun s p => raiseEvent p 15 .none false false s) s)) :=
  congrArg Host.Outcome.next (if_pos power)

theorem exec_watchdogExpiry {s : State} (power : powered s = true) : exec .watchdogExpiry s = .next (evalLevels (stopManagement s)) :=
  congrArg Host.Outcome.next (if_pos power)

/-- The reference clock is lost once (R17): the module had it until now. -/
theorem exec_sysRefclkLoss {s : State} (power : powered s = true) (clock : s.pwr.refclk = true) :
    exec .sysRefclkLoss s = .next (evalLevels (raiseEvent [] 0 .none false false { s with pwr := { s.pwr with refclk := false } })) :=
  congrArg Host.Outcome.next (if_neg (by rw [power, clock]; decide))

/-- The state after the root has recorded a scan and before it counts it (R390). -/
def scanned (s : State) : State :=
  recordService (evalLevels
    ((sortBy NewEvent.strand s.str.newEvents).foldl (fun s e => recordEvent e s) { s with str := { s.str with newEvents := [] } }))

theorem exec_rootScan {s : State} (logs : logAlive s = true) :
    exec .rootScan s = .next { scanned s with str := { (scanned s).str with scanNo := (scanned s).str.scanNo + 1 } } :=
  congrArg Host.Outcome.next (if_neg (by rw [logs]; decide))

/-- The source re-armed and its record forgotten (R391). -/
def rearmed (p : Strand) (src : Nat) (r : Nat × Nat × Word) (s : State) : State :=
  { s with str := { s.str with
      sources := kvSet (strandId p) { sourcesOf s p with sticky := (sourcesOf s p).sticky &&& ~~~ BitVec.ofNat 16 (2 ^ src) } s.str.sources
      recorded := s.str.recorded.filter (· != r) } }

/-- The first record of the source decides when its sticky bit is cleared. -/
theorem exec_stickyRearm {p : Strand} {src : Nat} {r : Nat × Nat × Word} {s : State}
    (found : (s.str.recorded.find? fun r => r.1 == strandId p && r.2.1 == src) = some r) :
    exec (.stickyRearm p src) s = .next (if (s.clk.uptimeMs - r.2.2).toNat < 60000 then s else rearmed p src r s) := by
  change execStickyRearm p src s = _
  rw [execStickyRearm, found]
  rfl

/-- The words of the block that an injection has corrupted are found, each once (R244, R407). -/
def scrubDamage (u : Strand) (b : Nat) (s : State) : State :=
  (damagedIn s u b).foldl (fun s d => raiseEvent u (bnat d.2) (.block b) true false
    { s with mem := { s.mem with damaged := s.mem.damaged.filter (· != d) } }) s

/-- What the scrub reports of the word it read: source 0 corrected, source 1 not. -/
def scrubReport (u : Strand) (b : Nat) : Ecc → State → State
  | .clean, s => s
  | .corrected, s => raiseEvent u 0 (.block b) false false s
  | .uncorrectable, s => raiseEvent u 1 (.block b) false false s

/-- The scrub of a unit that exists, serves and is neither fenced nor under reset (R244). -/
theorem exec_patrolScrub {u : Strand} {s : State} (a : Nat) (found : Ecc) (named : strandOk u = true) (unfenced : fenced s u = false)
    (working : admitted s u = true) (served : underReset s u = false) :
    exec (.patrolScrub u a found) s = .next (scrubReport u (a / 65536) found (scrubDamage u (a / 65536) s)) := by
  change execPatrolScrub u a found s = _
  rw [execPatrolScrub, if_neg (by rw [named, unfenced, working, served]; decide)]
  cases found <;> rfl

end Sys2Proof.Machine

namespace Sys2Proof

open Machine

/-- Settles O49: each event passes its guard and does what its rule says; the ends of a remap and of a redirection have no guard. -/
theorem errorAndRepairEventsComplete : Obligations.ErrorAndRepairEventsComplete := by
  refine ⟨fun p src o s power named => ⟨exec_errorEvent src o power named, exec_railFault_source src power named,
      exec_railFault_summary src power named⟩,
    fun what _ power => exec_clockLoss what power, rfl, fun s power => ⟨exec_watchdogExpiry power, exec_sysRefclkLoss power⟩,
    fun s logs => exec_rootScan logs, fun p src r s found => exec_stickyRearm found, fun u b s => ⟨rfl, rfl⟩,
    fun u a s named unfenced working served => ?_⟩
  have scrub (found : Ecc) := exec_patrolScrub a found named unfenced working served
  exact ⟨scrub .clean, scrub .corrected, scrub .uncorrectable⟩

end Sys2Proof
end

section
/-! PROOFS. Accepted packets: what a command makes of the state it is taken up in, and the packet it leaves (R34 to R62, R203, R422). -/

namespace Sys2Proof.Machine

open Safety

/-- Taking a packet up changes the packets that wait and the next number alone. -/
theorem takenUp_frame (op : Nat) (p : Packet) (s : State) :
    takenUp op p s = { s with fetched := (takenUp op p s).fetched, nextUid := (takenUp op p s).nextUid } := by
  unfold takenUp
  split <;> rfl

@[simp] theorem takenUp_clk (op : Nat) (p : Packet) (s : State) : (takenUp op p s).clk = s.clk := by rw [takenUp_frame]
@[simp] theorem takenUp_ctxs (op : Nat) (p : Packet) (s : State) : (takenUp op p s).ctxs = s.ctxs := by rw [takenUp_frame]
@[simp] theorem takenUp_rst (op : Nat) (p : Packet) (s : State) : (takenUp op p s).rst = s.rst := by rw [takenUp_frame]

/-- An accepted packet runs under its number, in the state it is taken up in. -/
theorem exec_accepted {mk : Packet → Instr} {op : Nat} {run : Nat → Packet → State → State} {checks : State → Packet → Checks}
    (takes : ∀ p s, exec (mk p) s = .next (met s (takeUp op run p s))) {p : Packet} {s : State} (h : Accepted op checks p s) :
    exec (mk p) s = .next (met s (run (packetNo op p s) (asOp op p) (takenUp op p s))) := by
  rw [takes, takeUp_ready op run p s h.1]

theorem runsWhole_of_runNow {mk : Packet → Instr} {op : Nat} {checks : State → Packet → Checks} {effect : Packet → State → State × Result}
    (takes : ∀ p s, exec (mk p) s = .next (met s (takeUp op (runNow checks effect) p s))) : RunsWhole mk op checks effect :=
  fun p s h => by rw [takes, takeUp_runNow op checks effect p s h]

/-! ## The packet that was answered last -/

@[simp] theorem lastReply_addJob (j : Job) (s : State) : lastReply (addJob j s) = some (j.uid, j.res) := by simp [lastReply]

theorem lastReply_finish {uid : Nat} {u : State} {js : List Job} {j : Job} (r : Result) (h : u.jobs = js ++ [j]) (number : j.uid = uid)
    (unanswered : j.res = none) : lastReply (finish uid r u) = some (uid, some r) := by
  simp [lastReply, finish, h, number, unanswered]

/-! ## A context that is set -/

@[simp] theorem ctxOf_setCtx_self (c : Nat) (x : Ctx) (s : State) : ctxOf (setCtx c x s) c = x := kvGetD_kvSet_self c noCtx x s.ctxs

@[simp] theorem ctxOf_setCtx_ne {c k : Nat} (x : Ctx) (s : State) (h : k ≠ c) : ctxOf (setCtx c x s) k = ctxOf s k :=
  kvGetD_kvSet_ne noCtx x s.ctxs h

@[simp] theorem setGrant_firstBank (c first count : Nat) (s : State) : (ctxOf (setGrant c first count s) c).firstBank = first := by
  rw [setGrant, ctxOf_setCtx_self]

@[simp] theorem setGrant_nBanks (c first count : Nat) (s : State) : (ctxOf (setGrant c first count s) c).nBanks = count := by
  rw [setGrant, ctxOf_setCtx_self]

/-! ## CTX.UNMAP of pages (R45) -/

/-- The wait of a CTX.UNMAP is over when none of the accesses is out that were translated before it. -/
theorem releaseOne_unmapWait {j : Job} {waits : List (Nat × Byte)} {r : Result} (s : State) (unanswered : j.res = none)
    (w : j.work = .unmapWait waits r) :
    releaseOne j s
      = if waits.any fun w => (kvGet w.1 s.trk.entries).any fun e => e.epoch == w.2 then s else finish j.uid r s := by
  simp [releaseOne, unanswered, w]

theorem runUnmap_pages {uid : Nat} {p : Packet} {s : State} (h : verdict (unmapChecks s p) = none) (kind : mapKind p = 0) :
    let e := unmapEffect p s
    let j := newJob s uid p (.unmapWait (usersOf s p) e.2)
    runUnmap uid p s
      = if (usersOf s p).any fun w => (kvGet w.1 e.1.trk.entries).any fun x => x.epoch == w.2 then addJob j e.1
        else finish uid e.2 (addJob j e.1) := by
  simp only [runUnmap, h, if_pos kind]
  exact releaseOne_unmapWait _ rfl rfl

theorem runUnmap_hitches {uid : Nat} {p : Packet} {s : State} (h : verdict (unmapChecks s p) = none) (kind : mapKind p ≠ 0) :
    runUnmap uid p s = addJob { newJob s uid p .finished with res := some (unmapEffect p s).2 } (unmapEffect p s).1 := by
  simp only [runUnmap, h, if_neg kind]

/-! ## CTX.MAP of a grant (R203) -/

theorem releaseOne_grantWait {j : Job} {c first count : Nat} {waits : List Nat} (s : State) (unanswered : j.res = none)
    (w : j.work = .grantWait c first count waits) :
    releaseOne j s = if anyOpen s waits then s else endGrant j.uid c first count s := by
  simp [releaseOne, unanswered, w]

/-- The packets of the context that had started are open as long as there are any. -/
theorem anyOpen_openOf (s : State) (j : Job) (c : Nat) : anyOpen (addJob j s) (openOf s c) = !(openOf s c).isEmpty := by
  cases h : openOf s c with
  | nil => rfl
  | cons u us =>
    have started : u ∈ openOf s c := by rw [h]; exact List.mem_cons_self
    simp only [openOf, List.mem_map, List.mem_filter] at started
    obtain ⟨k, ⟨hk, -⟩, rfl⟩ := started
    simp only [anyOpen, List.any_cons, addJob_jobs, List.isEmpty_cons, Bool.not_false, Bool.or_eq_true]
    exact Or.inl (List.any_eq_true.2 ⟨k, List.mem_append_left _ hk, by simp⟩)

/-- A grant accepted for a context does not clash with that context's own. -/
theorem grantClash_addJob_own {j : Job} {c f n : Nat} {waits : List Nat} (s : State) (first count : Nat) (unanswered : j.res = none)
    (w : j.work = .grantWait c f n waits) : grantClash (addJob j s) c first count = grantClash s c first count := by
  have grants : pendingGrants (addJob j s) = pendingGrants s ++ [(c, f, n)] := by simp [pendingGrants, unanswered, w]
  have banks : bankMissing (addJob j s) = bankMissing s := rfl
  simp [grantClash, grants, banks]

/-- The grant of a LIVE context that clashes with no other is set. -/
theorem endGrant_set {uid c first count : Nat} {s : State} (live : (ctxOf s c).state = .live) (free : grantClash s c first count = false) :
    endGrant uid c first count s = finish uid okRes (setGrant c first count s) := by
  simp [endGrant, live, free]

/-- An accepted grant goes to a LIVE context and clashes with no other. -/
theorem grant_free {p : Packet} {s : State} (h : verdict (mapChecks s p) = none) (kind : mapKind p = 2) :
    (ctxOf s (mapCtx p)).state = .live ∧ grantClash s (mapCtx p) (wd p 6) (wd p 7) = false := by
  obtain ⟨-, -, -, -, conflict, -⟩ := (verdict_none _).1 h
  simpa [mapChecks, mapConflict, kind] using conflict

/-- The packet that a CTX.MAP of a grant leaves. -/
def grantJob (uid : Nat) (p : Packet) (s : State) : Job :=
  newJob s uid p (.grantWait (mapCtx p) (wd p 6) (wd p 7) (openOf s (mapCtx p)))

theorem runMap_grant {uid : Nat} {p : Packet} {s : State} (h : verdict (mapChecks s p) = none) (kind : mapKind p = 2) :
    runMap uid p s = releaseOne (grantJob uid p s) (addJob (grantJob uid p s) s) := by
  rw [runMap, if_pos kind, h]
  rfl

/-- With no packet of the context open the grant is set at once. -/
theorem runMap_grant_sets {uid : Nat} {p : Packet} {s : State} (h : verdict (mapChecks s p) = none) (kind : mapKind p = 2)
    (drained : openOf s (mapCtx p) = []) :
    runMap uid p s = finish uid okRes (setGrant (mapCtx p) (wd p 6) (wd p 7) (addJob (grantJob uid p s) s)) := by
  obtain ⟨live, free⟩ := grant_free h kind
  have unclashing := (grantClash_addJob_own (j := grantJob uid p s) s (wd p 6) (wd p 7) rfl rfl).trans free
  rw [runMap_grant h kind, releaseOne_grantWait _ rfl rfl, anyOpen_openOf, drained, if_neg (by simp),
    endGrant_set (s := addJob (grantJob uid p s) s) live unclashing]
  rfl

/-- It waits while one is open. -/
theorem runMap_grant_waits {uid : Nat} {p : Packet} {s : State} (h : verdict (mapChecks s p) = none) (kind : mapKind p = 2)
    (started : openOf s (mapCtx p) ≠ []) : runMap uid p s = addJob (grantJob uid p s) s := by
  rw [runMap_grant h kind, releaseOne_grantWait _ rfl rfl, anyOpen_openOf, if_pos (by simpa using started)]

theorem runMap_other {uid : Nat} {p : Packet} {s : State} (kind : mapKind p ≠ 2) : runMap uid p s = runNow mapChecks mapEffect uid p s :=
  if_neg kind

/-! ## Q.DESTROY (R62) -/

theorem runQDestroy_accepted {uid : Nat} {p : Packet} {s : State} (h : verdict (qDestroyChecks s p) = none) :
    runQDestroy uid p s
      = releaseWaits (addJob (newJob (stopQueue (pf p 4 13 0) s).1 uid p (.qDestroy (pf p 4 13 0) (stopQueue (pf p 4 13 0) s).2))
          (stopQueue (pf p 4 13 0) s).1) := by
  rw [runQDestroy, h]

end Sys2Proof.Machine

namespace Sys2Proof

open Machine Safety

/-- What an accepted CTX.UNMAP does, by its kind. -/
theorem ctxUnmap_accepted {p : Packet} {s : State} (h : Accepted 0x0113 unmapChecks p s) :
    let e := unmapEffect (asOp 0x0113 p) (takenUp 0x0113 p s)
    let out := (usersOf (takenUp 0x0113 p s) (asOp 0x0113 p)).any fun w => (kvGet w.1 e.1.trk.entries).any fun x => x.epoch == w.2
    if mapKind p = 0 then
      ∃ u, exec (.ctxUnmap p) s = .next (met s u) ∧ u = { e.1 with jobs := u.jobs }
        ∧ lastReply u = some (packetNo 0x0113 p s, if out then none else some e.2)
    else exec (.ctxUnmap p) s = .next (met s (answered 0x0113 p s e.2 e.1)) := by
  intro e out
  have runs := exec_accepted (mk := .ctxUnmap) (fun _ _ => rfl) h
  split
  next pages =>
    rw [runUnmap_pages h.2 pages] at runs
    by_cases access : out = true
    · rw [if_pos access] at runs ⊢
      exact ⟨_, runs, rfl, lastReply_addJob _ _⟩
    · rw [if_neg access] at runs ⊢
      exact ⟨_, runs, rfl, lastReply_finish _ rfl rfl rfl⟩
  next hitches =>
    rw [runs, runUnmap_hitches h.2 hitches]
    rfl

/-- What an accepted CTX.MAP does, by its kind. -/
theorem ctxMap_accepted {p : Packet} {s : State} (h : Accepted 0x0112 mapChecks p s) :
    let q := asOp 0x0112 p
    let s0 := takenUp 0x0112 p s
    if mapKind p = 2 then
      ∃ u, exec (.ctxMap p) s = .next (met s u) ∧ u = { s0 with jobs := u.jobs, ctxs := u.ctxs }
        ∧ (openOf s0 (mapCtx p) = [] → lastReply u = some (packetNo 0x0112 p s, some okRes)
            ∧ (ctxOf u (mapCtx p)).firstBank = wd p 6 ∧ (ctxOf u (mapCtx p)).nBanks = wd p 7)
        ∧ (openOf s0 (mapCtx p) ≠ [] → lastReply u = some (packetNo 0x0112 p s, none) ∧ u.ctxs = s.ctxs)
    else exec (.ctxMap p) s = .next (met s (answered 0x0112 p s (mapEffect q s0).2 (mapEffect q s0).1)) := by
  intro q s0
  have runs := exec_accepted (mk := .ctxMap) (fun _ _ => rfl) h
  split
  next scratchpad =>
    by_cases drained : openOf s0 (mapCtx p) = []
    · rw [runMap_grant_sets h.2 scratchpad drained] at runs
      refine ⟨_, runs, rfl, fun _ => ⟨lastReply_finish _ rfl rfl rfl, ?_⟩, fun waits => absurd drained waits⟩
      exact ⟨setGrant_firstBank .., setGrant_nBanks ..⟩
    · rw [runMap_grant_waits h.2 scratchpad drained] at runs
      exact ⟨_, runs, rfl, fun none_open => absurd none_open drained, fun _ => ⟨lastReply_addJob _ _, takenUp_ctxs _ _ _⟩⟩
  next other =>
    rw [runs, runMap_other (p := q) other, runNow_accepted _ _ _ _ _ h.2]
    rfl

/-- Settles O11: CTX.CREATE and Q.CREATE run whole, CTX.UNMAP and CTX.MAP by their kinds. -/
theorem contextCommandsComplete : Obligations.ContextCommandsComplete :=
  ⟨runsWhole_of_runNow fun _ _ => rfl, fun _ _ => ctxUnmap_accepted, runsWhole_of_runNow fun _ _ => rfl, fun _ _ => ctxMap_accepted⟩

/-- Settles O13: the accepted runs of CTX.DESTROY and Q.DESTROY. -/
theorem teardownCommandsStart : Obligations.TeardownCommandsStart := by
  refine ⟨fun p s h => ?_, fun p s h => ?_⟩
  · rw [exec_accepted (mk := .ctxDestroy) (fun _ _ => rfl) h, runDestroy_accepted _ _ _ h.2, takenUp_clk]
    rfl
  · rw [exec_accepted (mk := .qDestroy) (fun _ _ => rfl) h, runQDestroy_accepted h.2]
    rfl

end Sys2Proof
end

section
/-! PROOFS. The STR commands (R27 to R32, R382, R413, R419): STR.RESET by what its strand is and by the reset that runs. -/

namespace Sys2Proof.Machine

open Safety

/-- Does a running fence-and-drain hold the strand, so that an STR.RESET of it completes with that reset (R419)? -/
def insideReset (s : State) (q : Strand) : Bool :=
  (s.rst.run.map fun r => r.target != [] && below r.target q).getD false || (underReset s q && q != [])

/-- Taking a packet up leaves every reset as it is. -/
theorem insideReset_takenUp (op : Nat) (p : Packet) (s : State) (q : Strand) : insideReset (takenUp op p s) q = insideReset s q := by
  simp only [insideReset, underReset, takenUp_rst]

section
variable {uid : Nat} {p : Packet} {s : State} {q : Strand} (h : verdict (resetChecks s p) = none) (named : strandArg p = some q)
include h named

/-- A strand that is reset by fence-and-drain makes its request. -/
theorem runReset_fnd {t : Strand} {e : Bool} (kind : resetKind s q = .fnd t e) :
    runReset uid p s = fndRequest { target := t, cause := 0, escalated := e, uid := some uid } (addJob (newJob s uid p .fnd) s) := by
  simp only [runReset, h, named, Option.getD_some, kind]

/-- Outside a running reset the work of the subtree is cut, and its strands take their next generation. -/
theorem runReset_genTag (kind : resetKind s q = .genTag) (outside : insideReset s q = false) :
    let cut := cutWork q (addJob (newJob s uid p (.genReset q s.clk.uptimeMs 0)) s)
    runReset uid p s = advance (setWork uid (.genReset q s.clk.uptimeMs cut.2) (bumpStrands q cut.1)) := by
  simp only [runReset, h, named, Option.getD_some, kind]
  exact if_neg (Bool.eq_false_iff.1 outside)

/-- Inside one the packet joins it. -/
theorem runReset_joins (kind : resetKind s q = .genTag) (inside : insideReset s q = true) :
    runReset uid p s = { addJob (newJob s uid p .fnd) s with rst := { s.rst with
      run := s.rst.run.map fun r => { r with uids := r.uids ++ [uid] } } } := by
  simp only [runReset, h, named, Option.getD_some, kind]
  exact if_pos inside

end

end Sys2Proof.Machine

namespace Sys2Proof

open Machine Safety

/-- What an accepted STR.RESET does (R413, R414, R419). -/
theorem strReset_accepted {p : Packet} {s : State} {q : Strand} (h : Accepted 0x0A04 resetChecks p s) (named : strandArg p = some q) :
    let s0 := takenUp 0x0A04 p s
    let no := packetNo 0x0A04 p s
    let s1 := addJob (newJob s0 no (asOp 0x0A04 p) .fnd) s0
    let s2 := addJob (newJob s0 no (asOp 0x0A04 p) (.genReset q s.clk.uptimeMs 0)) s0
    (∀ t e, resetKind s0 q = .fnd t e →
        exec (.strReset p) s = .next (met s (fndRequest { target := t, cause := 0, escalated := e, uid := some no } s1)))
    ∧ (resetKind s0 q = .genTag → insideReset s q = false →
        exec (.strReset p) s = .next (met s (advance (setWork no (.genReset q s.clk.uptimeMs (cutWork q s2).2) (bumpStrands q (cutWork q s2).1)))))
    ∧ (resetKind s0 q = .genTag → insideReset s q = true →
        exec (.strReset p) s = .next (met s { s1 with rst := { s1.rst with
          run := s1.rst.run.map fun r => { r with uids := r.uids ++ [no] } } })) := by
  intro s0 no s1 s2
  rw [exec_accepted (mk := .strReset) (fun _ _ => rfl) h]
  refine ⟨fun t e kind => ?_, fun kind outside => ?_, fun kind inside => ?_⟩
  · rw [runReset_fnd h.2 named kind]
  · rw [runReset_genTag h.2 named kind ((insideReset_takenUp ..).trans outside), takenUp_clk]
  · rw [runReset_joins h.2 named kind ((insideReset_takenUp ..).trans inside)]
    rfl

/-- Settles O27: the six commands that run at once, and STR.RESET. -/
theorem strandCommandsComplete : Obligations.StrandCommandsComplete :=
  ⟨runsWhole_of_runNow fun _ _ => rfl,             -- STR.QUERY
   runsWhole_of_runNow fun _ _ => rfl,             -- STR.FENCE
   fun _ => runsWhole_of_runNow fun _ _ => rfl,    -- STR.UNFENCE
   runsWhole_of_runNow fun _ _ => rfl,             -- STR.INJECT
   runsWhole_of_runNow fun _ _ => rfl,             -- STR.REPAIR_COMMIT
   runsWhole_of_runNow fun _ _ => rfl,             -- STR.SERVICE
   fun _ _ _ => strReset_accepted⟩

end Sys2Proof
end

section
/-! PROOFS. The module as delivered (R25, R353, R518). -/

namespace Sys2Proof

open Machine

/-- As delivered every link is DOWN. -/
theorem reset_link_down {l : Nat} (h : l < 32) : (linkOf State.reset l).state = .down := by
  have initial : (List.replicate 32 Link.initial).getD l Link.initial = Link.initial := by
    rw [List.getD_eq_getElem?_getD, List.getElem?_replicate, if_pos h, Option.getD_some]
  exact congrArg Link.state initial

/-- Settles O2: each field is its value in `State.reset`. -/
theorem resetIsAsDelivered : Obligations.ResetIsAsDelivered :=
  ⟨rfl, rfl, rfl, rfl, rfl, rfl, rfl, rfl, rfl, rfl, rfl, fun _ => reset_link_down, rfl, rfl, rfl, rfl, reset_memory_wf,
    fun _ => rfl, rfl, rfl, rfl⟩

end Sys2Proof
end

section
/-! PROOFS. Generations of contexts and the windows they end (R36, R342, R350). -/

namespace Sys2Proof.Machine

/-- Telling the peers changes the links alone. -/
theorem sendBytes_frame (v dest : Nat) (b : List Byte) (s : State) : (sendBytes v dest b s).1 = { s with lnk := (sendBytes v dest b s).1.lnk } := by
  unfold sendBytes
  split <;> rfl

theorem foldl_sendMsg_ctxs (v : Nat) (m : State → Nat → Msg) (ds : List Nat) (s : State) :
    (ds.foldl (fun s d => (sendMsg v d (m s d) s).1) s).ctxs = s.ctxs := by
  induction ds generalizing s with
  | nil => rfl
  | cons d ds ih => rw [List.foldl_cons, ih, sendMsg, sendBytes_frame]

@[simp] theorem revokePeers_ctxs (c : Nat) (gen : BitVec 16) (s : State) : (revokePeers c gen s).ctxs = s.ctxs :=
  foldl_sendMsg_ctxs 0 (fun s _ => { blankMsg with kind := 0x04, srcDev := ownDev s, srcCtx := BitVec.ofNat 16 c, srcGen := gen }) _ s

/-- A generation that has changed in this life stays. -/
theorem bumpGen_again {c : Nat} {s : State} (h : (ctxOf s c).bumped = true) : bumpGen c s = s := by rw [bumpGen, if_pos h]

theorem bumpGen_first {c : Nat} {s : State} (h : (ctxOf s c).bumped = false) :
    bumpGen c s
      = dropWindows c (setCtx c { ctxOf s c with gen := (ctxOf s c).gen + 1, bumped := true } (revokePeers c (ctxOf s c).gen s)) := by
  rw [bumpGen, if_neg (Bool.eq_false_iff.1 h)]

@[simp] theorem ctxOf_dropWindows (c k : Nat) (s : State) : ctxOf (dropWindows c s) k = ctxOf s k := rfl

@[simp] theorem ctxOf_revokePeers (c k : Nat) (gen : BitVec 16) (s : State) : ctxOf (revokePeers c gen s) k = ctxOf s k := by
  rw [ctxOf, revokePeers_ctxs, ctxOf]

/-- No window of the context is left valid (R342). -/
theorem invalid_of_mem_dropWindows {c n : Nat} {s : State} {w : Window} (h : (n, w) ∈ (dropWindows c s).wins) (own : w.owner = c) :
    w.valid = false := by
  simp only [dropWindows, kvMap, List.mem_map, Prod.mk.injEq] at h
  obtain ⟨⟨m, x⟩, -, -, rfl⟩ := h
  by_cases theirs : x.owner = c
  · simp [theirs]
  · simp [theirs] at own

end Sys2Proof.Machine

namespace Sys2Proof

open Machine

/-- Settles O14: the first change of a life, a later one, and CTX.CREATE. -/
theorem generationChangesOncePerLife : Obligations.GenerationChangesOncePerLife := by
  refine fun c s => ⟨fun first => ?_, bumpGen_again, fun p => ⟨rfl, rfl⟩⟩
  rw [bumpGen_first first]
  refine ⟨?_, ?_, fun k other => ?_, fun n w => invalid_of_mem_dropWindows⟩
  · rw [ctxOf_dropWindows, ctxOf_setCtx_self]
  · rw [ctxOf_dropWindows, ctxOf_setCtx_self]
  · rw [ctxOf_dropWindows, ctxOf_setCtx_ne _ _ other, ctxOf_revokePeers]

end Sys2Proof
end

section
/-! PROOFS. What CTX.CREATE, CTX.MAP, CTX.UNMAP and Q.CREATE change (R36 to R45, R58, R59, R70, R238). -/

namespace Sys2Proof.Machine

/-! ## CTX.CREATE -/

theorem ctxOf_createEffect (p : Packet) (s : State) (k : Nat) :
    ctxOf (createEffect p s).1 k = ctxOf (setCtx (pf p 4 11 0) (createdCtx s p) s) k := by
  simp only [createEffect, ctxOf, physPut_ctxs]

theorem createEffect_frame (p : Packet) (s : State) :
    (createEffect p s).1
      = { s with ctxs := (createEffect p s).1.ctxs, mem := (createEffect p s).1.mem, str := (createEffect p s).1.str } := by
  have same : SameButMemory (setCtx (pf p 4 11 0) (createdCtx s p) s) (createEffect p s).1 :=
    physWrite_same (dw p 6) ((zeros 8192).map fun b => (b, false)) _
  unfold SameButMemory at same
  rw [same]
  rfl

/-! ## Hitches -/

theorem hitchOf_kvSet_self (h : Nat) (x : Hitch) (s : State) : hitchOf { s with hitches := kvSet h x s.hitches } h = x :=
  kvGetD_kvSet_self h noHitch x s.hitches

theorem hitchOf_kvSet_ne {h k : Nat} (x : Hitch) (s : State) (other : k ≠ h) :
    hitchOf { s with hitches := kvSet h x s.hitches } k = hitchOf s k :=
  kvGetD_kvSet_ne noHitch x s.hitches other

theorem hitchOf_hitchPut_ne {h k : Nat} (v : DWord) (s : State) (other : k ≠ h) : hitchOf (hitchPut h v s) k = hitchOf s k :=
  hitchOf_kvSet_ne _ s other

/-- A run of hitches with one more at its end. -/
theorem assignHitches_succ (c first n : Nat) (s : State) :
    assignHitches c first (n + 1) s
      = { hitchPut (first + n) 0 (assignHitches c first n s) with
          hitches := kvSet (first + n) { value := 0, owner := some c, regs := [] }
            (hitchPut (first + n) 0 (assignHitches c first n s)).hitches } := by
  simp only [assignHitches, List.range_succ, List.foldl_append, List.foldl_cons, List.foldl_nil]

/-- Each hitch of the run is the context's, at 0 and without registrations; the others are as they were (R70). -/
theorem hitchOf_assignHitches (c first n h : Nat) (s : State) :
    hitchOf (assignHitches c first n s) h
      = if first ≤ h ∧ h < first + n then { value := 0, owner := some c, regs := [] } else hitchOf s h := by
  induction n with
  | zero => rw [if_neg (by omega)]; rfl
  | succ n ih =>
    rw [assignHitches_succ]
    by_cases last : h = first + n
    · subst last
      rw [hitchOf_kvSet_self, if_pos (by omega)]
    · rw [hitchOf_kvSet_ne _ _ last, hitchOf_hitchPut_ne _ _ last, ih]
      have same : (first ≤ h ∧ h < first + n) ↔ (first ≤ h ∧ h < first + (n + 1)) := by omega
      simp only [same]

theorem assignHitches_frame (c first n : Nat) (s : State) :
    assignHitches c first n s = { s with hitches := (assignHitches c first n s).hitches, jobs := (assignHitches c first n s).jobs
                                         spl := (assignHitches c first n s).spl } := by
  induction n with
  | zero => rfl
  | succ n ih =>
    rw [assignHitches_succ, ih]
    rfl

theorem kvGet_kvMap {α : Type} (f : Nat → α → α) (k : Nat) (t : KV α) : kvGet k (kvMap f t) = (kvGet k t).map (f k) := by
  induction t with
  | nil => rfl
  | cons x t ih =>
    obtain ⟨j, v⟩ := x
    by_cases h : j = k
    · subst h
      simp [kvMap, kvGet]
    · simpa [kvMap, kvGet, h] using ih

/-- A hitch of the run that the context holds is released; its value stays, as do the others (R70). -/
theorem hitchOf_releaseHitches (c first n h : Nat) (s : State) :
    hitchOf (releaseHitches c first n s) h
      = if first ≤ h ∧ h < first + n ∧ (hitchOf s h).owner = some c then { hitchOf s h with owner := none } else hitchOf s h := by
  simp only [hitchOf, releaseHitches, kvGetD, kvGet_kvMap]
  obtain unlisted | ⟨x, listed⟩ := Option.eq_none_or_eq_some (kvGet h s.hitches)
  · simp [unlisted, noHitch]
  · simp [listed]

/-! ## Placement -/

theorem mem_insNat {k x : Nat} {l : List Nat} : x ∈ insNat k l ↔ x = k ∨ x ∈ l := by
  induction l with
  | nil => simp [insNat]
  | cons j t ih =>
    unfold insNat
    split
    · simp
    · split
      next same => simp [same]
      next => simp [ih, or_left_comm]

theorem mem_foldl_insNat {x first n : Nat} {l : List Nat} :
    x ∈ (List.range n).foldl (fun l i => insNat (first + i) l) l ↔ (first ≤ x ∧ x < first + n) ∨ x ∈ l := by
  induction n with
  | zero =>
    have none_in_run : ¬(first ≤ x ∧ x < first + 0) := by omega
    rw [List.range_zero, List.foldl_nil, or_iff_right none_in_run]
  | succ n ih =>
    rw [List.range_succ, List.foldl_append, List.foldl_cons, List.foldl_nil, mem_insNat, ih]
    grind

/-- The groups of the run are in the mode asked for, the others in the mode they had (R238). -/
theorem stacked_setPlacement (first n g : Nat) (stacked : Bool) (s : State) :
    (setPlacement first n stacked s).mem.stacked.contains g
      = if first ≤ g ∧ g < first + n then stacked else s.mem.stacked.contains g := by
  rw [Bool.eq_iff_iff, List.contains_iff_mem]
  cases stacked with
  | true =>
    simp only [setPlacement, if_true, mem_foldl_insNat]
    split <;> simp [*]
  | false =>
    simp only [setPlacement, Bool.false_eq_true, if_false, List.mem_filter, ← Bool.decide_and]
    split <;> simp [*]

/-! ## CTX.MAP and CTX.UNMAP by their kinds -/

theorem mapEffect_hitches {p : Packet} (s : State) (kind : mapKind p = 1) :
    mapEffect p s = (assignHitches (mapCtx p) (wd p 6) (wd p 7) s, okRes) := by
  rw [mapEffect, kind]
  rfl

theorem mapEffect_placement {p : Packet} (s : State) (kind : mapKind p = 3) :
    mapEffect p s = (setPlacement (wd p 6) (wd p 7) (pb p 4 19) s, okRes) := by
  rw [mapEffect, kind]
  rfl

theorem unmapEffect_hitches {p : Packet} (s : State) (kind : mapKind p = 1) :
    unmapEffect p s = (releaseHitches (mapCtx p) (wd p 6) (wd p 7) s, okRes) := by
  rw [unmapEffect, kind]
  rfl

/-! ## Q.CREATE -/

theorem qCreateEffect_of_free {p : Packet} {s : State} {g : Nat} (free : freeQueue s = some g) :
    let t := (vaWrite reachReply (pf p 4 11 0) (dw p 10) ((zeros 64).map fun b => (b, false)) s).1
    qCreateEffect p s = ({ t with queues := kvSet g (createdQueue p) t.queues }, okCnt (BitVec.ofNat 32 g) 0 0 0) := by
  rw [qCreateEffect, free]
  rfl

end Sys2Proof.Machine

namespace Sys2Proof

open Machine

/-- Settles O12: CTX.CREATE from the context it makes, the other three from the tables that they set. -/
theorem contextEffects : Obligations.ContextEffects := by
  intro p s c a m d q inRun
  have created : ctxOf a.1 c = createdCtx s p := (ctxOf_createEffect p s c).trans (ctxOf_setCtx_self ..)
  rw [created]
  refine ⟨rfl, rfl, rfl, rfl, rfl, rfl, rfl, rfl, fun k other => (ctxOf_createEffect p s k).trans (ctxOf_setCtx_ne _ _ other),
    createEffect_frame p s, fun kind => ?mapHitches, fun kind => ?mapPlacement, fun kind => ?unmapHitches,
    fun g free => ?createQueue⟩
  case mapHitches =>
    have effect : m = _ := mapEffect_hitches s kind
    rw [effect]
    refine ⟨fun h within => ?_, fun h outside => ?_, rfl, assignHitches_frame ..⟩
    · exact (hitchOf_assignHitches ..).trans (if_pos within)
    · exact (hitchOf_assignHitches ..).trans (if_neg outside)
  case mapPlacement =>
    have effect : m = _ := mapEffect_placement s kind
    rw [effect]
    refine ⟨fun g within => ?_, fun g outside => ?_, rfl, rfl⟩
    · exact (stacked_setPlacement ..).trans (if_pos within)
    · exact (stacked_setPlacement ..).trans (if_neg outside)
  case unmapHitches =>
    have effect : d = _ := unmapEffect_hitches s kind
    rw [effect]
    refine ⟨rfl, rfl, fun h => ?_⟩
    simp only [hitchOf_releaseHitches, inRun, and_assoc]
    split
    next released => exact ⟨rfl, (if_pos released).symm⟩
    next kept => exact ⟨rfl, (if_neg kept).symm⟩
  case createQueue =>
    have effect : q = _ := qCreateEffect_of_free free
    rw [effect]
    exact ⟨kvGet_kvSet_self .., rfl, rfl, fun k other => kvGet_kvSet_ne _ _ other, rfl⟩

end Sys2Proof
end

section
/-! PROOFS. Replies to tracker entries: the one that matches, the late one and the old one (R46, R226, R228, R229). -/

namespace Sys2Proof.Machine

/-! ## The entry that a reply matches -/

theorem entryFor_own {s : State} {tid : Nat} {e : Entry} (listed : kvGet tid s.trk.entries = some e) : entryFor s tid e.epoch = some e := by
  simp [entryFor, listed]

section
variable {tid : Nat} {epoch : Byte} {s : State} (ecc : Ecc) (quiet : s.str.armed = [])
include quiet

/-- A reply that matches no entry is counted (R229). -/
theorem exec_memoryReply_unmatched (unmatched : entryFor s tid epoch = none) : exec (.memoryReply tid epoch ecc) s = .next (lateDrop none s) := by
  change execMemoryReply tid epoch ecc s = _
  rw [execMemoryReply, unmatched, met_nothing_armed _ _ quiet]

variable {e : Entry} (found : entryFor s tid epoch = some e) (free : heldByRemap s e.pa e.len = false)
include found free

/-- One that matches an entry on memory acts by the entry's age and kind. -/
theorem exec_memoryReply_matched (onMemory : e.req = .memRead ∨ e.req = .memWrite) :
    exec (.memoryReply tid epoch ecc) s
      = .next (if entryCurrent s e = false then dropStale tid e s
          else if e.req = .memRead then advance (readReply tid e ecc s) else advance (writeAccepted tid e ecc s)) := by
  change execMemoryReply tid epoch ecc s = _
  rw [execMemoryReply, met_nothing_armed _ _ quiet, found]
  simp [onMemory, free]

end

theorem exec_hostCompletion_matched {tid : Nat} {epoch : Byte} {how : HostEnd} {h : HostNews} {e : Entry} {s : State} (quiet : s.str.armed = [])
    (found : entryFor s tid epoch = some e) (current : entryCurrent (takeNews h s) e = true) (asked : e.req = .hostRead) :
    exec (.hostCompletion tid epoch how h) s = .next (advance (hostReply tid e how (takeNews h s))) := by
  have found' : entryFor (takeNews h s) tid epoch = some e := found
  change execHostCompletion tid epoch how h s = _
  simp only [execHostCompletion, met_nothing_armed (takeNews h s) _ quiet, found', asked, current]
  rfl

/-! ## Time-outs (R228, R496) -/

theorem exec_trackerTimeout_due {tid : Nat} {e : Entry} {s : State} (listed : kvGet tid s.trk.entries = some e)
    (due : 50 ≤ (s.clk.uptimeMs - e.issueMs).toNat) :
    exec (.trackerTimeout tid) s
      = .next (advance (match destStrand s e with
          | some p => raiseEvent p 14 .none false false (failEntry tid e (resOf stFLT_TIMEOUT) s)
          | none => failEntry tid e (resOf stFLT_TIMEOUT) s)) := by
  change execTrackerTimeout tid s = _
  rw [execTrackerTimeout, listed]
  exact congrArg Host.Outcome.next (if_neg (Nat.not_lt.2 due))

theorem exec_pcieCompletionTimeout_asked {tid : Nat} {e : Entry} {s : State} (listed : kvGet tid s.trk.entries = some e)
    (asked : e.req = .hostRead) :
    exec (.pcieCompletionTimeout tid) s
      = .next (pciOut (.aer "Completion Timeout") (advance (failEntry tid e (resOf stFLT_TIMEOUT) s))) := by
  change execPcieCompletionTimeout tid s = _
  simp only [execPcieCompletionTimeout, listed, if_pos asked]

/-! ## An entry whose command fails -/

/-- The end of a transfer that has stopped changes the jobs alone. -/
theorem settleXfer_frame (uid : Nat) (s : State) : settleXfer uid s = { s with jobs := (settleXfer uid s).jobs } := by
  unfold settleXfer
  repeat' split
  all_goals rfl

/-- The entry is freed, and its command may end with it; nothing else changes. -/
theorem failEntry_frame (tid : Nat) (e : Entry) (r : Result) (s : State) :
    failEntry tid e r s = { freeEntry tid s with jobs := (failEntry tid e r s).jobs } := by
  unfold failEntry
  split
  next x _ =>
    cases x.engines.find? fun g => g.tid == some tid with
    | some g =>
      simp only
      rw [settleXfer_frame]
      rfl
    | none => rfl
  · rfl
  · rfl

/-- What the reply to an old entry leaves before the work that waited goes on: the entry is gone, its command may have ended, and the drop is counted at the tracker and at the entry's context (R229). -/
theorem lateDrop_failEntry (tid : Nat) (e : Entry) (r : Result) (s : State) :
    lateDrop (some e.ctx) (failEntry tid e r s)
      = setCtx e.ctx { ctxOf s e.ctx with lateDrops := (ctxOf s e.ctx).lateDrops + 1 }
          { s with jobs := (failEntry tid e r s).jobs
                   trk := { s.trk with entries := kvErase tid s.trk.entries, lateDrops := satWord s.trk.lateDrops 1 } } := by
  rw [failEntry_frame]
  rfl

end Sys2Proof.Machine

namespace Sys2Proof

open Machine

/-- Settles O51: a reply by the entry that it matches, by none, and by an old one. -/
theorem trackerRepliesComplete : Obligations.TrackerRepliesComplete := by
  refine ⟨fun tid ep ecc e s quiet found free current => ?current,
    fun tid ep how h e s quiet found current asked => exec_hostCompletion_matched quiet found current asked,
    fun tid e s listed => ⟨exec_trackerTimeout_due listed, exec_pcieCompletionTimeout_asked listed⟩,
    fun tid ep ecc s quiet unmatched => exec_memoryReply_unmatched ecc quiet unmatched,
    fun tid e s quiet listed old free onMemory ecc => ?old, fun tid e s listed => ?dropped⟩
  case current =>
    refine ⟨fun read => ?_, fun write => ?_⟩
    · rw [exec_memoryReply_matched ecc quiet found free (.inl read), current, if_neg (by decide), if_pos read]
    · rw [exec_memoryReply_matched ecc quiet found free (.inr write), current, if_neg (by decide), if_neg (by rw [write]; decide)]
  case old => rw [exec_memoryReply_matched ecc quiet (entryFor_own listed) free onMemory, if_pos old]
  case dropped =>
    intro u
    have left : u = _ := lateDrop_failEntry tid e (resOf stABT_RESET) s
    rw [left]
    exact ⟨congrArg advance left, kvGet_kvErase_self .., fun k other => kvGet_kvErase_ne _ other, rfl, rfl,
      congrArg Ctx.lateDrops (ctxOf_setCtx_self ..)⟩

end Sys2Proof
end

section
/-! PROOFS. Messages and packets as bytes (R4, R48, R49, R273, R345): a field written at its place is read there, and a list packed into one number is read digit by digit. -/

namespace Sys2Proof.Machine

/-! ## Fields at their places -/

/-- A field past a first part of the bytes is that of the rest. -/
theorem leAt_append {o n : Nat} {a : List Byte} (b : List Byte) (h : a.length ≤ o) : leAt o n (a ++ b) = leAt (o - a.length) n b := by
  rw [leAt, leAt, slice, slice, List.drop_append, List.drop_eq_nil_of_le h, List.nil_append]

theorem leAt_cons {o n : Nat} {x : Byte} (b : List Byte) (h : 0 < o) : leAt o n (x :: b) = leAt (o - 1) n b :=
  leAt_append (a := [x]) b h

/-- A number written at the front is read there, as far as its bytes reach. -/
theorem leAt_leBytes (n v : Nat) (rest : List Byte) : leAt 0 n (leBytes n v ++ rest) = v % 256 ^ n := by
  have front : slice 0 n (leBytes n v ++ rest) = leBytes n v := by
    rw [slice, List.drop_zero, List.take_left' (leBytes_length n v), leBytes_length, Nat.sub_self, List.replicate_zero, List.append_nil]
  rw [leAt, front, leNat_leBytes]

/-- One that fits its bytes is read as it was written. -/
theorem leAt_leBytes_of_lt {n v : Nat} (rest : List Byte) (fits : v < 256 ^ n) : leAt 0 n (leBytes n v ++ rest) = v := by
  rw [leAt_leBytes, Nat.mod_eq_of_lt fits]

/-- A word that fits its bytes is read as it was written. -/
theorem ofNat_leAt_leBytes {w n : Nat} (x : BitVec w) (rest : List Byte) (fits : 2 ^ w ≤ 256 ^ n) :
    BitVec.ofNat w (leAt 0 n (leBytes n x.toNat ++ rest)) = x := by
  rw [leAt_leBytes_of_lt rest (Nat.lt_of_lt_of_le x.isLt fits), BitVec.ofNat_toNat, BitVec.setWidth_eq]

theorem drop_append_of_le {o : Nat} {a : List Byte} (b : List Byte) (h : a.length ≤ o) : (a ++ b).drop o = b.drop (o - a.length) := by
  rw [List.drop_append, List.drop_eq_nil_of_le h, List.nil_append]

/-! ## Lists of words -/

/-- Word e of a list of words stands at byte 4e. -/
theorem ofNat_leAt_words {ws : List Word} {e : Nat} (h : e < ws.length) (rest : List Byte) :
    BitVec.ofNat 32 (leAt (4 * e) 4 (ws.flatMap (fun (w : Word) => leBytes 4 w.toNat) ++ rest)) = ws[e] := by
  induction ws generalizing e with
  | nil => exact absurd h (Nat.not_lt_zero e)
  | cons w ws ih =>
    rw [List.flatMap_cons, List.append_assoc]
    cases e with
    | zero => exact ofNat_leAt_leBytes w _ (by decide)
    | succ e =>
      have past : 4 * (e + 1) - (leBytes 4 w.toNat).length = 4 * e := by rw [leBytes_length]; omega
      rw [leAt_append _ (by rw [leBytes_length]; omega), past]
      exact ih (Nat.lt_of_succ_lt_succ h)

/-- The words are read back one by one. -/
theorem map_leAt_words {n : Nat} {ws : List Word} (h : n ≤ ws.length) (rest : List Byte) :
    (List.range n).map (fun e => BitVec.ofNat 32 (leAt (4 * e) 4 (ws.flatMap (fun (w : Word) => leBytes 4 w.toNat) ++ rest))) = ws.take n := by
  refine List.ext_getElem (by rw [List.length_map, List.length_range, List.length_take, Nat.min_eq_left h]) fun e he _ => ?_
  rw [List.length_map, List.length_range] at he
  rw [List.getElem_map, List.getElem_range, ofNat_leAt_words (Nat.lt_of_lt_of_le he h), List.getElem_take]

theorem padded_length {α : Type} (k : Nat) (x : α) (l : List α) : ((l ++ List.replicate k x).take k).length = k := by
  rw [List.length_take, List.length_append, List.length_replicate]
  omega

/-- A list that is filled up to a length and cut to it shows its own elements first. -/
theorem take_padded {α : Type} {n k : Nat} {l : List α} (pad : List α) (len : l.length = n) (h : n ≤ k) : ((l ++ pad).take k).take n = l := by
  rw [List.take_take, Nat.min_eq_left h, List.take_left' len]

/-! ## Lists packed into one number -/

/-- Digits packed into one number, lowest first. -/
def packDigits (b : Nat) (ds : List Nat) : Nat := ds.foldr (fun d acc => d + b * acc) 0

theorem packDigits_cons (b d : Nat) (ds : List Nat) : packDigits b (d :: ds) = d + b * packDigits b ds := rfl

/-- The digits of a number in a base are the list it was packed from. -/
theorem packDigits_digit {b : Nat} {ds : List Nat} (hb : 0 < b) (small : ∀ d ∈ ds, d < b) (e : Nat) :
    packDigits b ds / b ^ e % b = ds.getD e 0 := by
  induction ds generalizing e with
  | nil => exact (congrArg (· % b) (Nat.zero_div _)).trans (Nat.zero_mod b)
  | cons d ds ih =>
    have low : d < b := small d List.mem_cons_self
    rw [packDigits_cons]
    cases e with
    | zero => rw [Nat.pow_zero, Nat.div_one, Nat.add_mul_mod_self_left, Nat.mod_eq_of_lt low, List.getD_cons_zero]
    | succ e =>
      rw [Nat.pow_succ', ← Nat.div_div_eq_div_mul, Nat.add_mul_div_left _ _ hb, Nat.div_eq_of_lt low, Nat.zero_add, List.getD_cons_succ]
      exact ih (fun d h => small d (List.mem_cons_of_mem _ h)) e

theorem packDigits_lt {b : Nat} {ds : List Nat} (small : ∀ d ∈ ds, d < b) : packDigits b ds < b ^ ds.length := by
  induction ds with
  | nil => exact Nat.zero_lt_one
  | cons d ds ih =>
    have low : d < b := small d List.mem_cons_self
    calc packDigits b (d :: ds) < b + b * packDigits b ds := Nat.add_lt_add_right low _
      _ = b * (packDigits b ds + 1) := by rw [Nat.mul_succ, Nat.add_comm]
      _ ≤ b * b ^ ds.length := Nat.mul_le_mul_left b (ih fun d h => small d (List.mem_cons_of_mem _ h))
      _ = b ^ (d :: ds).length := by rw [List.length_cons, Nat.pow_succ']

theorem packBits_eq_packDigits (l : List Bool) : packBits l = packDigits 2 (l.map bnat) := by
  rw [packDigits, List.foldr_map]
  rfl

theorem bnat_lt_two {l : List Bool} {d : Nat} (h : d ∈ l.map bnat) : d < 2 := by
  obtain ⟨b, -, rfl⟩ := List.mem_map.1 h
  cases b <;> decide

/-- Bits packed into enough bytes are read back one by one. -/
theorem map_bit_packBits {n : Nat} {l : List Bool} (fits : l.length ≤ 8 * n) :
    (List.range l.length).map (fun w => bit (packBits l % 256 ^ n) w) = l := by
  have small : packBits l < 256 ^ n :=
    calc packBits l < 2 ^ (l.map bnat).length := by
          rw [packBits_eq_packDigits]
          exact packDigits_lt fun _ => bnat_lt_two
      _ ≤ 2 ^ (8 * n) := Nat.pow_le_pow_right (by decide) (by simpa using fits)
      _ = 256 ^ n := Nat.pow_mul 2 8 n
  rw [Nat.mod_eq_of_lt small]
  refine List.ext_getElem (by simp) fun e he _ => ?_
  rw [List.getElem_map, List.getElem_range, bit, packBits_eq_packDigits, packDigits_digit (by decide) fun _ => bnat_lt_two]
  have inList : e < l.length := by simpa using he
  simp only [List.getD_eq_getElem?_getD, List.getElem?_map, List.getElem?_eq_getElem inList, Option.map_some, Option.getD_some]
  cases l[e] <;> rfl

/-- Check fields of 5 bits packed into one number. -/
def packFields (l : List (BitVec 5)) : Nat := l.foldr (fun c acc => c.toNat + 32 * acc) 0

theorem packFields_eq_packDigits (l : List (BitVec 5)) : packFields l = packDigits 32 (l.map BitVec.toNat) := by
  rw [packDigits, List.foldr_map]
  rfl

theorem field_lt {l : List (BitVec 5)} {d : Nat} (h : d ∈ l.map BitVec.toNat) : d < 32 := by
  obtain ⟨c, -, rfl⟩ := List.mem_map.1 h
  exact c.isLt

/-- Check fields packed into enough bytes are read back one by one. -/
theorem map_packFields {n k : Nat} {l : List (BitVec 5)} (fits : 5 * l.length ≤ 8 * n) (h : k ≤ l.length) :
    (List.range k).map (fun e => BitVec.ofNat 5 (packFields l % 256 ^ n / 2 ^ (5 * e))) = l.take k := by
  have small : packFields l < 256 ^ n :=
    calc packFields l < 32 ^ (l.map BitVec.toNat).length := by
          rw [packFields_eq_packDigits]
          exact packDigits_lt fun _ => field_lt
      _ = 2 ^ (5 * l.length) := by rw [List.length_map, Nat.pow_mul]
      _ ≤ 2 ^ (8 * n) := Nat.pow_le_pow_right (by decide) fits
      _ = 256 ^ n := Nat.pow_mul 2 8 n
  rw [Nat.mod_eq_of_lt small]
  refine List.ext_getElem (by rw [List.length_map, List.length_range, List.length_take, Nat.min_eq_left h]) fun e he _ => BitVec.eq_of_toNat_eq ?_
  have inList : e < l.length := by
    rw [List.length_map, List.length_range] at he
    omega
  rw [List.getElem_map, List.getElem_range, BitVec.toNat_ofNat, Nat.pow_mul, packFields_eq_packDigits]
  change packDigits 32 _ / 32 ^ e % 32 = _
  rw [packDigits_digit (by decide) fun _ => field_lt, List.getElem_take]
  simp [inList]

/-! ## Remote messages (R345) -/

/-- The first 32 bytes of a remote message. -/
def msgHeader (m : Msg) : List Byte :=
  [m.kind, m.code] ++ leBytes 2 m.srcDev.toNat ++ leBytes 2 m.srcCtx.toNat ++ leBytes 2 m.srcGen.toNat
    ++ leBytes 4 m.xferTag.toNat ++ leBytes 2 m.winId.toNat ++ [m.winEpoch, m.cause] ++ leBytes 8 m.offset.toNat
    ++ leBytes 8 m.lenVal.toNat

/-- Every field of the header is read back, whatever follows it. -/
theorem msgOf_header (m : Msg) (body : List Byte) :
    msgOf (msgHeader m ++ body)
      = let data := if m.kind = 0x01 ∨ m.kind = 0x81 then body.drop 64 else if m.kind = 0x05 ∨ m.kind = 0x85 then body else []
        { m with poison := if m.kind = 0x01 ∨ m.kind = 0x81 then (List.range (ceilDiv data.length 8)).map fun w => bit (leAt 0 64 body) w else []
                 data := data } := by
  simp [msgOf, msgHeader, List.append_assoc, leAt_append, leAt_cons, drop_append_of_le, ofNat_leAt_leBytes, List.getElem?_append_right]

/-- What follows the header: the poison bits and data of WRITE and READ_DATA, the words of MGT_REQ and MGT_RSP. -/
theorem msgBytes_eq (m : Msg) :
    msgBytes m = msgHeader m ++ (if m.kind = 0x01 ∨ m.kind = 0x81 then leBytes 64 (packBits m.poison) ++ m.data
      else if m.kind = 0x05 ∨ m.kind = 0x85 then m.data else []) := rfl

/-- A message with data is read back, its poison bits one for each started 8 bytes. -/
theorem msgOf_msgBytes_data {m : Msg} (kind : m.kind = 0x01 ∨ m.kind = 0x81) (len : m.data.length ≤ 4096)
    (bits : m.poison.length = (m.data.length + 7) / 8) : msgOf (msgBytes m) = m := by
  have words : ceilDiv m.data.length 8 = m.poison.length := by
    simp only [ceilDiv, bits]
    rw [if_neg (by decide)]
    split <;> omega
  rw [msgBytes_eq, msgOf_header]
  simp only [kind, if_true, drop_append_of_le m.data (Nat.le_of_eq (leBytes_length 64 _)), leBytes_length, Nat.sub_self, List.drop_zero,
    leAt_leBytes, words, map_bit_packBits (n := 64) (l := m.poison) (by omega)]

/-- So is a message without, and a packet carried. -/
theorem msgOf_msgBytes_plain {m : Msg} (kind : ¬(m.kind = 0x01 ∨ m.kind = 0x81)) (bits : m.poison = [])
    (rest : m.kind = 0x05 ∨ m.kind = 0x85 ∨ m.data = []) : msgOf (msgBytes m) = m := by
  rw [msgBytes_eq, msgOf_header]
  simp only [kind, if_false, ← bits]
  split
  · rfl
  next other =>
    have noData : m.data = [] := (or_assoc.2 rest).resolve_left other
    rw [← noData]

/-! ## Splice messages (R273) -/

/-- The first 64 bytes of a splice message. -/
def splHeader (m : SplMsg) : List Byte :=
  [m.kind, m.pflags] ++ leBytes 2 m.tag.toNat ++ leBytes 2 m.step.toNat ++ leBytes 2 m.srcDev.toNat
    ++ leBytes 4 m.jobKey.toNat ++ leBytes 4 m.chunk.toNat ++ leBytes 2 m.valid ++ leBytes 2 m.count
    ++ leBytes 4 m.devSum.toNat ++ leBytes 2 m.firstMissing.toNat ++ [m.cause] ++ zeros 5 ++ leBytes 32 (packBits m.poison)

theorem splHeader_length (m : SplMsg) : (splHeader m).length = 64 := by simp [splHeader, zeros]

/-- Every field of the header is read back, whatever follows it. -/
theorem splOf_header {m : SplMsg} (body : List Byte) (valid : m.valid ≤ 256) (count : m.count < 2 ^ 16) (bits : m.poison.length = m.valid) :
    splOf (splHeader m ++ body)
      = { m with
          elems := if m.kind.toNat < 2 then (List.range m.valid).map fun e => BitVec.ofNat 32 (leAt (64 + 4 * e) 4 (splHeader m ++ body)) else []
          checks := if m.kind.toNat < 2 then (List.range m.valid).map fun e => BitVec.ofNat 5 (leAt 1088 160 (splHeader m ++ body) / 2 ^ (5 * e))
            else [] } := by
  have validFits : m.valid < 65536 := by omega
  have countFits : m.count < 65536 := count
  have poison : (List.range m.valid).map (fun e => bit (leAt 0 32 (leBytes 32 (packBits m.poison) ++ body)) e) = m.poison := by
    rw [leAt_leBytes, ← bits, map_bit_packBits (by omega)]
  have number : leAt 16 2 (splHeader m ++ body) = m.valid := by
    simp [splHeader, leAt_append, leAt_cons, leAt_leBytes_of_lt, validFits]
  simp only [splOf, number]
  simp [splHeader, zeros, leAt_append, leAt_cons, ofNat_leAt_leBytes, leAt_leBytes_of_lt, List.getElem?_append_right, countFits, poison]

/-- The elements of a RUN or FINAL, filled up to a chunk of 256. -/
def splElems (m : SplMsg) : List Word := (m.elems ++ List.replicate 256 0).take 256

/-- Their check fields, filled up alike. -/
def splChecks (m : SplMsg) : List (BitVec 5) := (m.checks ++ List.replicate 256 0).take 256

theorem splElems_length (m : SplMsg) : (splElems m).length = 256 := padded_length ..

theorem splChecks_length (m : SplMsg) : (splChecks m).length = 256 := padded_length ..

/-- RUN and FINAL go on with their elements and check fields. -/
theorem splBytes_long {m : SplMsg} (kind : m.kind.toNat < 2) :
    splBytes m = splHeader m ++ ((splElems m).flatMap (fun (w : Word) => leBytes 4 w.toNat) ++ (leBytes 160 (packFields (splChecks m)) ++ zeros 32)) := by
  rw [splBytes, if_pos kind, ← List.append_assoc, ← List.append_assoc]
  rfl

/-- The others end with their header. -/
theorem splBytes_short {m : SplMsg} (kind : ¬m.kind.toNat < 2) : splBytes m = splHeader m ++ [] := by
  rw [splBytes, if_neg kind, List.append_nil]
  rfl

theorem splOf_splBytes_long {m : SplMsg} (kind : m.kind.toNat < 2) (valid : m.valid ≤ 256) (count : m.count < 2 ^ 16)
    (bits : m.poison.length = m.valid) (elems : m.elems.length = m.valid) (checks : m.checks.length = m.valid) : splOf (splBytes m) = m := by
  have atElems : ∀ e, leAt (64 + 4 * e) 4 (splBytes m)
      = leAt (4 * e) 4 ((splElems m).flatMap (fun (w : Word) => leBytes 4 w.toNat) ++ (leBytes 160 (packFields (splChecks m)) ++ zeros 32)) := by
    intro e
    rw [splBytes_long kind, leAt_append _ (by rw [splHeader_length]; omega), splHeader_length, Nat.add_sub_cancel_left]
  have wordBytes : ((splElems m).flatMap fun (w : Word) => leBytes 4 w.toNat).length = 1024 := by
    simp only [List.length_flatMap, leBytes_length, List.map_const', splElems_length, List.sum_replicate_nat]
  have atChecks : leAt 1088 160 (splBytes m) = packFields (splChecks m) % 256 ^ 160 := by
    rw [splBytes_long kind, leAt_append _ (by rw [splHeader_length]; decide), splHeader_length,
      leAt_append _ (Nat.le_of_eq wordBytes), wordBytes, Nat.sub_self, leAt_leBytes]
  have elemsRead : (List.range m.valid).map (fun e => BitVec.ofNat 32 (leAt (64 + 4 * e) 4 (splBytes m))) = m.elems := by
    simp only [atElems]
    rw [map_leAt_words (by rwa [splElems_length]), splElems, take_padded _ elems valid]
  have checksRead : (List.range m.valid).map (fun e => BitVec.ofNat 5 (leAt 1088 160 (splBytes m) / 2 ^ (5 * e))) = m.checks := by
    rw [atChecks, map_packFields (Nat.mul_le_mul_left 5 (Nat.le_of_eq (splChecks_length m))) (by rwa [splChecks_length]), splChecks, take_padded _ checks valid]
  rw [splBytes_long kind] at elemsRead checksRead ⊢
  rw [splOf_header _ valid count bits, if_pos kind, if_pos kind, elemsRead, checksRead]

theorem splOf_splBytes_short {m : SplMsg} (kind : ¬m.kind.toNat < 2) (valid : m.valid ≤ 256) (count : m.count < 2 ^ 16)
    (bits : m.poison.length = m.valid) (elems : m.elems = []) (checks : m.checks = []) : splOf (splBytes m) = m := by
  rw [splBytes_short kind, splOf_header _ valid count bits, if_neg kind, if_neg kind]
  cases m
  cases elems
  cases checks
  rfl

/-! ## Packets (R48, R49) -/

/-- The first 16 bytes of a packet. -/
def packetHeader (p : Packet) : List Byte :=
  leBytes 2 p.opcode.toNat ++ leBytes 2 p.flags.toNat ++ leBytes 1 p.length.toNat ++ leBytes 3 p.rsvd.toNat
    ++ leBytes 4 p.seq.toNat ++ leBytes 4 p.cookie.toNat

theorem packetHeader_length (p : Packet) : (packetHeader p).length = 16 := by simp [packetHeader]

theorem packetBytes_eq (p : Packet) : packetBytes p = packetHeader p ++ (p.params.flatMap (fun (w : Word) => leBytes 4 w.toNat) ++ []) := by
  rw [List.append_nil]
  rfl

/-- Every field of the header is read back, and the words up to its LENGTH. -/
theorem parsePacket_header {p : Packet} (i : Issuer) (body : List Byte) (least : 1 ≤ p.length.toNat) (most : p.length.toNat ≤ 16) :
    parsePacket i (packetHeader p ++ body)
      = { p with
          issuer := i
          params := (List.range (p.length.toNat * 4 - 4)).map fun w => BitVec.ofNat 32 (leAt (16 + 4 * w) 4 (packetHeader p ++ body)) } := by
  have fits : p.length.toNat < 256 := p.length.isLt
  have number : leAt 4 1 (packetHeader p ++ body) = p.length.toNat := by
    simp [packetHeader, leAt_append, leAt_leBytes_of_lt, fits]
  have inRange : ¬(p.length.toNat = 0 ∨ 16 < p.length.toNat) := by omega
  simp only [parsePacket, number, inRange, if_false]
  simp [packetHeader, leAt_append, ofNat_leAt_leBytes]

theorem parsePacket_packetBytes {p : Packet} (least : 1 ≤ p.length.toNat) (most : p.length.toNat ≤ 16)
    (words : p.params.length + 4 = 4 * p.length.toNat) : parsePacket p.issuer (packetBytes p) = p := by
  have atWords : ∀ w body, leAt (16 + 4 * w) 4 (packetHeader p ++ body) = leAt (4 * w) 4 body := by
    intro w body
    rw [leAt_append _ (by rw [packetHeader_length]; omega), packetHeader_length, Nat.add_sub_cancel_left]
  have all : p.length.toNat * 4 - 4 = p.params.length := by omega
  rw [packetBytes_eq, parsePacket_header _ _ least most]
  simp only [atWords, all]
  rw [map_leAt_words (Nat.le_refl _), List.take_length]

end Sys2Proof.Machine

namespace Sys2Proof

open Machine

/-- Settles O58: remote messages with and without data, splice messages with and without elements, and packets. -/
theorem messagesAndPacketsReadBack : Obligations.MessagesAndPacketsReadBack := by
  refine ⟨fun m lengths => ?remote, fun m valid count bits elems checks => ?splice, fun p least most words => parsePacket_packetBytes least most words⟩
  case remote =>
    by_cases kind : m.kind = 0x01 ∨ m.kind = 0x81
    · rw [if_pos kind] at lengths
      exact msgOf_msgBytes_data kind lengths.1 lengths.2
    · rw [if_neg kind] at lengths
      exact msgOf_msgBytes_plain kind lengths.1 lengths.2
  case splice =>
    by_cases kind : m.kind.toNat < 2
    · rw [if_pos kind] at elems checks
      exact splOf_splBytes_long kind valid count bits elems checks
    · rw [if_neg kind] at elems checks
      exact splOf_splBytes_short kind valid count bits (List.eq_nil_of_length_eq_zero elems) (List.eq_nil_of_length_eq_zero checks)

end Sys2Proof
end

section
/-! PROOFS. The order of the rejections (R83). -/

namespace Sys2Proof

open Machine

/-- Settles O3: the classes are asked in the order of R83, and each gives its own status. -/
theorem rejectionOrder : Obligations.RejectionOrder := by
  intro k
  have held : ∀ l : List Nat, (!l.isEmpty) = true ↔ l ≠ [] := fun l => by simp
  simp only [verdict, held, apply_ite (Option.map Result.status)]
  rfl

end Sys2Proof
end

section
/-! PROOFS. CTL.NOP, CTL.BARRIER and the hitch commands on this module: what each does when it is accepted (R68, R70 to R75, R355, R364). -/

namespace Sys2Proof.Machine

open Safety

@[simp] theorem takenUp_queues (op : Nat) (p : Packet) (s : State) : (takenUp op p s).queues = s.queues := by rw [takenUp_frame]

/-- The packet's own entry is none of those before it. -/
theorem earlierOpen_addJob_own (j : Job) (s : State) (g : Nat) : earlierOpen (addJob j s) g j.uid = earlierOpen s g j.uid := by
  simp [earlierOpen]

/-- The packet that a CTL.BARRIER leaves. -/
def barrierJob (uid : Nat) (p : Packet) (s : State) : Job :=
  newJob s uid p (if pb p 4 0 then .barrier false (openOf s (issuerCtx s p.issuer)) else .barrier true [])

/-- Has the scope of a CTL.BARRIER of context c drained: the context's queues, or the packets of its own queue before it (R68)? -/
def barrierDrained (uid c : Nat) (p : Packet) (s : State) : Bool :=
  if pb p 4 0 then (openOf s c).isEmpty
  else match fromQueue p.issuer with
    | some g => !earlierOpen s g uid
    | none => true

theorem releaseOne_barrierJob (uid : Nat) (p : Packet) (s : State) :
    releaseOne (barrierJob uid p s) (addJob (barrierJob uid p s) s)
      = if barrierDrained uid (issuerCtx s p.issuer) p s then finish uid okRes (addJob (barrierJob uid p s) s) else addJob (barrierJob uid p s) s := by
  have unanswered : (barrierJob uid p s).res.isSome = false := rfl
  have own : ∀ g, earlierOpen (addJob (barrierJob uid p s) s) g uid = earlierOpen s g uid := earlierOpen_addJob_own (barrierJob uid p s) s
  cases scope : pb p 4 0 with
  | true =>
    have work : (barrierJob uid p s).work = .barrier false (openOf s (issuerCtx s p.issuer)) := if_pos scope
    simp only [releaseOne, unanswered, work, anyOpen_openOf, barrierDrained, scope]
    cases (openOf s (issuerCtx s p.issuer)).isEmpty <;> rfl
  | false =>
    have work : (barrierJob uid p s).work = .barrier true [] := if_neg (by simp [scope])
    have issuer : (barrierJob uid p s).pkt.issuer = p.issuer := rfl
    have number : (barrierJob uid p s).uid = uid := rfl
    simp only [releaseOne, unanswered, work, issuer, number, barrierDrained, scope]
    cases fromQueue p.issuer with
    | none => rfl
    | some g =>
      simp only [own]
      cases earlierOpen s g uid <;> rfl

/-- An accepted CTL.BARRIER is answered where its scope has drained, and else waits; only the list of packets changes. -/
theorem ctlBarrier_accepted {p : Packet} {s : State} (h : Accepted 0x0101 barrierChecks p s) :
    let s0 := takenUp 0x0101 p s
    ∃ u, exec (.ctlBarrier p) s = .next (met s u) ∧ u = { s0 with jobs := u.jobs }
      ∧ lastReply u = some (packetNo 0x0101 p s, if barrierDrained (packetNo 0x0101 p s) (issuerCtx s p.issuer) p s0 then some okRes else none) := by
  intro s0
  have context : issuerCtx s0 p.issuer = issuerCtx s p.issuer := by simp only [issuerCtx, s0, takenUp_queues]
  have runs := exec_accepted (mk := .ctlBarrier) (fun _ _ => rfl) h
  rw [runBarrier_accepted _ _ _ h.2] at runs
  have released := releaseOne_barrierJob (packetNo 0x0101 p s) (asOp 0x0101 p) s0
  change _ = if barrierDrained (packetNo 0x0101 p s) (issuerCtx s0 p.issuer) p s0 then _ else _ at released
  rw [context] at released
  refine ⟨_, runs.trans (congrArg (fun u => Host.Outcome.next (met s u)) released), ?_⟩
  split
  · exact ⟨rfl, lastReply_finish _ rfl rfl rfl⟩
  · exact ⟨rfl, lastReply_addJob _ _⟩

end Sys2Proof.Machine

namespace Sys2Proof

open Machine Safety

/-- Settles O7: CTL.NOP has no effect, and CTL.BARRIER waits or ends as its scope has drained. -/
theorem controlCommandsComplete : Obligations.ControlCommandsComplete := by
  exact ⟨runsWhole_of_runNow fun _ _ => rfl, fun _ _ accepted => ctlBarrier_accepted accepted⟩

/-- Settles O8: four commands whole in their step, and HCH.WAIT. -/
theorem hitchCommandsComplete : Obligations.HitchCommandsComplete := by
  refine ⟨runsWhole_of_runNow fun _ _ => rfl, runsWhole_of_runNow fun _ _ => rfl, runsWhole_of_runNow fun _ _ => rfl,
    runsWhole_of_runNow fun _ _ => rfl, fun p s accepted => ?_⟩
  rw [exec_accepted (mk := .hchWait) (fun _ _ => rfl) accepted, runWait_accepted _ _ _ accepted.2]

end Sys2Proof
end

section
/-! PROOFS. Hitches: what an update does to the hitch, to the packets and plans that wait for it, and to nothing else (R70 to R75, R258). -/

namespace Sys2Proof.Machine

/-! ## The hitch -/

theorem hitchOf_hitchPut_self (h : Nat) (v : DWord) (s : State) : hitchOf (hitchPut h v s) h = { hitchOf s h with value := v } :=
  hitchOf_kvSet_self ..

@[simp] theorem hitchPut_value (h : Nat) (v : DWord) (s : State) : (hitchOf (hitchPut h v s) h).value = v := by rw [hitchOf_hitchPut_self]

@[simp] theorem hitchPut_owner (h : Nat) (v : DWord) (s : State) : (hitchOf (hitchPut h v s) h).owner = (hitchOf s h).owner := by
  rw [hitchOf_hitchPut_self]

theorem hitchPut_frame (h : Nat) (v : DWord) (s : State) :
    hitchPut h v s = { s with hitches := (hitchPut h v s).hitches, jobs := (hitchPut h v s).jobs, spl := (hitchPut h v s).spl } := rfl

/-! ## HCH.PRODUCER -/

/-- The registrations that HCH.PRODUCER makes of those there are. -/
def producerRegs (p : Packet) (regs : List Producer) : List Producer :=
  if pb p 4 16 then regs.filter (· != producerOf p) else if regs.contains (producerOf p) then regs else regs ++ [producerOf p]

theorem producerEffect_eq (p : Packet) (s : State) :
    producerEffect p s
      = ({ s with hitches := kvSet (hitchNo p) { hitchOf s (hitchNo p) with regs := producerRegs p (hitchOf s (hitchNo p)).regs } s.hitches },
          okCnt (BitVec.ofNat 32 (producerRegs p (hitchOf s (hitchNo p)).regs).length) 0 0 0) := rfl

/-- The producer named is registered, unless it was to be removed. -/
theorem producerOf_mem_producerRegs (p : Packet) (regs : List Producer) : producerOf p ∈ producerRegs p regs ↔ pb p 4 16 = false := by
  unfold producerRegs
  cases pb p 4 16 with
  | true => simp
  | false =>
    simp only [Bool.false_eq_true, if_false, iff_true]
    split
    next there => exact List.contains_iff_mem.1 there
    next => simp

/-- The other registrations stay. -/
theorem mem_producerRegs_of_ne {p : Packet} {x : Producer} (regs : List Producer) (other : x ≠ producerOf p) :
    x ∈ producerRegs p regs ↔ x ∈ regs := by
  unfold producerRegs
  split
  · simp [other]
  · split <;> simp [other]

/-! ## HCH.ADD -/

theorem addEffect_status (p : Packet) (s : State) :
    (addEffect p s).2.status
      = if 2 ^ 64 ≤ (hitchOf s (hitchNo p)).value.toNat + (valueOf p).toNat then stFLAGGED else stOK := by
  simp only [addEffect, hitchRes, resOf, decide_eq_true_eq]

/-- It is flagged exactly on a wrap. -/
theorem addEffect_flagged (p : Packet) (s : State) :
    (addEffect p s).2.status = stFLAGGED ↔ 2 ^ 64 ≤ (hitchOf s (hitchNo p)).value.toNat + (valueOf p).toNat := by
  rw [addEffect_status]
  split
  next wraps => exact iff_of_true rfl wraps
  next fits => exact iff_of_false (by decide) fits

theorem addEffect_ok (p : Packet) (s : State) :
    (addEffect p s).2.status = stOK ↔ (hitchOf s (hitchNo p)).value.toNat + (valueOf p).toNat < 2 ^ 64 := by
  rw [addEffect_status]
  split
  next wraps => exact iff_of_false (by decide) (Nat.not_lt.2 wraps)
  next fits => exact iff_of_true rfl (Nat.lt_of_not_le fits)

/-! ## Packets that wait -/

/-- What an update of a hitch makes of a packet: a pending wait whose condition holds has its result (R72). -/
def tested (h : Nat) (v : DWord) (j : Job) : Job :=
  match j.work with
  | .wait h' eq w _ =>
    if h' = h ∧ condHolds eq w v ∧ j.res = none then
      { j with work := .finished, res := some (okCnt (v.setWidth 32) ((v >>> 32).setWidth 32) 0 0) }
    else j
  | _ => j

theorem hitchPut_jobs (h : Nat) (v : DWord) (s : State) : (hitchPut h v s).jobs = s.jobs.map (tested h v) := rfl

theorem tested_wait {h : Nat} {eq : Bool} {w : DWord} {t : Nat} {j : Job} (v : DWord) (waits : j.work = .wait h eq w t) (pending : j.res = none) :
    tested h v j = if condHolds eq w v then { j with work := .finished, res := some (okCnt (lo32 v) (hi32 v) 0 0) } else j := by
  simp only [tested, waits, pending, true_and, and_true]
  rfl

/-- A packet that does not wait for the hitch, or waits no longer, stays as it is. -/
theorem tested_other {h : Nat} {j : Job} (v : DWord) (other : (∀ eq w t, j.work ≠ .wait h eq w t) ∨ j.res ≠ none) : tested h v j = j := by
  unfold tested
  split
  next h' eq w t work =>
    refine if_neg fun ⟨same, _, pending⟩ => ?_
    subst same
    exact other.elim (fun elsewhere => elsewhere eq w t work) fun released => released pending
  next => rfl

theorem condHolds_iff (eq : Bool) (w v : DWord) : condHolds eq w v = true ↔ if eq then v = w else w.toNat ≤ v.toNat := by
  cases eq <;> simp [condHolds]

/-! ## Plans that wait -/

theorem hitchPut_plans (h : Nat) (v : DWord) (s : State) :
    (hitchPut h v s).spl.plans
      = kvMap (fun _ x => if x.armed.isSome ∧ x.hitch = h ∧ x.v.toNat ≤ v.toNat then { x with begun := true } else x) s.spl.plans := by
  simp only [hitchPut, Bool.and_eq_true, beq_iff_eq, decide_eq_true_eq, and_assoc]

theorem mem_kvMap {α : Type} {f : Nat → α → α} {n : Nat} {x : α} {t : KV α} (h : (n, x) ∈ t) : (n, f n x) ∈ kvMap f t :=
  List.mem_map.2 ⟨(n, x), h, rfl⟩

end Sys2Proof.Machine

namespace Sys2Proof

open Machine

/-- Settles O9: the three effects on their hitch, and what they leave. -/
theorem hitchEffects : Obligations.HitchEffects := by
  intro p s h v a b c
  have sum : (hitchOf b.1 h).value = v + valueOf p := hitchPut_value ..
  have produced : c = _ := producerEffect_eq p s
  rw [sum, produced, hitchOf_kvSet_self]
  exact ⟨hitchPut_value .., rfl, BitVec.toNat_add v (valueOf p), rfl, rfl, addEffect_flagged p s, addEffect_ok p s, rfl, rfl,
    producerOf_mem_producerRegs p _, fun x other => mem_producerRegs_of_ne _ other,
    fun k other => ⟨hitchOf_hitchPut_ne _ s other, hitchOf_hitchPut_ne _ s other, hitchOf_kvSet_ne _ s other⟩,
    hitchPut_owner .., hitchPut_owner .., hitchPut_frame .., hitchPut_frame .., rfl⟩

/-- Settles O10: the packets and the plans that an update tests. -/
theorem everyHitchUpdateTestsEveryWaiter : Obligations.EveryHitchUpdateTestsEveryWaiter := by
  intro h v s j listed
  have kept : tested h v j ∈ (hitchPut h v s).jobs := List.mem_map_of_mem listed
  refine ⟨fun eq w t waits pending => ?_, fun other => ?_, by rw [hitchPut_jobs, List.length_map], fun n x plan => ?_⟩
  · rw [tested_wait v waits pending] at kept
    by_cases holds : condHolds eq w v = true
    · rw [if_pos holds] at kept
      rwa [if_pos ((condHolds_iff eq w v).1 holds)]
    · rw [if_neg holds] at kept
      rwa [if_neg (mt (condHolds_iff eq w v).2 holds)]
  · rwa [tested_other v other] at kept
  · rw [hitchPut_plans]
    exact mem_kvMap plan

end Sys2Proof
end

section
/-! PROOFS. The limits of time of waits and batches (R73, R80, R364). -/

namespace Sys2Proof.Machine

/-- An update of a packet whose number no other has changes that packet alone. -/
theorem updJob_at {j : Job} {front back : List Job} (f : Job → Job) (s : State) (before : ∀ x ∈ front, x.uid ≠ j.uid)
    (after : ∀ x ∈ back, x.uid ≠ j.uid) :
    updJob j.uid f { s with jobs := front ++ j :: back } = { s with jobs := front ++ f j :: back } := by
  have unchanged : ∀ l : List Job, (∀ x ∈ l, x.uid ≠ j.uid) → (l.map fun x => if x.uid = j.uid then f x else x) = l :=
    fun l others => (List.map_congr_left fun x hx => if_neg (others x hx)).trans (List.map_id' l)
  simp only [updJob, List.map_append, List.map_cons, unchanged front before, unchanged back after, if_true]

/-- What the end of a queue's wait makes of a packet: the queue's pending wait has its result, the others are as they were (R73). -/
def waitEnded (g : Nat) (s : State) (j : Job) : Job :=
  match j.work with
  | .wait h _ _ _ =>
    if j.pkt.issuer = .queue g ∧ j.res = none then
      { j with work := .finished, res := some (hitchRes stFLT_TIMEOUT (hitchOf s h).value) }
    else j
  | _ => j

theorem waitEnded_uid (g : Nat) (s : State) (j : Job) : (waitEnded g s j).uid = j.uid := by
  unfold waitEnded
  split
  · split <;> rfl
  · rfl

/-- How the end of a queue's wait takes one packet in turn. -/
def endWaitAt (g : Nat) (s : State) (j : Job) : State :=
  match j.work with
  | .wait h _ _ _ => if j.pkt.issuer = .queue g then finish j.uid (hitchRes stFLT_TIMEOUT (hitchOf s h).value) s else s
  | _ => s

theorem endWait_eq (g : Nat) (s : State) : endWait g s = s.jobs.foldl (endWaitAt g) s := rfl

theorem endWaitAt_eq {g : Nat} {s : State} {j : Job} {front back : List Job} (before : ∀ x ∈ front, x.uid ≠ j.uid)
    (after : ∀ x ∈ back, x.uid ≠ j.uid) :
    endWaitAt g { s with jobs := front ++ j :: back } j = { s with jobs := front ++ waitEnded g s j :: back } := by
  unfold endWaitAt waitEnded
  split
  next h _ _ _ _ =>
    by_cases issued : j.pkt.issuer = .queue g
    · rw [if_pos issued, finish, updJob_at _ s before after]
      cases pending : j.res <;> simp [issued, hitchOf]
    · rw [if_neg issued, if_neg fun both => issued both.1]
  next => rfl

/-- With each number once, every packet is taken once, as the state before had it. -/
theorem foldl_endWaitAt {g : Nat} {s : State} (front back : List Job) (distinct : ((front ++ back).map Job.uid).Nodup) :
    back.foldl (endWaitAt g) { s with jobs := front.map (waitEnded g s) ++ back } = { s with jobs := (front ++ back).map (waitEnded g s) } := by
  induction back generalizing front with
  | nil => simp
  | cons j back ih =>
    have split := distinct
    rw [List.map_append, List.map_cons, List.nodup_append, List.nodup_cons] at split
    obtain ⟨-, ⟨notAfter, -⟩, apart⟩ := split
    have before : ∀ x ∈ front.map (waitEnded g s), x.uid ≠ j.uid := by
      intro x hx
      obtain ⟨y, hy, rfl⟩ := List.mem_map.1 hx
      rw [waitEnded_uid]
      exact apart _ (List.mem_map_of_mem hy) _ List.mem_cons_self
    have after : ∀ x ∈ back, x.uid ≠ j.uid := fun x hx same => notAfter (same ▸ List.mem_map_of_mem hx)
    have step := ih (front ++ [j]) (by rwa [List.append_assoc, List.singleton_append])
    rw [List.map_append, List.append_assoc, List.append_assoc] at step
    rw [List.foldl_cons, endWaitAt_eq before after]
    exact step

theorem endWait_jobs {g : Nat} {s : State} (distinct : (s.jobs.map Job.uid).Nodup) :
    endWait g s = { s with jobs := s.jobs.map (waitEnded g s) } :=
  foldl_endWaitAt [] s.jobs distinct

end Sys2Proof.Machine

namespace Sys2Proof

open Machine

/-- Settles O36: the end of a timed wait, packet by packet, and of a batch's wait. -/
theorem waitAndBatchDeadlines : Obligations.WaitAndBatchDeadlines := by
  refine ⟨fun g s distinct => ?_, fun b s => rfl⟩
  change Host.Outcome.next (if timedWait s g then endWait g s else s) = _
  rw [endWait_jobs distinct]
  rfl

end Sys2Proof
end

section
/-! PROOFS. Reading and completing the packets of a queue (R48, R52 to R56, R60). -/

namespace Sys2Proof.Machine

/-! ## The reply -/

/-- A reply has 32 bytes (R53). -/
theorem replyBytes_length (s : State) (j : Job) (r : Result) : (replyBytes s j r).length = 32 := by
  simp only [replyBytes, List.length_append, leBytes_length, List.length_singleton]

/-- No reply is wanted exactly where NO_REPLY_ON_OK meets OK (R56). -/
theorem wantsReply_eq_false_iff (p : Packet) (r : Result) : wantsReply p r = false ↔ hasFlag p flNO_REPLY = true ∧ r.status = stOK := by
  simp [wantsReply]

/-- The reply goes to slot REPLY_COOKIE modulo REPLY_SLOTS of the reply ring, unless it is skipped (R52, R56). -/
theorem writeReply_eq (q : Queue) (j : Job) (r : Result) (s : State) :
    writeReply q j r s
      = if hasFlag j.pkt flNO_REPLY = true ∧ r.status = stOK then (s, none)
        else vaWrite reachReply q.ctx (q.replyVa + 32 * (j.pkt.cookie.toNat % max q.replySlots 1)) ((replyBytes s j r).map fun b => (b, false)) s := by
  by_cases skipped : hasFlag j.pkt flNO_REPLY = true ∧ r.status = stOK
  · rw [if_pos skipped, writeReply, (wantsReply_eq_false_iff ..).2 skipped]
    rfl
  · rw [if_neg skipped, writeReply, if_pos (Bool.of_not_eq_false (mt (wantsReply_eq_false_iff ..).1 skipped))]

/-! ## Reading a packet -/

/-- A queue that is listed. -/
theorem updQueue_listed {g : Nat} {q : Queue} {s : State} (f : Queue → Queue) (listed : queueOf s g = some q) :
    updQueue g f s = { s with queues := kvSet g (f q) s.queues } := by
  rw [updQueue, listed]

theorem takeRing_listed {g : Nat} {q : Queue} {s : State} (n : Nat) (listed : queueOf s g = some q) :
    takeRing g n s
      = ({ s with nextUid := s.nextUid + 1, queues := kvSet g { q with consumed := q.consumed + BitVec.ofNat 32 n } s.queues }, s.nextUid) := by
  rw [takeRing, updQueue_listed _ listed]

/-- PACKET_FETCH of a ring that holds a whole packet. -/
theorem exec_packetFetch {g n : Nat} {host : HostNews} {s : State} {q : Queue} {p : Packet} (listed : queueOf s g = some q)
    (readable : mayFetch (takeNews host s) q = true) (whole : ringNext (takeNews host s) g q = .packet p n) :
    exec (.packetFetch g host) s
      = .next (noteConsumed g (acceptPacket s.nextUid p
          { takeNews host s with nextUid := s.nextUid + 1
                                 queues := kvSet g { q with consumed := q.consumed + BitVec.ofNat 32 n } s.queues })) := by
  have there : queueOf (takeNews host s) g = some q := listed
  change execPacketFetch g host s = _
  simp only [execPacketFetch, there, readable, whole, takeRing_listed n there]
  rfl

end Sys2Proof.Machine

namespace Sys2Proof

open Machine

/-- Settles O33: the packet leaves the ring, is accepted, and CONSUMED is written. -/
theorem packetFetchTakesOnePacket : Obligations.PacketFetchTakesOnePacket := by
  intro g host s q p n s0 listed readable whole
  exact ⟨_, rfl, exec_packetFetch listed readable whole⟩

/-- Settles O35: what follows the reply does not ask whether it was written. -/
theorem noReplyOnOk : Obligations.NoReplyOnOk := by
  intro g j r s q listed w s1 c s2
  have reply : writeReply q j r s = w := writeReply_eq q j r s
  refine ⟨replyBytes_length s j r, ?_⟩
  rw [completeQueue, listed]
  simp only [reply]
  rfl

end Sys2Proof
end

section
/-! PROOFS. PACKET_COMPLETE while the Tackle chip runs (R55, R292): the packets that have become ready for the chip are recorded, beside what R55 orders. -/

namespace Sys2Proof.Machine

/-- Context 1 as these states have it: LIVE, with its tables from address 0 on. -/
def liveCtx : Ctx := { noCtx with state := .live, poolSize := 0x200000 }

/-- A queue of context 1, with its reply ring and its state block within one page. -/
def servedQueue (index stateVa : Nat) : Queue :=
  { ctx := 1, qindex := index, ringVa := 0x10000, ringSlots := 16, replyVa := 0x20000, replySlots := 16, stateVa := stateVa, msix := none
    hitch := none, batchWait := 0, consumed := 0, done := 0, lastTail := 0, qflags := 0, dbErrors := 0, stopping := false }

/-- A packet of a queue, with its parameter words 0. -/
def barePacket (g op flags len : Nat) : Packet :=
  { issuer := .queue g, opcode := BitVec.ofNat 16 op, flags := BitVec.ofNat 16 flags, length := BitVec.ofNat 8 len, rsvd := 0, seq := 0, cookie := 0
    params := List.replicate (4 * len - 4) 0 }

/-- A started packet of context 1. -/
def startedJob (uid : Nat) (p : Packet) (w : Work) (r : Option Result) : Job :=
  { uid := uid, pkt := p, ctx := 1, gen := 0, settings := liveCtx, startMs := 0, work := w, res := r, data := [] }

/-- A CTL.NOP of queue 0 that has its result. -/
def nopDone : Job := startedJob 1 (barePacket 0 0x0100 0 1) .finished (some okRes)

/-- The Tackle chip runs a TKL.STEP of queue 1; behind the CTL.NOP of queue 0 a TKL.NORM with WAIT_PREV waits. Three tables map the first 2 MiB of context 1 to the host. -/
def tackleWaiting : State :=
  { State.reset with
    str := { State.reset.str with phasesDone := 8 }
    mem := { State.reset.mem with ready := true, cells := [(0, 0x01), (1, 0x10), (2 ^ 37, 0x01), (2 ^ 37 + 1, 0x20), (2 ^ 38, 0x17)] }
    ctxs := [(1, liveCtx)]
    queues := [(0, servedQueue 0 0x1000), (1, servedQueue 1 0x1040)]
    jobs := [startedJob 0 (barePacket 1 0x0805 0 3) .tklStep none, nopDone]
    fetched := [(2, barePacket 0 0x0804 1 2)]
    nextUid := 3
    tkl := { State.reset.tkl with run := some (newRun 0 (barePacket 1 0x0805 0 3)) } }

/-- The order in which packets became ready for the Tackle chip, in the state that a step answers. -/
def tackleOrderAfter : Host.Outcome State Fault Refusal → List Nat
  | .next u => u.tkl.waiting
  | _ => []

/-- The step records the TKL.NORM, which the end of the CTL.NOP has made ready. -/
theorem packetComplete_records_ready : tackleOrderAfter (exec (.packetComplete 1) tackleWaiting) = [2] := by decide +kernel

/-- Reply, counts, hitch, message and released waits record nothing. -/
theorem completeQueue_records_nothing : (completeQueue 0 nopDone (arrReply tackleWaiting nopDone okRes) tackleWaiting).tkl.waiting = [] := by
  decide +kernel

end Sys2Proof.Machine

namespace Sys2Proof

open Machine

/-- Refutes O34: while the Tackle chip runs, PACKET_COMPLETE also records the packets that have become ready for it (R292), so that the state is another one than the statement says. -/
theorem not_packetCompletionOrder : ¬ Obligations.PacketCompletionOrder := by
  intro order
  obtain ⟨ofQueue, -, -⟩ := order 1 tackleWaiting nopDone okRes rfl rfl
  have said : exec (.packetComplete 1) tackleWaiting
      = .next (met tackleWaiting (completeQueue 0 nopDone (arrReply tackleWaiting nopDone okRes) tackleWaiting)) :=
    ofQueue 0 (servedQueue 0 0x1000) rfl rfl
  rw [met_nothing_armed _ _ rfl] at said
  have records := packetComplete_records_ready
  rw [said] at records
  exact absurd (completeQueue_records_nothing.symm.trans records) (by decide)

end Sys2Proof
end

section
/-! PROOFS. Doorbells (R61 to R65, R487): a value out of range that comes while the state block cannot be written. -/

namespace Sys2Proof.Machine

/-- A queue of a LIVE context none of whose pages is mapped any more. -/
def ringing : State :=
  { State.reset with
    str := { State.reset.str with phasesDone := 8 }
    pci := { State.reset.pci with inReset := false, crs := false }
    mem := { State.reset.mem with ready := true }
    ctxs := [(1, liveCtx)]
    queues := [(0, servedQueue 0 0x1000)] }

/-- Has the queue stopped in the state that a step answers? -/
def stoppedAfter (g : Nat) : Host.Outcome State Fault Refusal → Bool
  | .next u => (queueOf u g).any Queue.stopping
  | _ => false

/-- A tail of 17 in a ring of 16 slots is ignored, and the state block that cannot be written stops the queue (R61). -/
theorem badTail_unwritable_stops_queue : stoppedAfter 0 (exec (.doorbellWrite 0x1000 4 17 ⟨[], [], []⟩) ringing) = true := by decide +kernel

end Sys2Proof.Machine

namespace Sys2Proof

open Machine

/-- Refutes O31: an ignored tail whose QFLAGS cannot be written to the state block is a fault of the queue (R61), which changes more of the queue than DB_ERROR and DB_ERRORS. -/
theorem not_doorbellsDeliverTails : ¬ Obligations.DoorbellsDeliverTails := by
  intro delivers
  have bell := delivers 0x1000 4 17 ⟨[], [], []⟩ ringing 0 (servedQueue 0 0x1000) (by decide) (by decide) (by decide) (by decide) (.inl rfl)
    (by decide) rfl (by decide)
  rw [if_neg (by decide)] at bell
  obtain ⟨u, answered, queue, -⟩ := bell
  have stopped := badTail_unwritable_stops_queue
  rw [answered] at stopped
  simp only [stoppedAfter, queue] at stopped
  exact absurd stopped (by decide)

end Sys2Proof
end

section
/-! PROOFS. Operations offered to the array: how each array command comes to wait for it, and where it waits (R77 to R80, R133, R153, R172, R368). -/

namespace Sys2Proof.Machine

open Safety

/-! ## The commands -/

/-- The rejections of an operation, with what a state header or the problem records hold against it in place of its own words. -/
theorem verdict_param_nil {k : Checks} (h : verdict k = none) : verdict { k with param := [] } = none := by
  obtain ⟨hop, -, hperm, hdeg, hconf, hres⟩ := (verdict_none k).1 h
  exact (verdict_none _).2 ⟨hop, rfl, hperm, hdeg, hconf, hres⟩

section
variable {kind : ArrKind} {uid : Nat} {p : Packet} {s : State} (accepted : verdict (plainChecks kind uid s p) = none)
include accepted

theorem plainBad_of_accepted : plainBad s (plainOp kind uid (envHN s p) p []) p = [] := by
  obtain ⟨-, words, -⟩ := (verdict_none _).1 accepted
  exact words

/-- An operation that starts from zeros or from a bias is offered at once. -/
theorem runPlain_fresh (fresh : (plainOp kind uid (envHN s p) p []).start ≠ startSTATE) : runPlain kind uid p s = offer uid p [] s := by
  simp only [runPlain, accepted, bne_iff_ne.2 fresh, Bool.true_or, if_true]

/-- One that starts from a saved state is offered with the header of that state, once it matches. -/
theorem runPlain_fromState {h : List PByte} (fromState : (plainOp kind uid (envHN s p) p []).start = startSTATE)
    (read : stateRead s (envHN s p) (plainOp kind uid (envHN s p) p []).stateVa 64 = .ok h) (clean : anyPoison h = false)
    (matching : headerMismatch (plainOp kind uid (envHN s p) p []) (wd p 4) (wd p 5) (h.map Prod.fst) = []) :
    runPlain kind uid p s
      = offer uid p (h.map Prod.fst) (detectVa (envHN s p).reach (envHN s p).c (plainOp kind uid (envHN s p) p []).stateVa 64 s) := by
  have words := plainBad_of_accepted accepted
  simp only [runPlain, fromState, words, read, clean, matching, verdict_param_nil accepted]
  rfl

end

/-- ARR.MMA_PACKED is offered with its problem records, once they have been read and checked. -/
theorem runPacked_accepted {uid : Nat} {p : Packet} {s : State} {bs : List PByte}
    (words : packedBad (blankPacked uid (envHN s p) p) p (envHN s p) [] = [])
    (read : vaRead s (envHN s p).reach (envHN s p).c (dw p 8) 256 = .ok bs) (clean : anyPoison bs = false)
    (accepted : verdict (packedChecks uid (bs.map Prod.fst) (detectVa (envHN s p).reach (envHN s p).c (dw p 8) 256 s) p) = none) :
    runPacked uid p s = offer uid p (bs.map Prod.fst) (detectVa (envHN s p).reach (envHN s p).c (dw p 8) 256 s) := by
  simp only [runPacked, words, read, clean, accepted]
  rfl

/-! ## Where an offered operation waits -/

/-- A packet joins a batch that has it, or opens one (R80); nothing but the batches changes. -/
theorem joinBatch_frame (j : Job) (s : State) :
    joinBatch j s = { s with arr := { s.arr with batches := (joinBatch j s).arr.batches } } := by
  unfold joinBatch
  split <;> rfl

/-- It is a member of a batch. -/
theorem joinBatch_member (j : Job) (s : State) : ∃ b ∈ (joinBatch j s).arr.batches, j.uid ∈ b.members := by
  unfold joinBatch
  split
  next b found =>
    refine ⟨_, List.mem_map.2 ⟨b, List.mem_of_find?_eq_some found, if_pos rfl⟩, ?_⟩
    exact List.mem_append_right _ (List.mem_singleton_self _)
  next => exact ⟨_, List.mem_append_right _ (List.mem_singleton_self _), List.mem_singleton_self _⟩

/-- No batch grows past 192 rows (R79). -/
theorem joinBatch_rows {j : Job} {s : State} (own : rowsOf (jobOp j) ≤ 192) (bound : ∀ b ∈ s.arr.batches, b.rows ≤ 192) :
    ∀ b ∈ (joinBatch j s).arr.batches, b.rows ≤ 192 := by
  unfold joinBatch
  intro b hb
  split at hb
  next old found =>
    have room : old.rows + rowsOf (jobOp j) ≤ 192 := by
      have fit := List.find?_some found
      simp only [fits, Bool.and_eq_true, decide_eq_true_eq] at fit
      exact fit.1.1
    obtain ⟨x, hx, rfl⟩ := List.mem_map.1 hb
    by_cases joined : x.id = old.id
    · rw [if_pos joined]
      exact room
    · rw [if_neg joined]
      exact bound x hx
  next =>
    rcases List.mem_append.1 hb with listed | opened
    · exact bound b listed
    · rw [List.mem_singleton.1 opened]
      exact own

/-- The packets to be judged when they start, with an operation that needs a working area while a new split is pending (R171). -/
def unjudgedWith (j : Job) (s : State) : List Nat :=
  if splitPending s = true ∧ (jobOp j).needsArea = true then s.arr.unjudged ++ [j.uid] else s.arr.unjudged

/-- The state in which an operation is placed: its packet is open. -/
def offered (j : Job) (s : State) : State := { s with jobs := s.jobs ++ [j], arr := { s.arr with unjudged := unjudgedWith j s } }

theorem offered_of_marking (j : Job) (s : State) :
    (if splitPending s && (jobOp j).needsArea then
      ({ addJob j s with arr := { s.arr with unjudged := s.arr.unjudged ++ [j.uid] } } : State)
    else addJob j s) = offered j s := by
  unfold offered unjudgedWith
  by_cases judged : splitPending s = true ∧ (jobOp j).needsArea = true
  · rw [if_pos judged, if_pos ((Bool.and_eq_true ..).mpr judged)]
    rfl
  · rw [if_neg judged, if_neg (mt (Bool.and_eq_true ..).mp judged)]
    rfl

/-- The packet that an offer opens. -/
def offerJob (uid : Nat) (p : Packet) (recs : List Byte) (s : State) : Job := newJob s uid p (.array recs)

theorem offer_eq (uid : Nat) (p : Packet) (recs : List Byte) (s : State) :
    offer uid p recs s
      = if hasFlag p flBATCHABLE && decide (rowsOf (jobOp (offerJob uid p recs s)) ≤ 192) then
          joinBatch (offerJob uid p recs s) (offered (offerJob uid p recs s) s)
        else addReady uid (offered (offerJob uid p recs s) s) := by
  rw [← offered_of_marking]
  rfl

section
variable {uid : Nat} {p : Packet} {recs : List Byte} {s : State}

/-- A BATCHABLE packet of at most 192 rows joins a batch (R79, R80). -/
theorem offer_batched (flag : hasFlag p flBATCHABLE = true) (rows : rowsOf (jobOp (offerJob uid p recs s)) ≤ 192) :
    offer uid p recs s = joinBatch (offerJob uid p recs s) (offered (offerJob uid p recs s) s) := by
  rw [offer_eq, if_pos ((Bool.and_eq_true ..).mpr ⟨flag, decide_eq_true rows⟩)]

/-- Any other is the last ready one (R78). -/
theorem offer_single (alone : ¬(hasFlag p flBATCHABLE = true ∧ rowsOf (jobOp (offerJob uid p recs s)) ≤ 192)) :
    offer uid p recs s = addReady uid (offered (offerJob uid p recs s) s) := by
  rw [offer_eq, if_neg (by rwa [Bool.and_eq_true, decide_eq_true_eq])]

end

theorem lastReply_offered (uid : Nat) (p : Packet) (recs : List Byte) (s : State) :
    lastReply (offered (offerJob uid p recs s) s) = some (uid, none) :=
  lastReply_addJob (offerJob uid p recs s) s

theorem lastWork_offered (uid : Nat) (p : Packet) (recs : List Byte) (s : State) :
    lastWork (offered (offerJob uid p recs s) s) = some (uid, .array recs) := by
  simp [lastWork, offered, offerJob, newJob]

end Sys2Proof.Machine

namespace Sys2Proof

open Machine Safety

/-- Settles O18, command by command. -/
theorem arrayCommandsAreOffered : Obligations.ArrayCommandsAreOffered := by
  unfold Obligations.ArrayCommandsAreOffered
  intro fresh fromState
  have plainFresh : ∀ {mk : Packet → Instr} {op : Nat} {kind : ArrKind}
      (_ : ∀ p s, exec (mk p) s = .next (met s (takeUp op (runPlain kind) p s))), fresh mk op kind :=
    fun takes => by
      intro p s accepted q s0 start
      rw [exec_accepted takes accepted, runPlain_fresh accepted.2 start]
  have plainFromState : ∀ {mk : Packet → Instr} {op : Nat} {kind : ArrKind}
      (_ : ∀ p s, exec (mk p) s = .next (met s (takeUp op (runPlain kind) p s))), fromState mk op kind :=
    fun takes => by
      intro p s h accepted q s0 v o start read clean matching
      rw [exec_accepted takes accepted, runPlain_fromState accepted.2 start read clean matching]
  refine ⟨plainFresh fun _ _ => rfl, plainFresh fun _ _ => rfl, plainFresh fun _ _ => rfl, plainFromState fun _ _ => rfl,
    plainFromState fun _ _ => rfl, fun p s accepted => ?selftest, fun p s bs ready => ?packed⟩
  case selftest => rw [exec_accepted (mk := .arrSelftest) (fun _ _ => rfl) accepted, runSelftest_accepted _ _ _ accepted.2]
  case packed =>
    intro q s0 no v s1 words read clean accepted
    change Host.Outcome.next (met s (takeUp 0x0402 runPacked p s)) = _
    rw [takeUp_ready _ _ _ _ ready, runPacked_accepted words read clean accepted]

/-- Settles O19: an operation is placed in a batch or as the last ready one. -/
theorem offeredOperationsWaitInOrder : Obligations.OfferedOperationsWaitInOrder := by
  intro uid p recs s u n
  by_cases batched : hasFlag p flBATCHABLE = true ∧ n ≤ 192
  case pos =>
    obtain ⟨flag, rows⟩ := batched
    have placed : u = _ := (offer_batched flag rows).trans (joinBatch_frame ..)
    rw [placed]
    refine ⟨lastReply_offered .., lastWork_offered .., rfl, rfl, fun alone => ?_,
      fun _ _ => ⟨rfl, joinBatch_member .., fun bound => joinBatch_rows rows bound⟩⟩
    exact alone.elim (fun plain => absurd flag (by simp [plain])) fun large => absurd rows (Nat.not_le.2 large)
  case neg =>
    have placed : u = _ := offer_single batched
    rw [placed]
    exact ⟨lastReply_offered .., lastWork_offered .., rfl, rfl, fun _ => ⟨rfl, rfl⟩, fun flag rows => absurd ⟨flag, rows⟩ batched⟩

end Sys2Proof
end

section
/-! PROOFS. The steps of the array and of the split of the spill store, where their conditions hold (R77, R78, R101, R104, R124, R140, R153, R170, R171, R226). -/

namespace Sys2Proof.Machine

/-! ## ARRAY_SCHEDULE -/

section
variable (f : List (Nat × Nat)) (us : List Strand) {s t : State} {c : Candidate} {r : ArrRun}

/-- A self-test that starts or ends has found the cells and units that the step names (R153). -/
def withFound (r : ArrRun) : ArrRun := if r.test then { r with cells := r.cells ++ f, units := r.units ++ us } else r

/-- The free array takes the choice (R78). -/
theorem exec_arraySchedule_starts (free : s.arr.run = none) (current : s.arr.rebuild = false) (noReset : underReset s sARR = false)
    (chosen : chooseOp s = some c) (taken : takeOp c s = (t, some r)) :
    exec (.arraySchedule f us) s = .next (enterArray (withFound f us r) t) := by
  change execArraySchedule f us s = _
  simp only [execArraySchedule, free, current, noReset, chosen, taken, Bool.or_self, Bool.false_eq_true, if_false]
  rfl

/-- With the last tile in the array, the choice follows the running operation (R124). -/
theorem exec_arraySchedule_follows (running : s.arr.run = some r) (noTest : r.test = false) (current : s.arr.rebuild = false)
    (open_ : s.arr.next = none) (noReset : underReset s sARR = false) (lastTile : inLastTile s r = true) (chosen : chooseOp s = some c) :
    exec (.arraySchedule f us) s = .next { (takeOp c s).1 with arr := { (takeOp c s).1.arr with next := (takeOp c s).2 } } := by
  change execArraySchedule f us s = _
  simp [execArraySchedule, running, noTest, current, open_, noReset, lastTile, chosen]

/-- A running self-test ends (R153). -/
theorem exec_arraySchedule_ends_test (running : s.arr.run = some r) (test : r.test = true) :
    exec (.arraySchedule f us) s = .next (endTest { r with cells := r.cells ++ f, units := r.units ++ us } s) := by
  change execArraySchedule f us s = _
  simp only [execArraySchedule, running, test, if_true]

end

theorem exec_arrMapRebuild_due {s : State} (due : s.arr.rebuild = true) (free : s.arr.run = none) (started : 7 ≤ s.str.phasesDone) :
    exec .arrMapRebuild s = .next (evalLevels (rebuildMap s)) := by
  change execArrMapRebuild s = _
  simp [execArrMapRebuild, due, free, started]

/-! ## Intervals and tiles -/

section
variable {s : State} {r : ArrRun} {o : AOp} (running : s.arr.run = some r) (named : runOp s r = some o) (noTest : r.test = false)
  (entry : feederWaits s o = false)
include running named noTest entry

/-- The last interval of a tile drains it. -/
theorem exec_tileDrain (us : List CellUpset) (last : o.k ≤ r.kPos + 2 ^ o.sLog) :
    exec (.tileDrain us) s = .next (promote s (drainTile o (readyRun o r s).2 us (readyRun o r s).1)) := by
  change execTileDrain us s = _
  simp [execTileDrain, running, named, noTest, entry, Nat.not_lt.2 last]

/-- An interval with K left is spilled, unless a fault has stopped every problem of the operation. -/
theorem exec_arraySpill (left : r.kPos + 2 ^ o.sLog < o.k) :
    exec .arraySpill s
      = let t := readyRun o r s
        let x := interval t.1 o t.2
        let s2 := seeOperands o x.tile (intervalKs o r) x.feed (reportFaults x.faults t.1)
        .next (if allStopped x.run then promote s (endRun o x.run x.run.stop (fun _ => true) s2)
          else
            let i := spillInjection s2
            let r2 := spillRun x o i.2
            setRun { r2 with stop := (i.1.arr.run.map ArrRun.stop).getD r2.stop } i.1) := by
  change execArraySpill s = _
  simp only [execArraySpill, running, named, noTest, entry, Bool.false_or, Bool.or_false, decide_eq_true_eq, if_neg (Nat.not_le.2 left)]

end

/-! ## The split of the spill store -/

theorem barWrite_spillSplit {s : State} (v : Word) (reached : unitHeld s (regUnit 0x4004) = false) :
    barWrite 0x4004 v s = writeSpillSplit v s := by
  simp [barWrite, reached]

/-- A split of more than 16 MiB is not written (R170). -/
theorem writeSpillSplit_eq (v : Word) (s : State) :
    writeSpillSplit v s = if v.toNat % 32 ≤ 16 then { s with arr := { s.arr with splitReq := BitVec.ofNat 5 v.toNat } } else s := by
  unfold writeSpillSplit
  rw [← ite_not]
  simp only [Nat.not_lt]
  rfl

theorem exec_spillSplitWrite {s : State} (v : Word) (up : barUp s = true) (reached : unitHeld s (regUnit 0x4004) = false) :
    exec (.spillSplitWrite v) s
      = .next (if v.toNat % 32 ≤ 16 then { s with arr := { s.arr with splitReq := BitVec.ofNat 5 v.toNat } } else s) := by
  change execSpillSplitWrite v s = _
  rw [execSpillSplitWrite, hostAccess_up up, barWrite_spillSplit v reached, writeSpillSplit_eq]

theorem exec_spillSplitApply {s : State} (array : areaHeld s = false) (splice : mergeHeld s = false) :
    exec .spillSplitApply s = .next (s.jobs.foldl retryOpen { s with arr := { s.arr with splitApplied := s.arr.splitReq } }) := by
  change execSpillSplitApply s = _
  rw [execSpillSplitApply, array, splice]
  rfl

end Sys2Proof.Machine

namespace Sys2Proof

open Machine

/-- Settles O37, event by event. -/
theorem arrayEventsComplete : Obligations.ArrayEventsComplete := by
  refine ⟨fun f us s t c r free current noReset chosen taken => exec_arraySchedule_starts f us free current noReset chosen taken,
    fun f us s c r running noTest current open_ noReset last chosen =>
      exec_arraySchedule_follows f us running noTest current open_ noReset last chosen,
    fun f us s r running test => exec_arraySchedule_ends_test f us running test,
    fun s due free started => exec_arrMapRebuild_due due free started,
    fun us s r o running named noTest last entry => exec_tileDrain running named noTest entry us last,
    fun s r o running named noTest left entry => ?spill,
    fun v s up reached => exec_spillSplitWrite v up reached, fun s array splice => exec_spillSplitApply array splice⟩
  case spill =>
    have spilled := exec_arraySpill running named noTest entry left
    exact ⟨fun goes => spilled.trans (congrArg _ (if_neg (Bool.eq_false_iff.1 goes))), fun stopped => spilled.trans (congrArg _ (if_pos stopped))⟩

end Sys2Proof
end

section
/-! PROOFS. The operation that the free array takes: what of it stands from its choice to its first k-step, and what else that touches (R77, R78, R122, R123, R138, R150). -/

namespace Sys2Proof.Machine

/-! ## The course of an operation: what loading starting values and faults met there leave -/

/-- An operation's packets, its place, and what was in force when the array took it. -/
def course (r : ArrRun) : List Nat × Nat × Nat × Nat × BitVec 2 × Bool × Bool :=
  (r.uids, r.tile, r.kPos, r.size, r.coverage, r.latency, r.test)

@[simp] theorem course_loadShadow (s : State) (o : AOp) (n : Nat) (r : ArrRun) : course (loadShadow s o n r).1 = course r := by
  unfold loadShadow
  split <;> rfl

@[simp] theorem course_stopProblems (fs : List (Nat × Nat × AFault)) (r : ArrRun) : course (stopProblems fs r) = course r := by
  unfold stopProblems
  induction fs generalizing r with
  | nil => rfl
  | cons x fs ih => exact ih _

/-- The swap into the first tile of an operation that has computed nothing leaves it there. -/
theorem course_swapInto_first {o : AOp} {r : ArrRun} (tile : r.tile = 0) (k : r.kPos = 0) : course (swapInto o 0 r) = course r := by
  simp only [course, swapInto, tile, k]

/-! ## Starting values of zero -/

/-- Starting values of zero meet no fault. -/
theorem cellStart_zero {s : State} {o : AOp} {a b : Line} (zero : o.start = startZERO) : cellStart s o a b = .ok (plainStart o) := by
  rw [cellStart, if_neg (by rw [zero]; decide), if_neg (by rw [zero]; decide)]

theorem tileStart_zero {s : State} {o : AOp} {r : ArrRun} {t : Tile} (zero : o.start = startZERO) : (tileStart s o r t).2 = [] := by
  simp only [tileStart, cellStart_zero zero, ite_self]
  refine List.filterMap_eq_nil_iff.2 fun p _ => List.find?_eq_none.2 fun f found => ?_
  obtain ⟨x, row, fault⟩ := List.mem_flatMap.1 found
  obtain ⟨_, -, cells⟩ := List.mem_map.1 (List.of_mem_zip row).2
  obtain ⟨e, cell, met⟩ := List.mem_filterMap.1 fault
  rw [← cells] at cell
  obtain ⟨_, -, rfl⟩ := List.mem_map.1 cell
  cases met

theorem loadShadow_zero {s : State} {o : AOp} {n : Nat} {r : ArrRun} (zero : o.start = startZERO) : (loadShadow s o n r).2 = [] := by
  unfold loadShadow
  split
  · rfl
  · exact tileStart_zero zero

theorem seeStarts_zero {o : AOp} {t : Tile} {s : State} (zero : o.start = startZERO) : seeStarts o t s = s := by
  rw [seeStarts, if_pos (by rw [zero]; simp [startZERO, startSTATE])]

/-- The turnover of an operation that starts from zeros changes the running operation alone. -/
theorem turnover_zero {before s : State} {o : AOp} {n : Nat} {r : ArrRun} (zero : o.start = startZERO) :
    ∃ x, turnover before o n r s = setRun x s ∧ course x = course (swapInto o n r) := by
  refine ⟨(loadShadow before o (n + 1) (swapInto o n r)).1, ?_, course_loadShadow ..⟩
  simp only [turnover, loadShadow_zero zero, seeStarts_zero zero, reportFaults, stopProblems, List.foldl_nil, ite_self]

/-! ## Entering the array -/

theorem enterArray_run {r : ArrRun} (s : State) (noTest : r.test = false) (tile : r.tile = 0) (k : r.kPos = 0) :
    ∃ x, (enterArray r s).arr.run = some x ∧ course x = course r := by
  unfold enterArray
  rw [if_neg (by rw [noTest]; decide)]
  split
  · exact ⟨_, rfl, by rw [course_stopProblems, course_loadShadow, course_swapInto_first tile k]⟩
  · exact ⟨r, rfl, rfl⟩

/-- From zeros, nothing but the running operation changes. -/
theorem enterArray_zero {r : ArrRun} {s : State} (noTest : r.test = false) (zero : ∀ o, runOp s r = some o → o.start = startZERO) :
    ∃ x, enterArray r s = setRun x s := by
  unfold enterArray
  rw [if_neg (by rw [noTest]; decide)]
  split
  next o named =>
    obtain ⟨x, turned, -⟩ := turnover_zero (before := s) (s := s) (n := 0) (r := r) (zero o named)
    exact ⟨x, turned⟩
  next => exact ⟨r, rfl⟩

/-! ## Taking the choice -/

/-- The choice waits no longer, and the turn has passed to its context and queue. -/
def turnTaken (c : Candidate) (s : State) : State :=
  { leaveWaiting c s with arr := { (leaveWaiting c s).arr with lastCtx := c.ctx, lastQueue := kvSet c.ctx c.queue s.arr.lastQueue } }

theorem mem_turnTaken_ready {c : Candidate} {s : State} {u : Nat} : u ∈ (turnTaken c s).arr.ready ↔ u ∈ s.arr.ready ∧ u ∉ c.uids := by
  simp [turnTaken, leaveWaiting]

theorem mem_turnTaken_batches {c : Candidate} {s : State} {b : Batch} :
    b ∈ (turnTaken c s).arr.batches ↔ b ∈ s.arr.batches ∧ some b.id ≠ c.batch := by
  simp [turnTaken, leaveWaiting]

theorem freshRun_test (s : State) (c : Candidate) (uids : List Nat) (o : AOp) : (freshRun s c uids o).test = (o.kind == .selftest) := rfl

/-- The operation of some packets has the starting kind of the first. -/
theorem runOp_start {s : State} {r : ArrRun} {j : Job} {o : AOp} (first : r.uids.head?.bind (jobOf s) = some j) (named : runOp s r = some o) :
    o.start = (jobOp j).start := by
  cases uids : r.uids with
  | nil => simp [uids] at first
  | cons u us =>
    have listed : jobOf s u = some j := by simpa [uids] using first
    simp only [runOp, uids, List.filterMap_cons, listed] at named
    split at named <;> cases named <;> rfl

section
variable {s : State} {c : Candidate} {j : Job} (fits : outgrown s c = []) (first : c.uids.head?.bind (jobOf s) = some j)
  (sound : startDegraded (leaveWaiting c s) (jobOp j) = false) (kind : (jobOp j).kind ≠ .selftest)
include fits first sound kind

theorem takeOp_eq :
    takeOp c s
      = match runOp (turnTaken c s) (freshRun (turnTaken c s) c c.uids (jobOp j)) with
        | none => (turnTaken c s, some (freshRun (turnTaken c s) c c.uids (jobOp j)))
        | some o =>
          let x := loadShadow (turnTaken c s) o 0 (freshRun (turnTaken c s) c c.uids (jobOp j))
          (seeStarts o (tileOf o (freshRun (turnTaken c s) c c.uids (jobOp j))) (reportFaults x.2 (turnTaken c s)), some (stopProblems x.2 x.1)) := by
  have all : (c.uids.filter fun u => !([] : List Nat).contains u) = c.uids := by simp
  have noTest : ((jobOp j).kind == ArrKind.selftest) = false := beq_eq_false_iff_ne.2 kind
  have there : c.uids.head?.bind (jobOf (leaveWaiting c s)) = some j := first
  unfold takeOp
  simp only [fits, List.foldl_nil, all, there, sound, freshRun_test, noTest, Bool.false_eq_true, if_false]
  rfl

/-- The choice is taken with its packets, from its first tile and k-step, under what is in force; from zeros, with nothing else touched than the list of what waits and whose turn it is. -/
theorem takeOp_takes :
    ∃ t r, takeOp c s = (t, some r) ∧ course r = (c.uids, 0, 0, shapeNow s, opCoverage s (jobOp j), repairLatency s, false)
      ∧ ((jobOp j).start = startZERO → t = turnTaken c s) := by
  have fresh : course (freshRun (turnTaken c s) c c.uids (jobOp j)) = (c.uids, 0, 0, shapeNow s, opCoverage s (jobOp j), repairLatency s, false) := by
    simp only [course, freshRun_test, beq_eq_false_iff_ne.2 kind]
    rfl
  have taken := takeOp_eq fits first sound kind
  cases named : runOp (turnTaken c s) (freshRun (turnTaken c s) c c.uids (jobOp j)) with
  | none =>
    rw [named] at taken
    exact ⟨_, _, taken, fresh, fun _ => rfl⟩
  | some o =>
    rw [named] at taken
    refine ⟨_, _, taken, by rw [course_stopProblems, course_loadShadow, fresh], fun zero => ?_⟩
    have fromZero : o.start = startZERO := (runOp_start (s := turnTaken c s) first named).trans zero
    rw [loadShadow_zero fromZero, seeStarts_zero fromZero]
    rfl

end

end Sys2Proof.Machine

namespace Sys2Proof

open Machine

/-- Settles O38: the choice is taken and enters the array. -/
theorem arrayTakesOneOperation : Obligations.ArrayTakesOneOperation := by
  intro f us s c j free current noReset chosen fits first sound kind
  obtain ⟨t, r, taken, inForce, untouched⟩ := takeOp_takes fits first sound kind
  simp only [course, Prod.mk.injEq] at inForce
  obtain ⟨uids, tile, k, size, coverage, latency, noTest⟩ := inForce
  obtain ⟨x, running, kept⟩ := enterArray_run t noTest tile k
  simp only [course, Prod.mk.injEq, uids, tile, k, size, coverage, latency] at kept
  obtain ⟨uids', tile', k', size', coverage', latency', -⟩ := kept
  have starts := exec_arraySchedule_starts f us free current noReset chosen taken
  have asIs : withFound f us r = r := by simp [withFound, noTest]
  rw [asIs] at starts
  refine ⟨_, x, starts, running, uids', tile', k', size', coverage', latency', fun zero => ?_⟩
  have same : t = turnTaken c s := untouched zero
  subst same
  obtain ⟨y, entered⟩ := enterArray_zero noTest fun o named =>
    (runOp_start (s := turnTaken c s) (by rw [uids]; exact first) named).trans zero
  rw [entered]
  exact ⟨rfl, rfl, fun _ => mem_turnTaken_ready, fun _ => mem_turnTaken_batches⟩

end Sys2Proof
end

section
/-! PROOFS. Commands whose operands stream through the tracker (R210, R226, R227): what one does that finds an entry left, and the three cases of every such command. -/

namespace Sys2Proof.Machine

open Safety

@[simp] theorem takenUp_str (op : Nat) (p : Packet) (s : State) : (takenUp op p s).str = s.str := by rw [takenUp_frame]

/-! ## An entry with no injection armed -/

theorem fireArmed_nothing_armed {s : State} (unarmed : s.str.armed = []) (p : Strand) (src : Nat) (obj : ErrObj) : fireArmed p src obj s = s := by
  simp [fireArmed, armedOn, unarmed]

/-- Nothing strikes the tracker at the allocation, which then lists the entry and changes the tracker alone. -/
theorem takeEntryFor_nothing_armed {s : State} (unarmed : s.str.armed = []) (c uid : Nat) (st : Strand) (req : Req) (row off len pa : Nat)
    (data : List PByte) :
    let r := takeEntryFor c uid st req row off len pa data s
    r.1 = { s with trk := r.1.trk } ∧ (kvGet r.2 r.1.trk.entries).isSome = true := by
  simp [takeEntryFor, fireArmed_nothing_armed, unarmed]

/-- The tracker does not fail under an entry that passes. -/
theorem passEntry_passes {s : State} (unarmed : s.str.armed = []) (c uid : Nat) (st : Strand) : (passEntry c uid st s).2 = false := by
  obtain ⟨-, listed⟩ := takeEntryFor_nothing_armed unarmed c uid st .memRead 0 0 0 0 []
  simpa [passEntry, Option.isNone_eq_false_iff] using listed

/-- Nor does it change a context. -/
theorem ctxOf_passEntry {s : State} (unarmed : s.str.armed = []) (c uid : Nat) (st : Strand) (k : Nat) :
    ctxOf (passEntry c uid st s).1 k = ctxOf s k := by
  obtain ⟨frame, -⟩ := takeEntryFor_nothing_armed unarmed c uid st .memRead 0 0 0 0 []
  simp only [passEntry, ctxOf, freeEntry_ctxs]
  rw [frame]

/-! ## The command -/

/-- One that finds an entry left passes it and runs whole: neither its context's generation nor the tracker fails it meanwhile. -/
theorem runTracked_passes (st : Strand) (virt : Packet → Bool) (checks : State → Packet → Checks) (effect : Packet → State → State × Result)
    (uid : Nat) (p : Packet) {s : State} (streams : virt p = true) (accepted : verdict (checks s p) = none)
    (left : entriesLeft s (issuerCtx s p.issuer) ≠ 0) (unarmed : s.str.armed = []) :
    let t := (passEntry (issuerCtx s p.issuer) uid st s).1
    runTracked st virt checks effect uid p s = addJob { newJob s uid p .finished with res := some (effect p t).2 } (effect p t).1 := by
  simp [runTracked, streams, accepted, left, ctxOf_passEntry unarmed, passEntry_passes unarmed]

/-- A command that takes its packet up for a tracked run: it streams nothing, waits for an entry, or passes one. -/
theorem runsTracked_of_runTracked {mk : Packet → Instr} {op : Nat} {st : Strand} {virt : Packet → Bool} {checks : State → Packet → Checks}
    {effect : Packet → State → State × Result}
    (takes : ∀ p s, exec (mk p) s = .next (met s (takeUp op (runTracked st virt checks effect) p s))) :
    RunsTracked mk op st virt checks effect := by
  intro p s accepted
  have runs := exec_accepted takes accepted
  refine ⟨fun direct => ?_, fun streams spent => ?_, fun streams left unarmed => ?_⟩
  · rw [runs, runTracked_direct _ _ _ _ _ _ _ direct, runNow_accepted _ _ _ _ _ accepted.2]
    rfl
  · rw [runs, runTracked_waits _ _ _ _ _ _ _ streams accepted.2 spent]
  · rw [runs, runTracked_passes _ _ _ _ _ _ streams accepted.2 left (by rw [takenUp_str, unarmed])]
    rfl

end Sys2Proof.Machine

namespace Sys2Proof

open Machine

/-- Settles O21, command by command: all seven take their packet up for a tracked run. -/
theorem gatherRankAndAttentionCommandsComplete : Obligations.GatherRankAndAttentionCommandsComplete :=
  ⟨runsTracked_of_runTracked fun _ _ => rfl,    -- GSX.GATHER
   runsTracked_of_runTracked fun _ _ => rfl,    -- GSX.SCATTER
   runsTracked_of_runTracked fun _ _ => rfl,    -- GSX.ROUTE
   runsTracked_of_runTracked fun _ _ => rfl,    -- RNK.TOPK
   runsTracked_of_runTracked fun _ _ => rfl,    -- ATT.SELECT
   runsTracked_of_runTracked fun _ _ => rfl,    -- ATT.FWD
   runsTracked_of_runTracked fun _ _ => rfl⟩    -- ATT.BWD

end Sys2Proof
end

section
/-! PROOFS. The XFR commands, HCH.REMOTE_SIGNAL and the vector commands on this module: what each does when it is accepted (R210, R221, R222, R226, R227, R346, R347). -/

namespace Sys2Proof.Machine

open Safety

/-- A command that takes its packet up for a transfer starts as that transfer. -/
theorem startsAs_of_runXfer {mk : Packet → Instr} {op : Nat} {param : State → Packet → List Nat} {make : Packet → Xfer} {remote : Bool}
    (takes : ∀ p s, exec (mk p) s = .next (met s (takeUp op (runXfer param make remote) p s))) :
    StartsAs mk op (xferChecks param make remote) (fun uid p s => pumpAll (addJob (newJob s uid p (.xfer (make p))) s)) := by
  intro p s accepted
  rw [exec_accepted takes accepted, runXfer_accepted _ _ _ _ _ _ accepted.2]

theorem hchRemoteSignal_startsAs :
    StartsAs .hchRemoteSignal 0x0206 remoteSignalChecks (fun uid p s => sendSignal uid (addJob (newJob s uid p (.remoteSignal none)) s)) := by
  intro p s accepted
  rw [exec_accepted (mk := .hchRemoteSignal) (fun _ _ => rfl) accepted, runRemoteSignal_accepted _ _ _ accepted.2]

end Sys2Proof.Machine

namespace Sys2Proof

open Machine

/-- Settles O15, command by command: six take their packet up for a transfer, and HCH.REMOTE_SIGNAL for a message. -/
theorem transferCommandsStart : Obligations.TransferCommandsStart :=
  ⟨startsAs_of_runXfer fun _ _ => rfl,    -- XFR.COPY
   startsAs_of_runXfer fun _ _ => rfl,    -- XFR.PREFETCH
   startsAs_of_runXfer fun _ _ => rfl,    -- XFR.COPY2D
   startsAs_of_runXfer fun _ _ => rfl,    -- XFR.FILL
   startsAs_of_runXfer fun _ _ => rfl,    -- XFR.REMOTE_WRITE
   startsAs_of_runXfer fun _ _ => rfl,    -- XFR.REMOTE_READ
   hchRemoteSignal_startsAs⟩

/-- Settles O20, command by command: all eight take their packet up for a tracked run. -/
theorem vectorCommandsComplete : Obligations.VectorCommandsComplete :=
  ⟨runsTracked_of_runTracked fun _ _ => rfl,    -- VEC.MAP
   runsTracked_of_runTracked fun _ _ => rfl,    -- VEC.REDUCE
   runsTracked_of_runTracked fun _ _ => rfl,    -- VEC.SOFTMAX
   runsTracked_of_runTracked fun _ _ => rfl,    -- VEC.NORM
   runsTracked_of_runTracked fun _ _ => rfl,    -- VEC.CONVERT
   runsTracked_of_runTracked fun _ _ => rfl,    -- VEC.QUANT
   runsTracked_of_runTracked fun _ _ => rfl,    -- VEC.ORTHO
   runsTracked_of_runTracked fun _ _ => rfl⟩    -- VEC.SUMMARY

end Sys2Proof
end

section
/-! PROOFS. The length of one transfer (R222): what is left of the row, of the piece and of the 4 KiB page of each end bounds it, and none of them is 0. -/

namespace Sys2Proof.Machine

/-- Bytes from a byte of an end to the next 4 KiB boundary of its address; a pattern has no address, and sets no closer bound than a page. -/
def pageRoom (e : XEnd) (stride row off : Nat) : Nat :=
  match e with
  | .pattern _ => 4096
  | _ => 4096 - endAddr e stride row off % 4096

theorem pageRoom_pos (e : XEnd) (stride row off : Nat) : 0 < pageRoom e stride row off := by
  have inPage := Nat.mod_lt (endAddr e stride row off) (y := 4096) (by decide)
  cases e <;> simp only [pageRoom] <;> omega

theorem pageRoom_of_address {e : XEnd} (address : ∀ v, e ≠ .pattern v) (stride row off : Nat) :
    pageRoom e stride row off = 4096 - endAddr e stride row off % 4096 := by
  cases e with
  | pattern v => exact absurd rfl (address v)
  | va _ | grant _ | window _ _ _ _ => rfl

theorem xferLen_eq_min {x : Xfer} (hasRow : 0 < x.rowBytes) (pos last : Nat) :
    xferLen x pos last = min (min (x.rowBytes - pos % x.rowBytes) (last - pos))
      (min (pageRoom x.src x.srcStride (pos / x.rowBytes) (pos % x.rowBytes)) (pageRoom x.dst x.dstStride (pos / x.rowBytes) (pos % x.rowBytes))) := by
  have row : max x.rowBytes 1 = x.rowBytes := Nat.max_eq_left hasRow
  have asGiven : xferLen x pos last = min (min (x.rowBytes - pos % max x.rowBytes 1) (last - pos))
      (min (pageRoom x.src x.srcStride (pos / max x.rowBytes 1) (pos % max x.rowBytes 1))
        (pageRoom x.dst x.dstStride (pos / max x.rowBytes 1) (pos % max x.rowBytes 1))) := rfl
  rw [asGiven, row]

/-- A length within the room of an end that has an address stays in the end's page. -/
theorem page_kept {e : XEnd} {stride row off n : Nat} (room : n ≤ pageRoom e stride row off) (address : ∀ v, e ≠ .pattern v) :
    endAddr e stride row off % 4096 + n ≤ 4096 := by
  rw [pageRoom_of_address address] at room
  omega

end Sys2Proof.Machine

namespace Sys2Proof

open Machine

/-- Settles O16: the length is the least of four bounds, each of them positive. -/
theorem transfersStayWithinPages : Obligations.TransfersStayWithinPages := by
  intro x pos last hasRow left n row off
  have inRow : off < x.rowBytes := Nat.mod_lt pos hasRow
  have source := pageRoom_pos x.src x.srcStride row off
  have target := pageRoom_pos x.dst x.dstStride row off
  have length : n = min (min (x.rowBytes - off) (last - pos)) (min (pageRoom x.src x.srcStride row off) (pageRoom x.dst x.dstStride row off)) :=
    xferLen_eq_min hasRow pos last
  exact ⟨by omega, by omega, by omega, page_kept (by omega), page_kept (by omega)⟩

end Sys2Proof
end

section
/-! PROOFS. The telltale commands (R232 to R234, R380): what each makes of its slot, of the other slots and of all else, with no injection armed. -/

namespace Sys2Proof.Machine

open Safety

/-! ## A write with no injection armed arms none and touches no slot -/

theorem foldl_pciOut (os : List PciOut) (s : State) :
    os.foldl (fun s o => pciOut o s) s = { s with pci := { s.pci with out := s.pci.out ++ os } } := by
  induction os generalizing s with
  | nil => simp
  | cons o os ih =>
    rw [List.foldl_cons, ih]
    simp [pciOut]

theorem settleAll_str (pa n : Nat) (s : State) : (settleAll pa n s).str = s.str := by
  have each : ∀ k sz (t : State), (settleGranule k sz t).str = t.str := fun k sz t => by
    unfold settleGranule
    split <;> rfl
  unfold settleAll
  split
  · rfl
  · exact List.foldlRecOn (motive := fun t : State => t.str = s.str) _ _ rfl fun t ih g _ => (each _ _ t).trans ih

theorem physWrite_str {s : State} (unarmed : s.str.armed = []) (pa : Nat) (bs : List PByte) : (physWrite pa bs s).str = s.str := by
  have stored : (storeBytes pa bs (settleAll pa bs.length s)).str = s.str := settleAll_str pa bs.length s
  unfold physWrite
  split
  · rfl
  · rw [damageAll, if_pos (by rw [stored, unarmed]; rfl), stored]

theorem leafWrite_str {s : State} (unarmed : s.str.armed = []) (relaxed : Bool) (l : Leaf) (bs : List PByte) :
    (leafWrite relaxed l bs s).str = s.str := by
  unfold leafWrite
  split
  · rw [foldl_pciOut]
  · exact physWrite_str unarmed _ _

theorem leafWrite_ttls (relaxed : Bool) (l : Leaf) (bs : List PByte) (s : State) : (leafWrite relaxed l bs s).ttls = s.ttls := by
  unfold leafWrite
  split
  · rw [foldl_pciOut]
  · exact physWrite_ttls _ _ _

/-- What every write of one piece keeps, a write of a range keeps. -/
theorem vaWrite_keeps {P : State → Prop} (each : ∀ relaxed l bs t, P t → P (leafWrite relaxed l bs t)) (r : Reach) (c va : Nat) (bs : List PByte)
    {s : State} (start : P s) : P (vaWrite r c va bs s).1 := by
  refine List.foldlRecOn (motive := fun acc : State × Option AFault => P acc.1) _ _ start fun acc ih p _ => ?_
  split
  · exact ih
  · split
    · exact ih
    · split
      · exact each _ _ _ _ ih
      · exact ih

theorem vaWrite_str {s : State} (unarmed : s.str.armed = []) (r : Reach) (c va : Nat) (bs : List PByte) : (vaWrite r c va bs s).1.str = s.str :=
  vaWrite_keeps (P := fun t => t.str = s.str) (fun _ _ _ _ same => (leafWrite_str (by rw [same, unarmed]) _ _ _).trans same) r c va bs rfl

theorem vaWrite_ttls (r : Reach) (c va : Nat) (bs : List PByte) (s : State) : (vaWrite r c va bs s).1.ttls = s.ttls :=
  vaWrite_keeps (P := fun t => t.ttls = s.ttls) (fun _ _ _ t same => (leafWrite_ttls _ _ _ t).trans same) r c va bs rfl

/-! ## A slot that is set -/

theorem ttlOf_kvSet_self (n : Nat) (k : Telltale) (s : State) : ttlOf { s with ttls := kvSet n k s.ttls } n = k :=
  kvGetD_kvSet_self n noTelltale k s.ttls

theorem ttlOf_kvSet_ne {n i : Nat} (k : Telltale) (s : State) (other : i ≠ n) : ttlOf { s with ttls := kvSet n k s.ttls } i = ttlOf s i :=
  kvGetD_kvSet_ne noTelltale k s.ttls other

theorem ttlOf_kvErase_self (n : Nat) (s : State) : ttlOf { s with ttls := kvErase n s.ttls } n = noTelltale := by
  simp [ttlOf, kvGetD]

theorem ttlOf_kvErase_ne {n i : Nat} (s : State) (other : i ≠ n) : ttlOf { s with ttls := kvErase n s.ttls } i = ttlOf s i := by
  simp [ttlOf, kvGetD, other]

/-! ## Clearing a slot -/

section
variable {s : State} (unarmed : s.str.armed = []) (n : Nat)
include unarmed

/-- A slot that the table lists is set to its start under its owner; one that it does not list is at its start already. -/
theorem clearSlot_cases :
    (kvGet n s.ttls = none ∧ clearSlot n s = s)
      ∨ clearSlot n s = { s with ttls := kvSet n { noTelltale with owner := (ttlOf s n).owner } s.ttls } := by
  unfold clearSlot
  cases listed : kvGet n s.ttls with
  | none => exact .inl ⟨rfl, rfl⟩
  | some k =>
    have owner : (ttlOf s n).owner = k.owner := by simp [ttlOf, kvGetD, listed]
    rw [owner]
    exact .inr (fireArmed_nothing_armed (by exact unarmed) _ _ _)

theorem clearSlot_frame : clearSlot n s = { s with ttls := (clearSlot n s).ttls } := by
  rcases clearSlot_cases unarmed n with ⟨-, same⟩ | set
  · rw [same]
  · rw [set]

theorem ttlOf_clearSlot_self : ttlOf (clearSlot n s) n = { noTelltale with owner := (ttlOf s n).owner } := by
  rcases clearSlot_cases unarmed n with ⟨unlisted, same⟩ | set
  · have start : ttlOf s n = noTelltale := by simp [ttlOf, kvGetD, unlisted]
    rw [same, start]
  · rw [set, ttlOf_kvSet_self]

theorem ttlOf_clearSlot_ne {k : Nat} (other : k ≠ n) : ttlOf (clearSlot n s) k = ttlOf s k := by
  rcases clearSlot_cases unarmed n with ⟨-, same⟩ | set
  · rw [same]
  · rw [set, ttlOf_kvSet_ne _ _ other]

end

/-! ## The three commands -/

/-- TTL.BIND sets the slot that it binds, unless the context has it already. -/
theorem bindEffect_eq {p : Packet} {s : State} {m : Nat} (unarmed : s.str.armed = []) (found : slotToBind s p = some m) :
    bindEffect p s
      = (if slotBound s (issuerCtx s p.issuer) m then s
         else { s with ttls := kvSet m { noTelltale with owner := some (issuerCtx s p.issuer) } s.ttls }, okCnt (BitVec.ofNat 32 m) 0 0 0) := by
  simp only [bindEffect, found, Option.getD_some]
  rw [fireArmed_nothing_armed (by split <;> exact unarmed)]

theorem slotBound_iff (s : State) (c n : Nat) : slotBound s c n = true ↔ (ttlOf s n).owner = some c := by simp [slotBound]

theorem bindEffect_binds {p : Packet} {s : State} {m : Nat} (unarmed : s.str.armed = []) (found : slotToBind s p = some m) :
    let c := issuerCtx s p.issuer
    let b := bindEffect p s
    b.2 = okCnt (BitVec.ofNat 32 m) 0 0 0 ∧ b.1 = { s with ttls := b.1.ttls }
      ∧ ttlOf b.1 m = (if (ttlOf s m).owner = some c then ttlOf s m else { noTelltale with owner := some c })
      ∧ ∀ k, k ≠ m → ttlOf b.1 k = ttlOf s k := by
  intro c b
  rw [show b = _ from bindEffect_eq unarmed found]
  by_cases own : (ttlOf s m).owner = some c
  · rw [if_pos ((slotBound_iff s c m).2 own), if_pos own]
    exact ⟨rfl, rfl, rfl, fun _ _ => rfl⟩
  · rw [if_neg fun bound => own ((slotBound_iff s c m).1 bound), if_neg own]
    exact ⟨rfl, rfl, ttlOf_kvSet_self _ _ _, fun _ other => ttlOf_kvSet_ne _ _ other⟩

/-- TTL.READ after its record was written: with CLEAR the slot is cleared. -/
theorem ttlReadEffect_written {p : Packet} {s t : State}
    (written : vaWrite reachQueue (issuerCtx s p.issuer) (dw p 6) ((slotRecord s (slotNo p)).map fun x => (x, false)) s = (t, none)) :
    ttlReadEffect p s = (if pb p 4 13 then clearSlot (slotNo p) t else t, okRes) := by
  simp only [ttlReadEffect, written]

theorem ttlReadEffect_reads {p : Packet} {s t : State} (unarmed : s.str.armed = [])
    (written : vaWrite reachQueue (issuerCtx s p.issuer) (dw p 6) ((slotRecord s (slotNo p)).map fun x => (x, false)) s = (t, none)) :
    let n := slotNo p
    let r := ttlReadEffect p s
    r.2 = okRes ∧ r.1 = { t with ttls := r.1.ttls }
      ∧ ttlOf r.1 n = (if pb p 4 13 then { noTelltale with owner := (ttlOf s n).owner } else ttlOf s n)
      ∧ ∀ k, k ≠ n → ttlOf r.1 k = ttlOf s k := by
  intro n r
  have written_state : (vaWrite _ _ _ _ s).1 = t := congrArg Prod.fst written
  have quiet : t.str.armed = [] := by rw [← written_state, vaWrite_str unarmed, unarmed]
  have slots : ∀ k, ttlOf t k = ttlOf s k := fun k => by rw [ttlOf, ← written_state, vaWrite_ttls, ttlOf]
  rw [show r = _ from ttlReadEffect_written written]
  split
  · exact ⟨rfl, clearSlot_frame quiet n, by rw [ttlOf_clearSlot_self quiet, slots],
      fun k other => by rw [ttlOf_clearSlot_ne quiet n other, slots]⟩
  · exact ⟨rfl, rfl, slots n, fun k _ => slots k⟩

/-- TTL.RESET clears the slot, and with RELEASE takes it out of the table. -/
theorem ttlResetEffect_resets {p : Packet} {s : State} (unarmed : s.str.armed = []) :
    let n := slotNo p
    let z := ttlResetEffect p s
    z.2 = okRes ∧ z.1 = { s with ttls := z.1.ttls }
      ∧ ttlOf z.1 n = (if pb p 4 14 then noTelltale else { noTelltale with owner := (ttlOf s n).owner })
      ∧ ∀ k, k ≠ n → ttlOf z.1 k = ttlOf s k := by
  intro n z
  have effect : z = (if pb p 4 14 then { clearSlot n s with ttls := kvErase n (clearSlot n s).ttls } else clearSlot n s, okRes) := rfl
  rw [effect]
  split
  · refine ⟨rfl, ?_, ttlOf_kvErase_self _ _, fun k other => ?_⟩
    · rw [clearSlot_frame unarmed]
    · rw [ttlOf_kvErase_ne _ other, ttlOf_clearSlot_ne unarmed n other]
  · exact ⟨rfl, clearSlot_frame unarmed n, ttlOf_clearSlot_self unarmed n, fun k other => ttlOf_clearSlot_ne unarmed n other⟩

theorem slotRecord_length (s : State) (n : Nat) : (slotRecord s n).length = 32 := by simp [slotRecord, zeros]

end Sys2Proof.Machine

namespace Sys2Proof

open Machine Safety

/-- Settles O26: three commands whole in their step, and what each makes of its slot. -/
theorem telltaleCommandsComplete : Obligations.TelltaleCommandsComplete := by
  refine ⟨runsWhole_of_runNow fun _ _ => rfl, runsWhole_of_runNow fun _ _ => rfl, runsWhole_of_runNow fun _ _ => rfl, fun p s unarmed _ => ?_⟩
  obtain ⟨result, frame, slot, others⟩ := ttlResetEffect_resets (p := p) unarmed
  exact ⟨fun _ found => bindEffect_binds unarmed found, fun written => ttlReadEffect_reads unarmed (Prod.ext rfl written),
    result, frame, slot, slotRecord_length _ _, others⟩

end Sys2Proof
end

section
/-! PROOFS. BAR4 on this module (R231, R480, R490, R491, R494): reads and writes where the BARs answer, the shut aperture, and a new size. -/

namespace Sys2Proof.Machine

/-- With no injection armed no TLP is corrupted. -/
theorem sentTlp_nothing_armed {t : State} (unarmed : t.str.armed = []) (before : State) : sentTlp before t = t := by
  unfold sentTlp
  split
  · exact fireArmed_nothing_armed unarmed _ _ _
  · rfl

/-- With no word damaged a read finds none. -/
theorem detectRead_nothing_damaged {s : State} (undamaged : s.mem.damaged = []) (pa n : Nat) : detectRead pa n s = s := by
  simp [detectRead, undamaged]

section
variable {o : Nat} {s : State} (up : barUp s = true)
include up

theorem exec_bar4Read {n : Nat} (inside : inBar4 s o n = true) (unarmed : s.str.armed = []) (undamaged : s.mem.damaged = []) :
    let bs := apertureBytes s (2 ^ 30 * s.pci.base + o) n
    exec (.bar4Read o n) s = .next (pciOut
      (if apertureShut s then .completion (zeros n) true else .completion (bs.map Prod.fst) (anyPoison bs)) s) := by
  intro bs
  have sent : ∀ c, sentTlp s (pciOut c s) = pciOut c s := fun c => sentTlp_nothing_armed (t := pciOut c s) unarmed s
  change execBar4Read o n s = _
  rw [execBar4Read, hostAccess_up up, inside, detectRead_nothing_damaged undamaged]
  simp only [sent, aperturePa]
  cases apertureShut s <;> rfl

theorem exec_bar4Write_open {d : List Byte} (ep : Bool) (inside : inBar4 s o d.length = true) (opened : apertureShut s = false) :
    let s0 := if ep then pciOut (.aer "poisoned TLP, advisory non-fatal") s else s
    let r := apertureStore (2 ^ 30 * s.pci.base + o) (d.map fun b => (b, ep)) s0
    exec (.bar4Write o d ep) s = .next (if r.2 then apertureDrop r.1 else r.1) := by
  change execBar4Write o d ep s = _
  rw [execBar4Write, hostAccess_up up, inside, opened]
  cases ep <;> rfl

theorem exec_bar4Write_shut {d : List Byte} (ep : Bool) (inside : inBar4 s o d.length = true) (shut : apertureShut s = true) :
    exec (.bar4Write o d ep) s = .next (apertureDrop s) := by
  change execBar4Write o d ep s = _
  rw [execBar4Write, hostAccess_up up, inside, shut]
  rfl

end

theorem exec_rebarSizeWrite {k : Nat} {s : State} (running : s.pci.inReset = false) (answers : s.pci.crs = false) (size : k ≤ 6) :
    exec (.rebarSizeWrite k) s = .next { s with pci := { s.pci with bar4Log := k, base := s.pci.base / 2 ^ k * 2 ^ k } } := by
  change execRebarSizeWrite k s = _
  rw [execRebarSizeWrite, running, answers, decide_eq_false (Nat.not_lt.2 size)]
  rfl

end Sys2Proof.Machine

namespace Sys2Proof

open Machine

/-- Settles O42: a read, the two kinds of write, and a new size, whose BASE is the old one without its remainder. -/
theorem apertureAccessesComplete : Obligations.ApertureAccessesComplete := by
  refine ⟨fun o n s up inside unarmed undamaged => exec_bar4Read up inside unarmed undamaged,
    fun o d ep s up inside opened => exec_bar4Write_open up ep inside opened,
    fun o d ep s up inside shut => exec_bar4Write_shut up ep inside shut, fun k s running answers size => ?_⟩
  refine ⟨_, exec_rebarSizeWrite running answers size, rfl, Nat.mul_mod_left _ _, Nat.div_mul_le_self _ _, ?_⟩
  exact Nat.lt_div_mul_add (Nat.two_pow_pos k)

end Sys2Proof
end

section
/-! PROOFS. Reads after writes in tiers H and N and the scratchpad (R207, R231, R237, R239, R241, R242): no two addresses there share their storage and the bytes of a word are stored side by side, so a write reaches the bytes it covers and the poison of their words, and nothing else. -/

namespace Sys2Proof.Machine

/-! ## Sets of addresses -/

theorem ivHas_iff {x : Nat} {l : List (Nat × Nat)} : ivHas x l = true ↔ ∃ p ∈ l, p.1 ≤ x ∧ x < p.2 := by simp [ivHas]

theorem mem_insBy {α : Type} {rank : α → Nat} {x y : α} {l : List α} : y ∈ insBy rank x l ↔ y = x ∨ y ∈ l := by
  induction l with
  | nil => simp [insBy]
  | cons z l ih =>
    unfold insBy
    split
    · simp
    · simp [ih, or_left_comm]

theorem foldl_min_le_iff {l : List (Nat × Nat)} {lo x : Nat} : l.foldl (fun m p => min m p.1) lo ≤ x ↔ lo ≤ x ∨ ∃ p ∈ l, p.1 ≤ x := by
  induction l generalizing lo with
  | nil => simp
  | cons p l ih =>
    have first : min lo p.1 ≤ x ↔ lo ≤ x ∨ p.1 ≤ x := by omega
    simp only [List.foldl_cons, ih, List.mem_cons, exists_eq_or_imp, first, or_assoc]

theorem lt_foldl_max_iff {l : List (Nat × Nat)} {hi x : Nat} : x < l.foldl (fun m p => max m p.2) hi ↔ x < hi ∨ ∃ p ∈ l, x < p.2 := by
  induction l generalizing hi with
  | nil => simp
  | cons p l ih =>
    have first : x < max hi p.2 ↔ x < hi ∨ x < p.2 := by omega
    simp only [List.foldl_cons, ih, List.mem_cons, exists_eq_or_imp, first, or_assoc]

/-- Membership after an interval is put in: the intervals that it touches are merged with it, and they and it leave no gap between them. -/
theorem ivHas_ivAdd {x lo hi : Nat} {l : List (Nat × Nat)} (proper : lo < hi) :
    ivHas x (ivAdd lo hi l) = true ↔ ivHas x l = true ∨ lo ≤ x ∧ x < hi := by
  rw [ivAdd, if_neg (by omega)]
  simp only [ivHas_iff, mem_insBy, exists_eq_or_imp, foldl_min_le_iff, lt_foldl_max_iff, List.mem_filter, Bool.not_eq_true', Bool.and_eq_true,
    Bool.and_eq_false_iff, decide_eq_true_eq, decide_eq_false_iff_not]
  constructor
  · rintro (⟨low, high⟩ | ⟨p, ⟨listed, -⟩, has⟩)
    · by_cases below : lo ≤ x
      · by_cases above : x < hi
        · exact .inr ⟨below, above⟩
        · obtain ⟨p, ⟨listed, touches⟩, inside⟩ := high.resolve_left above
          exact .inl ⟨p, listed, by omega, inside⟩
      · obtain ⟨p, ⟨listed, touches⟩, inside⟩ := low.resolve_left below
        exact .inl ⟨p, listed, inside, by omega⟩
    · exact .inl ⟨p, listed, has⟩
  · rintro (⟨p, listed, low, high⟩ | ⟨low, high⟩)
    · by_cases touches : p.1 ≤ hi ∧ lo ≤ p.2
      · exact .inl ⟨.inr ⟨p, ⟨listed, touches⟩, low⟩, .inr ⟨p, ⟨listed, touches⟩, high⟩⟩
      · exact .inr ⟨p, ⟨listed, by omega⟩, low, high⟩
    · exact .inl ⟨.inl low, .inl high⟩

/-- The poison of a word is set or cleared. -/
def markWord (key : Nat → Nat) (bad : Nat → Bool) (ps : List (Nat × Nat)) (g : Nat) : List (Nat × Nat) :=
  if bad g then ivAdd (key g) (key g + 8) ps else ivClear (key g) (key g + 8) ps

theorem ivHas_markWord (key : Nat → Nat) (bad : Nat → Bool) (ps : List (Nat × Nat)) (g x : Nat) :
    ivHas x (markWord key bad ps g) = if key g ≤ x ∧ x < key g + 8 then bad g else ivHas x ps := by
  unfold markWord
  cases bad g with
  | true =>
    rw [if_pos rfl, Bool.eq_iff_iff, ivHas_ivAdd (by omega)]
    split <;> simp [*]
  | false =>
    rw [if_neg (by simp), ivHas_ivClear, ← Bool.decide_and]
    split <;> simp [*]

section
variable {key : Nat → Nat} {bad : Nat → Bool} {x : Nat} {gs : List Nat} {ps : List (Nat × Nat)}

/-- Marks of other words leave a byte's poison. -/
theorem ivHas_foldl_markWord_other (other : ∀ g ∈ gs, ¬(key g ≤ x ∧ x < key g + 8)) : ivHas x (gs.foldl (markWord key bad) ps) = ivHas x ps := by
  induction gs generalizing ps with
  | nil => rfl
  | cons g gs ih =>
    rw [List.foldl_cons, ih fun h listed => other h (List.mem_cons_of_mem _ listed), ivHas_markWord, if_neg (other g List.mem_cons_self)]

/-- Where every mark of a byte's word says the same, that is its poison. -/
theorem ivHas_foldl_markWord_own {b : Bool} (own : ∃ g ∈ gs, key g ≤ x ∧ x < key g + 8) (agree : ∀ g ∈ gs, key g ≤ x ∧ x < key g + 8 → bad g = b) :
    ivHas x (gs.foldl (markWord key bad) ps) = b := by
  induction gs generalizing ps with
  | nil => simp at own
  | cons g gs ih =>
    by_cases later : ∃ h ∈ gs, key h ≤ x ∧ x < key h + 8
    · exact ih later fun h listed => agree h (List.mem_cons_of_mem _ listed)
    · have none_later : ∀ h ∈ gs, ¬(key h ≤ x ∧ x < key h + 8) := fun h listed covers => later ⟨h, listed, covers⟩
      obtain ⟨h, listed, covers⟩ := own
      obtain rfl : h = g := (List.mem_cons.1 listed).resolve_right fun among => none_later h among covers
      rw [List.foldl_cons, ivHas_foldl_markWord_other none_later, ivHas_markWord, if_pos covers, agree h List.mem_cons_self covers]

end

/-! ## A run of bytes in a byte memory -/

/-- Bytes stored one after another from an address on, each where the key of its address says. -/
def storeRun (key : Nat → Nat) (a : Nat) (bs : List PByte) (m : List Host.Cell) : List Host.Cell :=
  (bs.foldl (fun (st : Nat × List Host.Cell) b => (st.1 + 1, cellSet (key st.1) b.1 st.2)) (a, m)).2

theorem storeRun_cons (key : Nat → Nat) (a : Nat) (b : PByte) (bs : List PByte) (m : List Host.Cell) :
    storeRun key a (b :: bs) m = storeRun key (a + 1) bs (cellSet (key a) b.1 m) := rfl

/-- A run leaves what it does not store to. -/
theorem cellGet_storeRun_other {key : Nat → Nat} {a k : Nat} {bs : List PByte} {m : List Host.Cell} (w : cellsWf 0 m = true)
    (other : ∀ i < bs.length, k ≠ key (a + i)) : cellGet k (storeRun key a bs m) = cellGet k m := by
  induction bs generalizing a m with
  | nil => rfl
  | cons b bs ih =>
    have later : ∀ i < bs.length, k ≠ key (a + 1 + i) := fun i hi => by
      have := other (i + 1) (Nat.succ_lt_succ hi)
      rwa [← Nat.add_assoc, Nat.add_right_comm] at this
    rw [storeRun_cons, ih (cellsWf_cellSet _ (Nat.zero_le _) w) later, cellGet_cellSet_ne _ w (show k ≠ key a from other 0 (Nat.succ_pos _))]

/-- Each byte of a run whose keys differ is read back. -/
theorem cellGet_storeRun_own {key : Nat → Nat} {a i : Nat} {bs : List PByte} {m : List Host.Cell} (w : cellsWf 0 m = true)
    (distinct : ∀ i < bs.length, ∀ j < bs.length, key (a + i) = key (a + j) → i = j) (hi : i < bs.length) :
    cellGet (key (a + i)) (storeRun key a bs m) = (bs.getD i (0, false)).1 := by
  induction bs generalizing a i m with
  | nil => simp at hi
  | cons b bs ih =>
    have shift : ∀ n, a + 1 + n = a + (n + 1) := fun n => by omega
    have w' := cellsWf_cellSet (a := key a) b.1 (Nat.zero_le _) w
    rw [storeRun_cons]
    cases i with
    | zero =>
      have first : ∀ n < bs.length, key a ≠ key (a + 1 + n) := fun n hn same => by
        rw [shift] at same
        exact absurd (distinct 0 (Nat.succ_pos _) (n + 1) (Nat.succ_lt_succ hn) same) (by omega)
      rw [Nat.add_zero, cellGet_storeRun_other w' first, cellGet_cellSet _ _ w, if_pos rfl]
      rfl
    | succ n =>
      rw [← shift]
      refine ih w' (fun i hi j hj same => ?_) (Nat.lt_of_succ_lt_succ hi)
      rw [shift, shift] at same
      exact Nat.succ.inj (distinct (i + 1) (Nat.succ_lt_succ hi) (j + 1) (Nat.succ_lt_succ hj) same)

/-! ## Addresses of tiers H and N and the scratchpad -/

/-- An address of tier H, tier N or the scratchpad. -/
def PlainAddr (a : Nat) : Prop := region a = .tierH ∨ region a = .tierN ∨ region a = .snapshot ∨ region a = .scratch

/-- The ranges of the map begin and end with a word (R39). -/
theorem region_of_word {a b : Nat} (word : b / 8 = a / 8) : region b = region a := by
  have bound : ∀ c, c % 8 = 0 → (b < c ↔ a < c) := fun c aligned => by omega
  simp only [region, bound paN rfl, bound paSnap rfl, bound paNEnd rfl, bound paS rfl, bound paSEnd rfl, bound paScratch rfl, bound paScratchEnd rfl,
    bound paSpill rfl, bound paSpillEnd rfl, bound paControl rfl, bound paControlEnd rfl]

/-- A word is plain as a whole. -/
theorem plainAddr_of_word {a b : Nat} (plain : PlainAddr a) (word : b / 8 = a / 8) : PlainAddr b := by
  rwa [PlainAddr, region_of_word word]

theorem granule_plain {a : Nat} (plain : PlainAddr a) : granule a = 8 := by
  rcases plain with h | h | h | h <;> simp [granule, h]

section
variable (s : State) {a b : Nat}

theorem keyOf_tierH (low : a < 2 ^ 41) : keyOf s a = 2 ^ 37 * (tierHLocal s.mem.stacked a).1 + (tierHLocal s.mem.stacked a).2 := by
  have inH : region a = .tierH := if_pos low
  simp only [keyOf, storeOf, inH]

/-- No range past its first is tier H's. -/
theorem lt_of_tierH (inH : region a = .tierH) : a < 2 ^ 41 := by
  have other : ∀ {c : Prop} [Decidable c] {x y : Region}, x ≠ .tierH → y ≠ .tierH → (if c then x else y) ≠ .tierH := fun hx hy => by
    split <;> assumption
  refine Nat.lt_of_not_le fun high => ?_
  rw [region, if_neg (show ¬a < paN from Nat.not_lt.2 high)] at inH
  refine absurd inH ?_
  repeat refine other (by decide) ?_
  decide

theorem keyOf_past_tierH (plain : PlainAddr a) (high : 2 ^ 41 ≤ a) : keyOf s a = a := by
  rcases plain with inH | h | h | h
  · exact absurd (lt_of_tierH inH) (Nat.not_lt.2 high)
  all_goals simp only [keyOf, storeOf, h]

/-- The address that a storage address of tier H serves (R237). -/
def tierHAddr (stacked : List Nat) (k : Nat) : Nat :=
  let g := k % 2 ^ 37 / 2 ^ 26
  let off := k % 2 ^ 26
  if stacked.contains g then 2 ^ 30 * g + 2 ^ 26 * (k / 2 ^ 37) + off
  else 2 ^ 30 * g + 2 ^ 16 * (off / 2 ^ 12) + 2 ^ 12 * (k / 2 ^ 37) + off % 2 ^ 12

theorem tierHAddr_parts (stacked : List Nat) {n g off : Nat} (hg : g < 2 ^ 11) (ho : off < 2 ^ 26) :
    tierHAddr stacked (2 ^ 37 * n + (2 ^ 26 * g + off))
      = if stacked.contains g then 2 ^ 30 * g + 2 ^ 26 * n + off else 2 ^ 30 * g + 2 ^ 16 * (off / 2 ^ 12) + 2 ^ 12 * n + off % 2 ^ 12 := by
  have stack : (2 ^ 37 * n + (2 ^ 26 * g + off)) / 2 ^ 37 = n := by omega
  have gib : (2 ^ 37 * n + (2 ^ 26 * g + off)) % 2 ^ 37 / 2 ^ 26 = g := by omega
  have within : (2 ^ 37 * n + (2 ^ 26 * g + off)) % 2 ^ 26 = off := by omega
  simp only [tierHAddr, stack, gib, within]

/-- Stack, 1 GiB run and byte of the run of a tier H address make its storage address. -/
theorem tierHLocal_parts (stacked : List Nat) (a : Nat) :
    ∃ n off, n < 16 ∧ off < 2 ^ 26 ∧ tierHLocal stacked a = (n, 2 ^ 26 * (a / 2 ^ 30) + off)
      ∧ a = if stacked.contains (a / 2 ^ 30) then 2 ^ 30 * (a / 2 ^ 30) + 2 ^ 26 * n + off
            else 2 ^ 30 * (a / 2 ^ 30) + 2 ^ 16 * (off / 2 ^ 12) + 2 ^ 12 * n + off % 2 ^ 12 := by
  cases mode : stacked.contains (a / 2 ^ 30) with
  | true =>
    refine ⟨a / 2 ^ 26 % 16, a % 2 ^ 26, by omega, by omega, by simp only [tierHLocal, mode, if_true], ?_⟩
    rw [if_pos rfl]
    omega
  | false =>
    refine ⟨a / 2 ^ 12 % 16, a / 2 ^ 16 % 2 ^ 14 * 2 ^ 12 + a % 2 ^ 12, by omega, by omega,
      by simp only [tierHLocal, mode, Bool.false_eq_true, if_false, Nat.add_assoc], ?_⟩
    rw [if_neg (by decide)]
    omega

theorem tierHAddr_keyOf (low : a < 2 ^ 41) : tierHAddr s.mem.stacked (keyOf s a) = a := by
  obtain ⟨n, off, -, bound, parts, address⟩ := tierHLocal_parts s.mem.stacked a
  rw [keyOf_tierH s low, parts, tierHAddr_parts _ (by omega) bound, ← address]

theorem keyOf_lt (low : a < 2 ^ 41) : keyOf s a < 2 ^ 41 := by
  obtain ⟨n, off, stack, bound, parts, -⟩ := tierHLocal_parts s.mem.stacked a
  rw [keyOf_tierH s low, parts]
  dsimp only
  omega

/-- No two plain addresses share their storage. -/
theorem keyOf_injective (plainA : PlainAddr a) (plainB : PlainAddr b) (same : keyOf s a = keyOf s b) : a = b := by
  rcases Nat.lt_or_ge a (2 ^ 41) with lowA | highA <;> rcases Nat.lt_or_ge b (2 ^ 41) with lowB | highB
  · rw [← tierHAddr_keyOf s lowA, ← tierHAddr_keyOf s lowB, same]
  · have := keyOf_lt s lowA
    rw [keyOf_past_tierH s plainB highB] at same
    omega
  · have := keyOf_lt s lowB
    rw [keyOf_past_tierH s plainA highA] at same
    omega
  · rwa [keyOf_past_tierH s plainA highA, keyOf_past_tierH s plainB highB] at same

/-- The storage word of a byte is that of its word's first byte. -/
theorem keyOf_word (plain : PlainAddr a) : keyOf s a / 8 * 8 = keyOf s (a / 8 * 8) := by
  have plainWord : PlainAddr (a / 8 * 8) := plainAddr_of_word plain (by omega)
  rcases Nat.lt_or_ge a (2 ^ 41) with low | high
  · have sameGiB : a / 8 * 8 / 2 ^ 30 = a / 2 ^ 30 := by omega
    rw [keyOf_tierH s low, keyOf_tierH s (by omega)]
    unfold tierHLocal
    simp only [sameGiB]
    split
    next stacked =>
      dsimp only
      omega
    next interleaved =>
      dsimp only
      omega
  · rw [keyOf_past_tierH s plain high, keyOf_past_tierH s plainWord (by omega)]

end

/-! ## Reading and writing with nothing armed, damaged or open -/

/-- No injection is armed, no word is damaged and nothing is left open. -/
structure QuietMemory (s : State) : Prop where
  closed : s.mem.loose = []
  undamaged : s.mem.damaged = []
  unarmed : s.str.armed = []

theorem memByte_quiet {s : State} {a : Nat} (quiet : QuietMemory s) (plain : PlainAddr a) :
    memByte s a = (cellGet (keyOf s a) s.mem.cells, ivHas (keyOf s (a / 8 * 8)) s.mem.poison) := by
  simp [memByte, granule_plain plain, keyOf_word s plain, quiet.closed, quiet.undamaged, looseAt]

/-- The words of a run of plain bytes. -/
theorem mem_granulesOf {pa n g : Nat} (plain : PlainAddr pa) : g ∈ granulesOf pa n ↔ g % 8 = 0 ∧ pa / 8 * 8 ≤ g ∧ g < pa + n := by
  simp only [granulesOf, granule_plain plain, List.mem_map, List.mem_range, ceilDiv, if_neg (by decide : ¬(8 : Nat) = 0)]
  constructor
  · rintro ⟨i, below, rfl⟩
    split at below <;> omega
  · rintro ⟨aligned, low, high⟩
    exact ⟨g / 8 - pa / 8, by split <;> omega, by omega⟩

/-- The poison of a word that a run covers whole is that of its new bytes. -/
theorem granuleAfter_covered {pa n g : Nat} {bs : List PByte} {was : Bool} (plain : PlainAddr pa) (low : pa ≤ g) (high : g + 8 ≤ pa + n) :
    granuleAfter pa n bs g was = true ↔ ∃ j < 8, (bs.getD (g + j - pa) (0, false)).2 = true := by
  have covered : ∀ j < 8, pa ≤ g + j ∧ g + j < pa + n := fun j hj => by omega
  have asked : ((List.range 8).any fun j => decide (pa ≤ g + j) && decide (g + j < pa + n) && (bs.getD (g + j - pa) (0, false)).2) = true
      ↔ ∃ j < 8, (bs.getD (g + j - pa) (0, false)).2 = true := by
    simp only [List.any_eq_true, List.mem_range, Bool.and_eq_true, decide_eq_true_eq]
    exact exists_congr fun j => and_congr_right fun hj => and_iff_right (covered j hj)
  rw [← asked]
  simp only [granuleAfter, granule_plain plain, if_pos (And.intro low high)]
  split
  next poisoned => exact iff_of_true rfl poisoned
  next clean => exact iff_of_false Bool.false_ne_true clean

section
variable {s : State} {pa : Nat} {bs : List PByte}

/-- The poison after a write, word by word. -/
def storedPoison (s : State) (pa : Nat) (bs : List PByte) : List (Nat × Nat) :=
  (granulesOf pa bs.length).foldl
    (markWord (fun g => keyOf s g / 8 * 8) fun g => granuleAfter pa bs.length bs g (ivHas (keyOf s g / 8 * 8) s.mem.poison)) s.mem.poison

/-- The state after a write, with nothing armed, damaged or open. -/
def storedPlain (s : State) (pa : Nat) (bs : List PByte) : State :=
  { s with mem := { s.mem with cells := storeRun (keyOf s) pa bs s.mem.cells, poison := storedPoison s pa bs } }

theorem physWrite_quiet (quiet : QuietMemory s) (plain : PlainAddr pa) (some_bytes : 0 < bs.length) : physWrite pa bs s = storedPlain s pa bs := by
  have settled : settleAll pa bs.length s = s := by simp [settleAll, quiet.closed]
  have stored : storeBytes pa bs s = storedPlain s pa bs := by
    simp only [storeBytes, storedPlain, storedPoison, granule_plain plain, quiet.undamaged, List.contains_nil, Bool.or_false, List.filter_nil]
    rfl
  have undamaged : damageAll pa bs.length (storedPlain s pa bs) = storedPlain s pa bs :=
    if_pos (by rw [storedPlain, quiet.unarmed]; rfl)
  rw [physWrite, if_neg (by simpa using List.length_pos_iff.1 some_bytes), settled, stored, undamaged]

theorem storedPlain_quiet (quiet : QuietMemory s) : QuietMemory (storedPlain s pa bs) := ⟨quiet.closed, quiet.undamaged, quiet.unarmed⟩

theorem memByte_storedPlain {a : Nat} (quiet : QuietMemory s) (plain : PlainAddr a) :
    memByte (storedPlain s pa bs) a
      = (cellGet (keyOf s a) (storeRun (keyOf s) pa bs s.mem.cells), ivHas (keyOf s (a / 8 * 8)) (storedPoison s pa bs)) :=
  memByte_quiet (storedPlain_quiet quiet) plain

variable (plain : ∀ i < bs.length, PlainAddr (pa + i))
include plain

theorem plain_of_mem {g : Nat} (some_bytes : 0 < bs.length) (listed : g ∈ granulesOf pa bs.length) : PlainAddr g := by
  obtain ⟨aligned, low, high⟩ := (mem_granulesOf (plain 0 some_bytes)).1 listed
  exact plainAddr_of_word (plain (max g pa - pa) (by omega)) (by omega)

/-- A mark that meets a word's storage is the word's own. -/
theorem eq_of_mark {g a : Nat} (some_bytes : 0 < bs.length) (listed : g ∈ granulesOf pa bs.length) (plainA : PlainAddr a)
    (covers : keyOf s g / 8 * 8 ≤ keyOf s (a / 8 * 8) ∧ keyOf s (a / 8 * 8) < keyOf s g / 8 * 8 + 8) : g = a / 8 * 8 := by
  have plainG := plain_of_mem plain some_bytes listed
  have aligned := ((mem_granulesOf (plain 0 some_bytes)).1 listed).1
  have first : g / 8 * 8 = g := by omega
  have own := keyOf_word s plainG
  have word := keyOf_word s plainA
  rw [first] at own
  exact keyOf_injective s plainG (plainAddr_of_word plainA (by omega)) (by omega)

theorem storedPoison_covered {w : Nat} (low : pa ≤ 8 * w) (high : 8 * w + 8 ≤ pa + bs.length) :
    ivHas (keyOf s (8 * w)) (storedPoison s pa bs) = true ↔ ∃ j < 8, (bs.getD (8 * w + j - pa) (0, false)).2 = true := by
  have some_bytes : 0 < bs.length := by omega
  have start : PlainAddr pa := plain 0 some_bytes
  have plainW : PlainAddr (8 * w) := by
    have := plain (8 * w - pa) (by omega)
    rwa [show pa + (8 * w - pa) = 8 * w by omega] at this
  have first : 8 * w / 8 * 8 = 8 * w := by omega
  have word := keyOf_word s plainW
  rw [first] at word
  have own : ∃ g ∈ granulesOf pa bs.length, keyOf s g / 8 * 8 ≤ keyOf s (8 * w) ∧ keyOf s (8 * w) < keyOf s g / 8 * 8 + 8 :=
    ⟨8 * w, (mem_granulesOf start).2 ⟨by omega, by omega, by omega⟩, by omega, by omega⟩
  rw [storedPoison, ivHas_foldl_markWord_own (b := granuleAfter pa bs.length bs (8 * w) (ivHas (keyOf s (8 * w)) s.mem.poison)) own
    fun g listed covers => ?_]
  · exact granuleAfter_covered start low high
  · rw [eq_of_mark plain some_bytes listed plainW (by rwa [first]), first, word]

theorem storedPoison_untouched {a : Nat} (some_bytes : 0 < bs.length) (plainA : PlainAddr a) (apart : a / 8 < pa / 8 ∨ pa + bs.length ≤ a / 8 * 8) :
    ivHas (keyOf s (a / 8 * 8)) (storedPoison s pa bs) = ivHas (keyOf s (a / 8 * 8)) s.mem.poison := by
  refine ivHas_foldl_markWord_other fun g listed covers => ?_
  have same := eq_of_mark plain some_bytes listed plainA covers
  obtain ⟨-, low, high⟩ := (mem_granulesOf (plain 0 some_bytes)).1 listed
  omega

theorem cellGet_written {i : Nat} (w : cellsWf 0 s.mem.cells = true) (hi : i < bs.length) :
    cellGet (keyOf s (pa + i)) (storeRun (keyOf s) pa bs s.mem.cells) = (bs.getD i (0, false)).1 :=
  cellGet_storeRun_own w (fun i hi j hj same => Nat.add_left_cancel (keyOf_injective s (plain i hi) (plain j hj) same)) hi

theorem cellGet_unwritten {a : Nat} (w : cellsWf 0 s.mem.cells = true) (plainA : PlainAddr a) (apart : a < pa ∨ pa + bs.length ≤ a) :
    cellGet (keyOf s a) (storeRun (keyOf s) pa bs s.mem.cells) = cellGet (keyOf s a) s.mem.cells :=
  cellGet_storeRun_other w fun i hi same => by
    have := keyOf_injective s plainA (plain i hi) same
    omega

end

end Sys2Proof.Machine

namespace Sys2Proof

open Machine

/-- Settles O57: a write of no bytes changes nothing; one of some bytes is a run of stores and a run of marks. -/
theorem memoryWritesReadBack : Obligations.MemoryWritesReadBack := by
  intro s pa bs plainSet w closed undamaged unarmed plain u
  have quiet : QuietMemory s := ⟨closed, undamaged, unarmed⟩
  have form : cellsWf 0 u.mem.cells = true := physWrite_cells pa bs w
  rcases Nat.eq_zero_or_pos bs.length with empty | some_bytes
  · obtain rfl := List.eq_nil_of_length_eq_zero empty
    exact ⟨fun _ hi => absurd hi (Nat.not_lt_zero _), fun _ _ _ => rfl, fun _ low high => absurd (Nat.le_trans high low) (by omega),
      fun _ _ _ => rfl, form, rfl⟩
  · have written : u = storedPlain s pa bs := physWrite_quiet quiet (plain 0 some_bytes) some_bytes
    have byte : ∀ a, PlainAddr a → memByte u a = _ := fun a plainA => written ▸ memByte_storedPlain quiet plainA
    refine ⟨fun i hi => ?_, fun a plainA apart => ?_, fun x low high k hk => ?_, fun a plainA apart => ?_, form, by rw [written]; rfl⟩
    · rw [byte _ (plain i hi)]
      exact cellGet_written plain w hi
    · rw [byte a plainA, memByte_quiet quiet plainA]
      exact cellGet_unwritten plain w plainA apart
    · have inRun := plain (8 * x + k - pa) (by omega)
      rw [show pa + (8 * x + k - pa) = 8 * x + k by omega] at inRun
      rw [byte _ inRun, show (8 * x + k) / 8 * 8 = 8 * x by omega]
      exact storedPoison_covered plain low high
    · rw [byte a plainA, memByte_quiet quiet plainA, cellGet_unwritten plain w plainA (by omega), storedPoison_untouched plain some_bytes plainA apart]

end Sys2Proof
end

section
/-! PROOFS. Where an address of tiers H, N and S is stored (R237, R239, R240): the shifts and masks of R237's procedure are the quotients and remainders that `storeOf` takes. -/

namespace Sys2Proof.Machine

/-! ## Fields of an address -/

/-- A field above the low w bits, joined to them by `|||`. -/
theorem shiftLeft_or_eq_add {low w : Nat} (high : Nat) (fits : low < 2 ^ w) : (high <<< w) ||| low = 2 ^ w * high + low := by
  rw [← Nat.shiftLeft_add_eq_or_of_lt fits, Nat.shiftLeft_eq, Nat.mul_comm]

/-- The low w bits, taken by a mask of w ones. -/
theorem and_ones_eq_mod {x : Nat} (mask w : Nat) (ones : mask = 2 ^ w - 1) : x &&& mask = x % 2 ^ w := by
  rw [ones, Nat.and_two_pow_sub_one_eq_mod]

/-- The four bits that number the stacks and the channels of tier N. -/
theorem and_fifteen_eq_mod {x : Nat} : x &&& 0xF = x % 16 := and_ones_eq_mod 0xF 4 rfl

/-! ## Tier H (R237) -/

/-- The stack of R237's procedure. -/
def stackField (stacked : List Nat) (pa : Nat) : Nat :=
  if stacked.contains (pa >>> 30) then (pa >>> 26) &&& 0xF else (pa >>> 12) &&& 0xF

/-- `local` of R237's procedure: the byte within the stack. -/
def localField (stacked : List Nat) (pa : Nat) : Nat :=
  if stacked.contains (pa >>> 30) then ((pa >>> 30) <<< 26) ||| (pa &&& 0x3FFFFFF)
  else ((pa >>> 30) <<< 26) ||| (((pa >>> 16) &&& 0x3FFF) <<< 12) ||| (pa &&& 0xFFF)

/-- `off` of R237's procedure: the byte within the pseudo-channel. -/
def offField (loc : Nat) : Nat := ((loc >>> 13) <<< 8) ||| (loc &&& 0xFF)

theorem tierHLocal_eq_fields (stacked : List Nat) (pa : Nat) : tierHLocal stacked pa = (stackField stacked pa, localField stacked pa) := by
  unfold tierHLocal stackField localField
  simp only [Nat.shiftRight_eq_div_pow, and_fifteen_eq_mod]
  split
  next => rw [and_ones_eq_mod 0x3FFFFFF 26 rfl, shiftLeft_or_eq_add _ (Nat.mod_lt _ (by decide))]
  next =>
    have runByte : pa / 2 ^ 16 % 2 ^ 14 * 2 ^ 12 < 2 ^ 26 := by omega
    rw [and_ones_eq_mod 0x3FFF 14 rfl, and_ones_eq_mod 0xFFF 12 rfl, Nat.or_assoc, shiftLeft_or_eq_add _ (Nat.mod_lt _ (by decide)),
      shiftLeft_or_eq_add _ (by omega), Nat.mul_comm (2 ^ 12), Nat.add_assoc]

theorem pcOf_eq_fields (loc : Nat) : pcOf loc = ((loc >>> 8) &&& 0x1F, offField loc) := by
  change (loc / 2 ^ 8 % 2 ^ 5, loc / 2 ^ 13 * 2 ^ 8 + loc % 2 ^ 8) = _
  rw [offField, and_ones_eq_mod 0x1F 5 rfl, and_ones_eq_mod 0xFF 8 rfl, shiftLeft_or_eq_add _ (Nat.mod_lt _ (by decide)),
    Nat.mul_comm (2 ^ 8), Nat.shiftRight_eq_div_pow, Nat.shiftRight_eq_div_pow]

theorem tierHLocate_eq_fields (stacked : List Nat) (pa : Nat) :
    tierHLocate stacked pa = (stackField stacked pa, (localField stacked pa >>> 8) &&& 0x1F,
      offField (localField stacked pa) >>> 16, offField (localField stacked pa) &&& 0xFFFF) := by
  simp only [tierHLocate, tierHLocal_eq_fields, pcOf_eq_fields, Nat.shiftRight_eq_div_pow _ 16, and_ones_eq_mod 0xFFFF 16 rfl]

/-- A stack-local byte is one of 128 GiB. -/
theorem localField_lt (stacked : List Nat) {pa : Nat} (low : pa < 2 ^ 41) : localField stacked pa < 2 ^ 37 := by
  obtain ⟨n, off, -, bound, parts, -⟩ := tierHLocal_parts stacked pa
  have same : localField stacked pa = 2 ^ 26 * (pa / 2 ^ 30) + off := congrArg Prod.snd ((tierHLocal_eq_fields stacked pa).symm.trans parts)
  omega

/-- A pseudo-channel's blocks are usable ones. -/
theorem offField_block_lt {loc : Nat} (bound : loc < 2 ^ 37) : offField loc >>> 16 < 65536 := by
  have off : loc / 2 ^ 13 * 256 + loc % 256 = offField loc := congrArg Prod.snd (pcOf_eq_fields loc)
  rw [Nat.shiftRight_eq_div_pow]
  omega

section
variable (s : State) {pa : Nat}

theorem storeOf_tierH (low : pa < 2 ^ 41) :
    storeOf s pa = some (stackField s.mem.stacked pa * 2 ^ 37 + localField s.mem.stacked pa,
      sPC (stackField s.mem.stacked pa) ((localField s.mem.stacked pa >>> 8) &&& 0x1F), offField (localField s.mem.stacked pa) >>> 16) := by
  have inH : region pa = .tierH := if_pos low
  simp only [storeOf, inH, tierHLocal_eq_fields, pcOf_eq_fields, Nat.shiftRight_eq_div_pow _ 16, Nat.mul_comm (2 ^ 37)]

/-! ## Tier N (R239) -/

theorem region_tierN (low : paN ≤ pa) (high : pa < paNEnd) : region pa = .tierN ∨ region pa = .snapshot := by
  rw [region, if_neg (Nat.not_lt.2 low), if_pos high]
  split
  · exact .inl rfl
  · exact .inr rfl

theorem storeOf_tierN (low : paN ≤ pa) (high : pa < paNEnd) :
    storeOf s pa = some (pa, sTN ((pa - paN) / 2 ^ 12 % 16), ((pa - paN) / 2 ^ 16 * 2 ^ 12 + (pa - paN) % 2 ^ 12) / 2 ^ 16) := by
  rcases region_tierN low high with h | h <;> simp only [storeOf, h]

/-- R239's byte within the channel. -/
theorem channelByte_eq (o : Nat) : ((o >>> 16) <<< 12) ||| (o &&& 0xFFF) = o / 2 ^ 16 * 2 ^ 12 + o % 2 ^ 12 := by
  rw [and_ones_eq_mod 0xFFF 12 rfl, shiftLeft_or_eq_add _ (Nat.mod_lt _ (by decide)), Nat.shiftRight_eq_div_pow, Nat.mul_comm]

/-! ## Tier S (R240) -/

theorem region_tierS (low : paS ≤ pa) (high : pa < paSEnd) : region pa = .tierS := by
  have past : ∀ c, c ≤ paS → ¬pa < c := fun c below => Nat.not_lt.2 (Nat.le_trans below low)
  rw [region, if_neg (past paN (by decide)), if_neg (past paSnap (by decide)), if_neg (past paNEnd (by decide)), if_neg (past paS (by decide)), if_pos high]

/-- R240's byte within the channel, with n channels in turn. -/
def slotByte (n o : Nat) : Nat := o / 2 ^ 12 / n * 2 ^ 12 + o % 2 ^ 12

/-- Within the working channels, the granules of 4 KiB take the channels in turn. -/
theorem storeOf_tierS_backed (inS : region pa = .tierS) (within : pa - paS < s.mem.tsChannels.length * 2 ^ 37) :
    ∃ ch, s.mem.tsChannels[(pa - paS) / 2 ^ 12 % s.mem.tsChannels.length]? = some ch
      ∧ storeOf s pa = some (paS + ch * 2 ^ 37 + slotByte s.mem.tsChannels.length (pa - paS), sTS ch,
        slotByte s.mem.tsChannels.length (pa - paS) / 2 ^ 16) := by
  have some_channel : 0 < s.mem.tsChannels.length := by omega
  have slot := List.getElem?_eq_getElem (Nat.mod_lt ((pa - paS) / 2 ^ 12) some_channel)
  refine ⟨_, slot, ?_⟩
  simp only [storeOf, slotByte, inS, Nat.max_eq_left some_channel, slot, Nat.mul_comm (2 ^ 37), if_pos within]

theorem storeOf_tierS_unbacked (inS : region pa = .tierS) (past : s.mem.tsChannels.length * 2 ^ 37 ≤ pa - paS) : storeOf s pa = none := by
  have outside : ¬pa - paS < 2 ^ 37 * s.mem.tsChannels.length := by omega
  simp only [storeOf, inS, if_neg outside]
  split <;> rfl

end

end Sys2Proof.Machine

namespace Sys2Proof

open Machine

/-- Settles O56: R237's fields for tier H, R239's for tier N, and the two parts of tier S by R240. -/
theorem addressesReachTheirStorage : Obligations.AddressesReachTheirStorage := by
  refine fun s pa => ⟨fun low => ?_, fun low high => ?_, fun low high => ?_⟩
  · exact ⟨tierHLocate_eq_fields s.mem.stacked pa, storeOf_tierH s low, offField_block_lt (localField_lt s.mem.stacked low)⟩
  · intro o loc
    have byte : loc = o / 2 ^ 16 * 2 ^ 12 + o % 2 ^ 12 := channelByte_eq o
    have channel : (o >>> 12) &&& 0xF = o / 2 ^ 12 % 16 := by rw [and_fifteen_eq_mod, Nat.shiftRight_eq_div_pow]
    rw [byte, channel]
    refine ⟨storeOf_tierN s low high, ?_⟩
    change (o / 2 ^ 16 * 2 ^ 12 + o % 2 ^ 12) / 2 ^ 16 < 524288
    omega
  · have inS := region_tierS low high
    exact ⟨storeOf_tierS_backed s inS, storeOf_tierS_unbacked s inS⟩

end Sys2Proof
end

section
/-! PROOFS. SPL.PLAN and SPL.OPEN: the plan that each puts in the table, and what each leaves (R258, R259, R263 to R265, R377). -/

namespace Sys2Proof.Machine

@[simp] theorem planOf_setPlan_self (n : Nat) (x : Plan) (s : State) : planOf (setPlan n x s) n = some x := kvGet_kvSet_self ..

@[simp] theorem planOf_setPlan_ne {n k : Nat} (x : Plan) (s : State) (other : k ≠ n) : planOf (setPlan n x s) k = planOf s k :=
  kvGet_kvSet_ne _ _ other

/-! ## SPL.PLAN -/

theorem loadPlan_state (p : Packet) (b : List Byte) (s : State) :
    (loadPlan p b s).1 = setPlan (leAt 0 1 b) (planAt (issuerCtx s p.issuer) b) s := rfl

theorem loadPlan_entries (p : Packet) (b : List Byte) (s : State) :
    (loadPlan p b s).2.cnt1 = sat32 (planAt (issuerCtx s p.issuer) b).buckets.length := rfl

/-! ## SPL.OPEN -/

/-- A plan as SPL.OPEN arms it (R264). -/
def armedPlan (p : Packet) (s : State) (x : Plan) : Plan :=
  { x with armed := some (openStep p), prevStep := some (openStep p), hitch := pf p 5 15 0, v := BitVec.ofNat 64 (dw p 6)
           begun := decide ((BitVec.ofNat 64 (dw p 6) : DWord).toNat ≤ (hitchOf s (pf p 5 15 0)).value.toNat)
           buckets := x.buckets.map armBkt }

/-- The plan is armed in its place and comes last in the order of arming. -/
theorem openEffect_loaded {p : Packet} {s : State} {x : Plan} (loaded : planOf s (splPlanId p) = some x) :
    openEffect p s
      = ({ s with spl := { plans := (setPlan (splPlanId p) (armedPlan p s x) s).spl.plans, order := s.spl.order ++ [splPlanId p] } },
          okCnt (sat32 x.buckets.length) (sat32 (largestWindow x)) 0 0) := by
  rw [openEffect, loaded]
  rfl

theorem planOf_openEffect {p : Packet} {s : State} {x : Plan} (loaded : planOf s (splPlanId p) = some x) (k : Nat) :
    planOf (openEffect p s).1 k = planOf (setPlan (splPlanId p) (armedPlan p s x) s) k := by
  rw [openEffect_loaded loaded]
  rfl

/-- No bucket keeps anything of an earlier step (R264). -/
theorem armedPlan_buckets (p : Packet) (s : State) (x : Plan) : ∀ k ∈ (armedPlan p s x).buckets, k.state = .armed ∧ k.slots = [] := by
  intro k hk
  obtain ⟨b, -, rfl⟩ := List.mem_map.1 hk
  exact ⟨rfl, rfl⟩

theorem armedPlan_begun (p : Packet) (s : State) (x : Plan) :
    (armedPlan p s x).begun = true
      ↔ (BitVec.ofNat 64 (dw p 6) : DWord).toNat ≤ (hitchOf s (pf p 5 15 0)).value.toNat :=
  decide_eq_true_iff

end Sys2Proof.Machine

namespace Sys2Proof

open Machine

/-- Settles O23: SPL.PLAN sets one plan, and SPL.OPEN one plan and the order of arming. -/
theorem planEffects : Obligations.PlanEffects := by
  intro p b s l o n
  have placed : l.1 = setPlan (leAt 0 1 b) (planAt (issuerCtx s p.issuer) b) s := loadPlan_state p b s
  refine ⟨by rw [placed, planOf_setPlan_self], fun k other => by rw [placed, planOf_setPlan_ne _ _ other], rfl, loadPlan_entries p b s,
    fun x loaded => ?_⟩
  have opened : o = _ := openEffect_loaded loaded
  have plans : ∀ k, planOf o.1 k = planOf (setPlan n (armedPlan p s x) s) k := planOf_openEffect loaded
  refine ⟨by rw [opened], fun k other => by rw [plans, planOf_setPlan_ne _ _ other], by rw [opened],
    armedPlan p s x, by rw [plans, planOf_setPlan_self], rfl, rfl, rfl, rfl, List.length_map _, armedPlan_buckets p s x, armedPlan_begun p s x⟩

end Sys2Proof
end

section
/-! PROOFS. The steps of the splice engine, where their conditions hold (R258, R265 to R289). -/

namespace Sys2Proof.Machine

section

variable {p e : Nat} {x : Plan} {b : Bkt} {s : State}

/-! ## Messages (R274) -/

/-- A message that names the armed step of a loaded plan acts on its bucket. -/
theorem exec_onSpl_acts {l k : Nat} {m : SplMsg} {a : Arrival} {t : State} {act : Nat → Nat → Plan → Bkt → SplMsg → State → State} {i : Instr}
    (taken : takeArrival l 2 (splBytes { m with kind := BitVec.ofNat 8 k }) s = some (a, t)) (serves : phaseAt t sIZ < 3)
    (found : splMatch t (splOf (splBytes { m with kind := BitVec.ofNat 8 k })).tag.toNat = some (p, e))
    (plan : planOf t p = some x) (bucket : bktOf t p e = some b) (named : splNames x (splOf (splBytes { m with kind := BitVec.ofNat 8 k })) = true)
    (delivers : exec i s = .next (met s (onSpl l k m act s))) :
    exec i s = .next (met s (act p e x b (splOf (splBytes { m with kind := BitVec.ofNat 8 k })) t)) := by
  rw [delivers]
  simp only [onSpl, taken, if_neg (Nat.not_le.2 serves), found, plan, bucket, if_pos named]

/-! ## Activation (R265, R267) -/

theorem splBucketActivate_activates {f : Nat} (can : activation s p = some (x, e, b, f)) :
    let u := sendGrant x b (windowOf b)
      (updBkt p e (fun b => { b with state := .active, activeMs := s.clk.uptimeMs, firstSlot := f, grantOut := windowOf b }) s)
    exec (.splBucketActivate p) s = .next (if (splLanes u).length < 2 then abandonBkt p e 4 none u else u) := by
  change execSplBucketActivate p s = _
  rw [execSplBucketActivate, can]

section

variable (plan : planOf s p = some x) (bucket : bktOf s p e = some b)
include plan bucket

/-! ## The local contribution (R267, R269) -/

theorem splLocalRead_reads {c : Nat} {els : List (Word × Bool)} (us : List LaneUpset) (may : mayRead x b c = true)
    (read : readElems s x (chunkVa b b.gVa c) (chunkSpan b c).2.2 = .ok els) :
    let u := fireArmed sGEN 0 .none (contribRead p e (updBkt p e (fun b => { b with localRead := insNat c b.localRead })
      (detectVa reachHN x.owner (chunkVa b b.gVa c) (4 * (chunkSpan b c).2.2) s)))
    exec (.splLocalRead p e c us) s
      = .next (met s (if isActive u p e then mergeInput p e localPos (sGEN, 0) (localMsg u x b c els) us u else u)) := by
  change execSplLocalRead p e c us s = _
  simp only [execSplLocalRead, plan, bucket, may, read]
  rfl

theorem splLocalRead_faults {c : Nat} {f : AFault} (us : List LaneUpset) (may : mayRead x b c = true)
    (fault : readElems s x (chunkVa b b.gVa c) (chunkSpan b c).2.2 = .error f) :
    exec (.splLocalRead p e c us) s = .next (met s (abandonBkt p e 3 none (reportTable f s))) := by
  change execSplLocalRead p e c us s = _
  simp only [execSplLocalRead, plan, bucket, may, fault]
  rfl

/-! ## Releasing slots (R267, R268, R289) -/

theorem splSlotRelease_releases {c : Nat} (active : b.state = .active) (sent : (slotAt b c).any Slot.sent = true)
    (gone : waitsForLink s x b c = false) :
    let b1 := { b with released := insNat c b.released, slots := b.slots.filter fun t => t.chunk != c }
    let limit := lowestChunk b1 + windowOf b1
    let b2 := { b1 with grantOut := max b1.grantOut limit }
    let u := updBkt p e (fun _ => b2) s
    let v := if b.grantOut < limit then sendGrant x b limit u else u
    exec (.splSlotRelease p e c) s = .next (met s (if (routeOf x b).tail ∧ b2.released.length = chunksOf b then finalsDone p e v else v)) := by
  change execSplSlotRelease p e c s = _
  simp only [execSplSlotRelease, plan, bucket, active, sent, gone]
  cases tail : (routeOf x b).tail with
  | false => simp only [false_and, reduceCtorEq, if_false]; rfl
  | true => simp only [true_and, if_true]; rfl

/-! ## Time-outs (R287) -/

theorem splWaitTimeout_late (active : b.state = .active) (owed : undelivered (routeOf x b) b ≠ [])
    (late : (routeOf x b).waitMs ≤ elapsedMs s b.activeMs) :
    let up := undelivered (routeOf x b) b
    let named := up.foldl (fun m i => lowMissing m (some ((routeOf x b).ups.getD i 0))) none
    exec (.splWaitTimeout p e) s = .next (met s (if b.proceed then
        flushBkt p e (updBkt p e (fun b => { b with upGone := b.upGone ++ up, missing := lowMissing b.missing named }) s)
      else abandonBkt p e 1 named s)) := by
  have past : ¬elapsedMs s b.activeMs < (routeOf x b).waitMs := Nat.not_lt.2 late
  change execSplWaitTimeout p e s = _
  simp [execSplWaitTimeout, plan, bucket, active, owed, past]

theorem splFinalTimeout_late {t : Word} (active : b.state = .active) (sent : b.sentLastMs = some t) (inner : (routeOf x b).tail = false)
    (unfinished : b.finals.length ≠ chunksOf b) (late : (routeOf x b).finalMs ≤ elapsedMs s t) :
    exec (.splFinalTimeout p e) s = .next (met s (abandonBkt p e 1 none s)) := by
  have past : ¬elapsedMs s t < (routeOf x b).finalMs := Nat.not_lt.2 late
  change execSplFinalTimeout p e s = _
  simp [execSplFinalTimeout, plan, bucket, active, sent, inner, unfinished, past]

end

/-! ## Low-rank steps (R281, R286) -/

/-- What follows the step that a low-rank bucket has reached (R281). -/
def lrAfter : Nat → Nat → Nat → Plan → Bkt → State → State
  | 0 => lrStep1
  | 1 => lrStep2
  | 2 => lrStep4
  | 4 => lrStep5
  | 5 => lrStep7
  | _ => lrStep8

theorem lrAfter_eq (n p e : Nat) (x : Plan) (b : Bkt) (s : State) :
    lrAfter n p e x b s
      = if n = 0 then lrStep1 p e x b s
        else if n = 1 then lrStep2 p e x b s
        else if n = 2 then lrStep4 p e x b s
        else if n = 4 then lrStep5 p e x b s
        else if n = 5 then lrStep7 p e x b s
        else lrStep8 p e x b s := by
  unfold lrAfter
  split <;> simp_all

section

variable (plan : planOf s p = some x) (bucket : bktOf s p e = some b) (due : lrDue x e b = true) (inUse : outOfUse s sIZ = false)
include plan bucket due inUse

theorem splLowrankStep_not_served (out : lrServes s b = false) :
    exec (.splLowrankStep p e) s = .next (met s (abandonBkt p e 4 none s)) := by
  change execSplLowrankStep p e s = _
  simp [execSplLowrankStep, plan, bucket, due, inUse, out]

variable (serves : lrServes s b = true)
include serves

theorem splLowrankStep_no_grant (turn : lrOnArray b = false ∨ lrTurn s x = true) (lost : inGrant (ctxOf s x.owner) x.spWork (lrPad b) = false) :
    exec (.splLowrankStep p e) s = .next (met s (abandonBkt p e 3 none s)) := by
  change execSplLowrankStep p e s = _
  rcases turn with off | turn
  · simp [execSplLowrankStep, plan, bucket, due, inUse, serves, off, lost]
  · simp [execSplLowrankStep, plan, bucket, due, inUse, serves, turn, lost]

variable {n : Nat} (granted : inGrant (ctxOf s x.owner) x.spWork (lrPad b) = true) (reached : b.lrStep = n)
include granted reached

/-- After steps 1, 4 and 5 the bucket goes on with the array, in its turn there. -/
theorem splLowrankStep_on_array (array : (n == 1 || n == 4 || n == 5) = true) (turn : lrTurn s x = true) :
    exec (.splLowrankStep p e) s = .next (met s (lrAfter n p e x b { s with arr := { s.arr with lastCtx := x.owner } })) := by
  have on : lrOnArray b = true := by rw [lrOnArray, reached, array]
  change execSplLowrankStep p e s = _
  simp [execSplLowrankStep, lrAfter_eq, plan, bucket, due, inUse, serves, on, turn, granted, reached]

theorem splLowrankStep_off_array (elsewhere : (n == 1 || n == 4 || n == 5) = false) :
    exec (.splLowrankStep p e) s = .next (met s (lrAfter n p e x b s)) := by
  have off : lrOnArray b = false := by rw [lrOnArray, reached, elsewhere]
  change execSplLowrankStep p e s = _
  simp [execSplLowrankStep, lrAfter_eq, plan, bucket, due, inUse, serves, off, granted, reached]

end

end

end Sys2Proof.Machine

namespace Sys2Proof

open Machine

/-- Settles O54, step by step: a message by its kind, an activation, and the steps of one bucket. -/
theorem spliceEventsComplete : Obligations.SpliceEventsComplete := by
  refine ⟨?messages, fun p e f x b s can => splBucketActivate_activates can, fun p e x b s plan bucket =>
    ⟨fun c us els => splLocalRead_reads plan bucket us, fun c us f => splLocalRead_faults plan bucket us, ?lowRank,
      fun c => splSlotRelease_releases plan bucket, splWaitTimeout_late plan bucket, fun t => splFinalTimeout_late plan bucket⟩⟩
  case messages =>
    intro l k m a p e x b us s t bytes w taken serves found plan bucket named
    refine ⟨fun run => ?_, fun final => ?_, fun grant => ?_, fun abandon => ?_⟩
    · exact exec_onSpl_acts (act := runArrives l us) taken serves found plan bucket named (by rw [run]; rfl)
    · exact exec_onSpl_acts (act := finalArrives l) taken serves found plan bucket named (by rw [final]; rfl)
    · exact exec_onSpl_acts (act := grantArrives) taken serves found plan bucket named (by rw [grant]; rfl)
    · exact exec_onSpl_acts (act := fun p e _ b m s => if b.state = .active then abandonBkt p e m.cause.toNat (missingOf m) s else s)
        taken serves found plan bucket named (by rw [abandon]; rfl)
  case lowRank =>
    intro due inUse a
    refine ⟨splLowrankStep_not_served plan bucket due inUse, splLowrankStep_no_grant plan bucket due inUse, fun serves granted => ?_⟩
    have offArray n := splLowrankStep_off_array (n := n) plan bucket due inUse serves granted
    have onArray n := splLowrankStep_on_array (n := n) plan bucket due inUse serves granted
    exact ⟨fun reached => offArray 0 reached rfl, fun reached => onArray 1 reached rfl, fun reached => offArray 2 reached rfl,
      fun reached => onArray 4 reached rfl, fun reached => onArray 5 reached rfl, fun reached => offArray 7 reached rfl⟩

end Sys2Proof
end

section
/-! PROOFS. TKL.STEPSIZE and TKL.COEF on the group table: which entries each changes, and what it leaves (R293, R298, R300, R303). -/

namespace Sys2Proof.Machine

@[simp] theorem groupOf_setGroup_self (g : Nat) (x : TklGroup) (s : State) : groupOf (setGroup g x s) g = x := kvGetD_kvSet_self ..

@[simp] theorem groupOf_setGroup_ne {g k : Nat} (x : TklGroup) (s : State) (other : k ≠ g) : groupOf (setGroup g x s) k = groupOf s k :=
  kvGetD_kvSet_ne _ _ _ other

/-! ## A run of groups -/

/-- The n groups from `first` on, each changed by `f` with its place in the run. -/
def setGroups (first n : Nat) (f : Nat → TklGroup → TklGroup) (s : State) : State :=
  (List.range n).foldl (fun s i => setGroup (first + i) (f i (groupOf s (first + i))) s) s

theorem setGroups_succ (first n : Nat) (f : Nat → TklGroup → TklGroup) (s : State) :
    setGroups first (n + 1) f s
      = setGroup (first + n) (f n (groupOf (setGroups first n f s) (first + n))) (setGroups first n f s) := by
  simp only [setGroups, List.range_succ, List.foldl_append, List.foldl_cons, List.foldl_nil]

/-- Only the group table changes. -/
theorem setGroups_frame (first n : Nat) (f : Nat → TklGroup → TklGroup) (s : State) :
    setGroups first n f s = { s with tkl := { s.tkl with groups := (setGroups first n f s).tkl.groups } } := by
  induction n with
  | zero => rfl
  | succ n ih =>
    rw [setGroups_succ, ih]
    rfl

theorem groupOf_setGroups_outside {first n g : Nat} (f : Nat → TklGroup → TklGroup) (s : State) (outside : ¬(first ≤ g ∧ g < first + n)) :
    groupOf (setGroups first n f s) g = groupOf s g := by
  induction n with
  | zero => rfl
  | succ n ih => rw [setGroups_succ, groupOf_setGroup_ne _ _ (by omega), ih (by omega)]

/-- A later group of the run does not touch an earlier one. -/
theorem groupOf_setGroups_inside {first n g : Nat} (f : Nat → TklGroup → TklGroup) (s : State) (inside : first ≤ g ∧ g < first + n) :
    groupOf (setGroups first n f s) g = f (g - first) (groupOf s g) := by
  induction n with
  | zero => omega
  | succ n ih =>
    rw [setGroups_succ]
    by_cases last : g = first + n
    · subst last
      rw [groupOf_setGroup_self, groupOf_setGroups_outside f s (by omega), Nat.add_sub_cancel_left]
    · rw [groupOf_setGroup_ne _ _ last, ih (by omega)]

/-! ## TKL.STEPSIZE (R303) -/

/-- The group at place i of the run, armed with its pair. -/
def armGroup (pairs : List Word) (i : Nat) (g : TklGroup) : TklGroup :=
  { g with eta := pairs.getD (2 * i) 0, mu := pairs.getD (2 * i + 1) 0, stepArmed := true }

theorem stepsizeEffect_eq (pairs : List Word) (p : Packet) (s : State) :
    stepsizeEffect pairs p s = (setGroups (tklFirst p) (tklCount p) (armGroup pairs) s, okCnt (sat32 (tklCount p)) 0 0 0) := rfl

/-! ## TKL.COEF (R293, R300) -/

/-- The groups of the range as the records give them. -/
def putRecords (p : Packet) (b : List Byte) (s : State) : State :=
  setGroups (tklFirst p) (tklCount p) (fun i _ => groupAt (slice (128 * i) 128 b)) s

/-- WRITE sets the groups of its range, and then the owner where there was none. -/
theorem writeGroups_state (p : Packet) (b : List Byte) (s : State) :
    (writeGroups p b s).1
      = { s with tkl := { s.tkl with groups := (putRecords p b s).tkl.groups
                                     owner := some (s.tkl.owner.getD (issuerCtx s p.issuer)) } } := by
  have put : (coefRecords p b).foldl (fun s x => setGroup (tklFirst p + x.1) x.2 s) s = putRecords p b s := List.foldl_map
  simp only [writeGroups, put]
  rw [putRecords, setGroups_frame]
  rfl

theorem groupOf_writeGroups (p : Packet) (b : List Byte) (s : State) (g : Nat) :
    groupOf (writeGroups p b s).1 g = groupOf (putRecords p b s) g := by
  rw [writeGroups_state]
  rfl

theorem releaseGroups_unowned {s : State} (unowned : s.tkl.owner = none) : (releaseGroups s).1 = s := by simp [releaseGroups, unowned]

theorem releaseGroups_owned {s : State} (owned : s.tkl.owner ≠ none) : (releaseGroups s).1 = tklRelease s := by
  simp [releaseGroups, Option.isSome_iff_ne_none, owned]

/-- RELEASE leaves the chip unowned, and changes the group table beside the owner alone. -/
theorem releaseGroups_frame (s : State) :
    (releaseGroups s).1 = { s with tkl := { s.tkl with groups := (releaseGroups s).1.tkl.groups, owner := none } } := by
  by_cases unowned : s.tkl.owner = none
  · rw [releaseGroups_unowned unowned, ← unowned]
  · rw [releaseGroups_owned unowned]
    rfl

/-- A released group: ENABLED clear. -/
theorem groupOf_tklRelease (s : State) (g : Nat) :
    groupOf (tklRelease s) g = { groupOf s g with gflags := (groupOf s g).gflags &&& 0xFFFE } := by
  simp only [groupOf, tklRelease, kvGetD, kvGet_kvMap]
  cases kvGet g s.tkl.groups <;> rfl

end Sys2Proof.Machine

namespace Sys2Proof

open Machine

/-- Settles O25: TKL.STEPSIZE and WRITE each set a run of groups, and RELEASE clears ENABLED in the whole table. -/
theorem tackleGroupEffects : Obligations.TackleGroupEffects := by
  intro p pairs b s a w r inRange
  have released : r.1 = _ := releaseGroups_frame s
  have written : w.1 = _ := writeGroups_state p b s
  refine ⟨fun g inside => ?_, fun g outside => ?_, ?_, rfl, by rw [written], fun g outside => ?_, by rw [written], by rw [released], released,
    fun owned g => ?_⟩
  · exact groupOf_setGroups_inside (armGroup pairs) s inside
  · exact groupOf_setGroups_outside (armGroup pairs) s outside
  · exact setGroups_frame _ _ (armGroup pairs) s
  · exact (groupOf_writeGroups p b s g).trans (groupOf_setGroups_outside _ s outside)
  · rw [releaseGroups_owned owned, groupOf_tklRelease]
    simp

end Sys2Proof
end

section
/-! PROOFS. The Tackle commands and the steps of the chip: what each does where its conditions hold (R292, R293, R298, R300 to R315, R322). -/

namespace Sys2Proof.Machine

open Safety

/-! ## TKL.COEF (R300) -/

/-- Without a WRITE the command reads or releases. -/
theorem runCoef_no_write {p : Packet} (noWrite : coefWrite p = false) (uid : Nat) (s : State) :
    runCoef uid p s = runNow coefEarly (fun p s => if coefRead p then readGroups p s else releaseGroups s) uid p s := by
  simp [runCoef, noWrite]

/-- A WRITE whose records could be read is checked with them. -/
theorem runCoef_write {p : Packet} {s : State} {bs : List PByte} (write : coefWrite p = true) (param : coefParam p = [])
    (read : vaRead s reachQueue (issuerCtx s p.issuer) (dw p 6) (128 * tklCount p) = .ok bs) (sound : anyPoison bs = false) (uid : Nat) :
    runCoef uid p s = runNow (fun s p => coefChecks s p (bs.map Prod.fst))
      (fun p s => writeGroups p (bs.map Prod.fst) (detectVa reachQueue (issuerCtx s p.issuer) (dw p 6) bs.length s)) uid p s := by
  simp [runCoef, write, param, read, sound]

/-! ## TKL.STEPSIZE (R303) -/

theorem runStepsize_scalar {p : Packet} (scalar : stepScalar p = true) (uid : Nat) (s : State) :
    runStepsize uid p s
      = runNow (fun s p => stepsizeChecks s p []) (fun p s => stepsizeEffect (scalarPairs p) p s) uid p s := if_pos scalar

/-- The pairs of step size and multiplier that bytes of memory spell. -/
def pairsOf (bs : List PByte) : List Word := (chunks 4 (bs.map Prod.fst)).map fun w => BitVec.ofNat 32 (leNat w)

/-- Pairs that could be read from memory are checked with the packet. -/
theorem runStepsize_table {p : Packet} {s : State} {bs : List PByte} (table : stepScalar p = false)
    (read : vaRead s reachHN (issuerCtx s p.issuer) (dw p 8) (8 * tklCount p) = .ok bs) (sound : anyPoison bs = false) (uid : Nat) :
    runStepsize uid p s = runNow (fun s p => stepsizeChecks s p (pairsOf bs))
      (fun p s => stepsizeEffect (pairsOf bs) p (detectVa reachHN (issuerCtx s p.issuer) (dw p 8) bs.length s)) uid p s := by
  simp only [runStepsize, table, read, sound, Bool.false_eq_true, if_false]
  rfl

/-! ## TKL_BLOCK_UPDATE (R306, R322) -/

/-- The next block in a lane in service: the lane is fenced where a check fails, an injection fires, or the block runs. -/
theorem tklBlockUpdate_next {lane : Nat} {r : TklRun} {s : State} (run : s.tkl.run = some r) (left : r.block < (groupOf s r.group).blocks)
    (active : laneActive s lane = true) (free : entriesLeft s (tklCtx s) ≠ 0) (parityFail : Bool) :
    exec (.tklBlockUpdate r.block lane parityFail) s
      = .next (if parityFail then raiseEvent (sTKL lane) 0 .none false false s
          else if armedOn s (sTKL lane) 0 then fireArmed (sTKL lane) 0 .none s else runBlock r s) := by
  have due : ¬((groupOf s r.group).blocks ≤ r.block) := Nat.not_le.2 left
  change execTklBlockUpdate r.block lane parityFail s = _
  simp [execTklBlockUpdate, run, due, active, free]

/-! ## TKL_GROUP_DONE (R309, R310) -/

/-- The run with its group counted as finished (R311, R313). -/
def groupCounted (g : TklGroup) (r : TklRun) : TklRun :=
  { r with crcs := r.crcs ++ [(g.base, 4 * g.nParams, r.crc)], groupsDone := r.groupsDone + 1, paramsDone := r.paramsDone + g.nParams }

/-- What follows the skip bitmap of a finished group: its hitch, and the next group. -/
def groupFinished (r : TklRun) (j : Job) (g : TklGroup) (s : State) : State :=
  nextGroup (groupCounted g r) j.pkt (r.group + 1) (if g.hitchEn then hitchAdd g.hitch 1 s else s)

section

variable {r : TklRun} {j : Job} {s t : State} (job : tklJob s = some (r, j)) (done : (groupOf s r.group).blocks ≤ r.block)
include job done

theorem tklGroupDone_no_bitmap (noBitmap : stepSkipV j.pkt = false) :
    exec .tklGroupDone s = .next (met s (groupFinished r j (groupOf s r.group) s)) := by
  change execTklGroupDone s = _
  simp only [execTklGroupDone, job, if_neg (Nat.not_lt.2 done), noBitmap]
  rfl

theorem tklGroupDone_bitmap (bitmap : stepSkipV j.pkt = true)
    (stored : vaWrite reachHN j.ctx (dw j.pkt 8 + (skipBytes r (groupOf s r.group)).1)
      ((skipBytes r (groupOf s r.group)).2.map fun b => (b, false)) s = (t, none)) :
    exec .tklGroupDone s = .next (met s (groupFinished r j (groupOf s r.group) t)) := by
  change execTklGroupDone s = _
  simp only [execTklGroupDone, job, if_neg (Nat.not_lt.2 done), bitmap, if_true, stored]
  rfl

end

end Sys2Proof.Machine

namespace Sys2Proof

open Machine Safety

/-- A TKL.COEF that passes its early checks reads or releases. -/
theorem tklCoef_reads_or_releases {p : Packet} {s : State} (h : Accepted 0x0801 coefEarly p s) (noWrite : coefWrite (asOp 0x0801 p) = false) :
    let q := asOp 0x0801 p
    let r := if coefRead q then readGroups q (takenUp 0x0801 p s) else releaseGroups (takenUp 0x0801 p s)
    exec (.tklCoef p) s = .next (met s (answered 0x0801 p s r.2 r.1)) := by
  rw [exec_accepted (mk := .tklCoef) (fun _ _ => rfl) h, runCoef_no_write noWrite, runNow_accepted _ _ _ _ _ h.2]
  rfl

/-- A TKL.COEF whose records pass writes them. -/
theorem tklCoef_writes {p : Packet} {s : State} {bs : List PByte}
    (h : Accepted 0x0801 (fun s q => coefChecks s q (bs.map Prod.fst)) p s) :
    let q := asOp 0x0801 p
    let s0 := takenUp 0x0801 p s
    let c := issuerCtx s0 q.issuer
    coefWrite q = true → coefParam q = [] → vaRead s0 reachQueue c (dw q 6) (128 * tklCount q) = .ok bs → anyPoison bs = false →
    let r := writeGroups q (bs.map Prod.fst) (detectVa reachQueue c (dw q 6) bs.length s0)
    exec (.tklCoef p) s = .next (met s (answered 0x0801 p s r.2 r.1)) := by
  intro q s0 c write param read sound
  rw [exec_accepted (mk := .tklCoef) (fun _ _ => rfl) h, runCoef_write write param read sound, runNow_accepted _ _ _ _ _ h.2]
  rfl

theorem tklStepsize_scalar {p : Packet} {s : State} (h : Accepted 0x0802 (fun s p => stepsizeChecks s p []) p s) (scalar : stepScalar p = true) :
    let r := stepsizeEffect (scalarPairs p) p (takenUp 0x0802 p s)
    exec (.tklStepsize p) s = .next (met s (answered 0x0802 p s r.2 r.1)) := by
  rw [exec_accepted (mk := .tklStepsize) (fun _ _ => rfl) h, runStepsize_scalar (p := asOp 0x0802 p) scalar, runNow_accepted _ _ _ _ _ h.2]
  rfl

theorem tklStepsize_table {p : Packet} {s : State} {bs : List PByte}
    (h : Accepted 0x0802 (fun s q => stepsizeChecks s q (pairsOf bs)) p s) (table : stepScalar p = false) :
    let q := asOp 0x0802 p
    let s0 := takenUp 0x0802 p s
    let c := issuerCtx s0 q.issuer
    vaRead s0 reachHN c (dw q 8) (8 * tklCount q) = .ok bs → anyPoison bs = false →
    let r := stepsizeEffect (pairsOf bs) q (detectVa reachHN c (dw q 8) bs.length s0)
    exec (.tklStepsize p) s = .next (met s (answered 0x0802 p s r.2 r.1)) := by
  intro q s0 c read sound
  rw [exec_accepted (mk := .tklStepsize) (fun _ _ => rfl) h, runStepsize_table (p := q) table read sound, runNow_accepted _ _ _ _ _ h.2]
  rfl

/-- Settles O24: five commands whole in their step, the start of TKL.STEP, TKL.COEF and TKL.STEPSIZE by their forms, and the two steps of the chip. -/
theorem tackleCommandsComplete : Obligations.TackleCommandsComplete := by
  refine ⟨runsWhole_of_runNow fun _ _ => rfl, runsWhole_of_runNow fun _ _ => rfl, runsWhole_of_runNow fun _ _ => rfl,
    runsWhole_of_runNow fun _ _ => rfl, runsWhole_of_runNow fun _ _ => rfl, ?step, fun _ _ => tklCoef_reads_or_releases,
    ?coefWrite, fun _ _ => tklStepsize_scalar, ?block, fun _ _ _ => tklGroupDone_no_bitmap, fun _ _ _ _ => tklGroupDone_bitmap, ?table⟩
  case step =>
    intro p s h
    rw [exec_accepted (mk := .tklStep) (fun _ _ => rfl) h, runStep_accepted _ _ _ h.2]
  case coefWrite =>
    intro p s bs ready q s0 c write param read sound passes
    exact tklCoef_writes ⟨ready, passes⟩ write param read sound
  case block =>
    intro lane r s run left active free
    exact ⟨tklBlockUpdate_next run left active free true, tklBlockUpdate_next run left active free false⟩
  case table =>
    intro p s bs ready table q s0 c pairs read sound passes
    exact tklStepsize_table ⟨ready, passes⟩ table read sound

end Sys2Proof
end

section
/-! PROOFS. Flits, training and the faults of links (R326 to R331, R335, R353): what each event does where its conditions hold. -/

namespace Sys2Proof.Machine

/-! ## A link that is updated -/

theorem linkOf_updLink_self {l : Nat} {s : State} (listed : l < s.lnk.links.length) (f : Link → Link) : linkOf (updLink l f s) l = f (linkOf s l) := by
  simp [linkOf, List.getD_eq_getElem?_getD, List.getElem?_eq_getElem listed]

/-! ## Flits (R328 to R331, R335) -/

/-- The four types of flit, by their codes (R329). -/
theorem exec_flits (l : Nat) (f : List Byte) (s : State) :
    exec (.flitData l f) s = .next (onFlit l 0 f (inSequence l f (dataBody l f)) s)
    ∧ exec (.flitIdle l f) s = .next (onFlit l 1 f id s)
    ∧ exec (.flitNak l f) s = .next (onFlit l 2 f (nakBody l f) s)
    ∧ exec (.flitCreditAudit l f) s = .next (onFlit l 3 f (fun s => upIfAudited l (inSequence l f (auditBody l f) s)) s) :=
  ⟨rfl, rfl, rfl, rfl⟩

section
variable {l : Nat} {f : List Byte} {s : State}

/-- Where every type of flit comes to the same, so do the four commands. -/
theorem exec_flits_of_onFlit {t : State} (same : ∀ k body, onFlit l k f body s = t) :
    exec (.flitData l f) s = .next t ∧ exec (.flitIdle l f) s = .next t ∧ exec (.flitNak l f) s = .next t
      ∧ exec (.flitCreditAudit l f) s = .next t := by
  simp only [exec_flits, same, and_self]

theorem exec_flits_sound (opened : linkOpen s l = true) (crc : flitOk f = true) (rules : flitRules f = true) :
    let t := takeCredit l f (takeAck l (flitField f 99 88) s)
    (flitField f 87 85 = 0 → exec (.flitData l f) s = .next (resume l (inSequence l f (dataBody l f) t)))
    ∧ (flitField f 87 85 = 1 → exec (.flitIdle l f) s = .next (resume l t))
    ∧ (flitField f 87 85 = 2 → exec (.flitNak l f) s = .next (resume l (nakBody l f t)))
    ∧ (flitField f 87 85 = 3 → exec (.flitCreditAudit l f) s = .next (resume l (upIfAudited l (inSequence l f (auditBody l f) t)))) := by
  obtain ⟨data, idle, nak, audit⟩ := exec_flits l f s
  rw [data, idle, nak, audit]
  refine ⟨fun type => ?_, fun type => ?_, fun type => ?_, fun type => ?_⟩ <;>
    exact congrArg Host.Outcome.next (onFlit_sound opened crc rules type)

end

/-! ## Training (R326, R327, R331, R335) -/

/-- A link that is down or training is training once a training has begun. -/
theorem training_begun {l : Nat} {s : State} (listed : l < s.lnk.links.length) (notUp : (linkOf s l).state = .down ∨ (linkOf s l).state = .training) :
    (linkOf (updLink l (fun k => if k.state = .down then { firstBooks k with state := .training } else k) s) l).state = .training := by
  rw [linkOf_updLink_self listed]
  rcases notUp with down | training
  · rw [if_pos down]
  · rw [if_neg (by simp [training]), training]

theorem exec_flitTrain {l : Nat} {s : State} (dev : Option (BitVec 14)) (pl : BitVec 5) (bad : List Nat) (rtt : BitVec 10) (may : mayTrain s l = true)
    (listed : l < s.lnk.links.length) (notUp : (linkOf s l).state = .down ∨ (linkOf s l).state = .training) :
    let u := bad.foldl (fun s k => raiseEvent (sLANE l k) 1 .none false false s)
      (updLink l (fun k => if k.state = .down then { firstBooks k with state := .training } else k) s)
    exec (.flitTrain l dev pl bad rtt) s = .next (if fenced u (sL l) then u
      else lanesLocked l (sendTrain l (updLink l (fun k => { k with peerValid := true, peerDev := dev, peerLink := pl, rtt := rtt }) u))) := by
  intro u
  change execFlitTrain l dev pl bad rtt s = _
  simp only [execFlitTrain, may, training_begun listed notUp]
  rfl

theorem exec_linkRetrainEnd {l : Nat} {s : State} (training : (linkOf s l).state = .training) (unfenced : fenced s (sL l) = false) (ok : Bool) :
    exec (.linkRetrainEnd l ok) s = .next (if ok then lanesLocked l s
      else if (linkOf s l).attempts < 2 then updLink l (fun k => { k with attempts := k.attempts + 1 }) s else fenceLink l s) := by
  have third : 3 ≤ (linkOf s l).attempts + 1 ↔ ¬(linkOf s l).attempts < 2 := by omega
  change execLinkRetrainEnd l ok s = _
  simp only [execLinkRetrainEnd, training, unfenced, third, ite_not]
  rfl

/-! ## Faults (R326, R331) -/

theorem exec_frameAlignmentLoss {l : Nat} {s : State} (up : (linkOf s l).state = .up) :
    exec (.frameAlignmentLoss l) s = .next (evalLevels (retrain l s)) := congrArg _ (if_pos up)

theorem exec_laneSymbolLimit {l k : Nat} {s : State} (lane : k < 5) (link : l < 32) (used : (linkOf s l).state ≠ .down) :
    exec (.laneSymbolLimit l k) s = .next (raiseEvent (sLANE l k) 1 .none false false s) := congrArg _ (if_pos ⟨lane, link, used⟩)

end Sys2Proof.Machine

namespace Sys2Proof

open Machine

/-- Settles O53: what a flit comes to (sound, damaged, against the rules), then the events of training and the faults. -/
theorem linkEventsComplete : Obligations.LinkEventsComplete := by
  refine ⟨fun l f s opened => ⟨exec_flits_sound opened, ?damaged, ?unlawful⟩, fun _ dev pl bad rtt _ => exec_flitTrain dev pl bad rtt,
    fun _ _ training unfenced => ⟨exec_linkRetrainEnd training unfenced true, exec_linkRetrainEnd training unfenced false⟩,
    fun _ _ _ => ⟨exec_frameAlignmentLoss, exec_laneSymbolLimit⟩⟩
  case damaged => exact fun damaged => exec_flits_of_onFlit fun _ _ => onFlit_bad_crc opened damaged
  case unlawful => exact fun crc broken => exec_flits_of_onFlit fun _ _ => onFlit_bad_rules opened crc broken

end Sys2Proof
end

section
/-! PROOFS. XFR.WINDOW_GRANT and XFR.WINDOW_REVOKE: the entry of the window table that each sets (R341, R342, R365, R366). -/

namespace Sys2Proof.Machine

open Safety

@[simp] theorem takenUp_wins (op : Nat) (p : Packet) (s : State) : (takenUp op p s).wins = s.wins := by rw [takenUp_frame]

@[simp] theorem takenUp_lnk (op : Nat) (p : Packet) (s : State) : (takenUp op p s).lnk = s.lnk := by rw [takenUp_frame]

/-! ## The grant (R341) -/

/-- The epoch of an entry's next window: one more than at its last use. -/
def nextEpoch (w : Nat) (s : State) : Byte :=
  match kvGet w s.wins with
  | some x => x.epoch + 1
  | none => 0

theorem windowEffect_eq {p : Packet} {s : State} {w : Nat} (unarmed : s.str.armed = []) (free : freeWindowId s = some w) :
    windowEffect p s = ({ s with wins := kvSet w (grantedWindow s p (nextEpoch w s)) s.wins },
      okCnt (BitVec.ofNat 32 (w + (nextEpoch w s).toNat * 65536)) 0 0 0) := by
  have quiet := fireArmed_nothing_armed (s := { s with wins := kvSet w (grantedWindow s p (nextEpoch w s)) s.wins }) unarmed sDSP 3 (.window w)
  rw [windowEffect, free, Nat.mul_comm (2 ^ 16)]
  exact congrArg (Prod.mk · _) quiet

/-! ## The revoke (R342) -/

theorem updWindow_listed {s : State} {w : Nat} {x : Window} (listed : kvGet w s.wins = some x) (f : Window → Window) :
    updWindow w f s = { s with wins := kvSet w (f x) s.wins } := by rw [updWindow, listed]

/-- A revoke that passes its checks names a listed window. -/
theorem listed_of_revoke {s : State} {p : Packet} (passes : verdict (revokeChecks s p) = none) : ∃ x, kvGet (pf p 4 12 0) s.wins = some x := by
  obtain ⟨-, -, permission, -⟩ := (verdict_none _).1 passes
  have holds : holdsWindow s (issuerCtx s p.issuer) (pf p 4 12 0) = true := by simpa [revokeChecks, badIf] using permission
  unfold holdsWindow at holds
  split at holds
  · exact ⟨_, ‹_›⟩
  · contradiction

/-- The revoke under way, its window invalid. -/
def revoking (uid : Nat) (p : Packet) (x : Window) (s : State) : State :=
  { addJob (newJob s uid p (.revoke (pf p 4 12 0) 0)) s with wins := kvSet (pf p 4 12 0) { x with valid := false } s.wins }

section
variable {uid : Nat} {p : Packet} {s : State} {x : Window} (passes : verdict (revokeChecks s p) = none)
  (listed : kvGet (pf p 4 12 0) s.wins = some x)
include passes listed

theorem runRevoke_accepted :
    runRevoke uid p s
      = if windowHeld s (pf p 4 12 0) = [] then finish uid okRes (revoking uid p x s) else revoking uid p x s := by
  simp only [runRevoke, passes, List.isEmpty_iff]
  rw [updWindow_listed (s := addJob (newJob s uid p (.revoke (pf p 4 12 0) 0)) s) listed]
  rfl

/-- Only the packets and the window's entry change. -/
theorem runRevoke_frame :
    runRevoke uid p s
      = { s with jobs := (runRevoke uid p s).jobs, wins := kvSet (pf p 4 12 0) { x with valid := false } s.wins } := by
  rw [runRevoke_accepted passes listed]
  split <;> rfl

/-- The revoke waits while a request that the window accepted is unanswered. -/
theorem lastReply_runRevoke : lastReply (runRevoke uid p s) = some (uid, if windowHeld s (pf p 4 12 0) = [] then some okRes else none) := by
  rw [runRevoke_accepted passes listed]
  split
  · exact lastReply_finish _ rfl rfl rfl
  · exact lastReply_addJob ..

end

end Sys2Proof.Machine

namespace Sys2Proof

open Machine Safety

/-- What an accepted XFR.WINDOW_REVOKE leaves of the window table and of the packets. -/
theorem xfrWindowRevoke_accepted {p : Packet} {s : State} (h : Accepted 0x0321 revokeChecks p s) :
    let w := pf p 4 12 0
    let s0 := takenUp 0x0321 p s
    ∃ u, exec (.xfrWindowRevoke p) s = .next (met s u) ∧ u = { s0 with jobs := u.jobs, wins := u.wins }
      ∧ (kvGet w u.wins).map Window.valid = some false ∧ (∀ k, k ≠ w → kvGet k u.wins = kvGet k s.wins)
      ∧ lastReply u = some (packetNo 0x0321 p s, if windowHeld s w = [] then some okRes else none) := by
  intro w s0
  obtain ⟨x, listed⟩ := listed_of_revoke h.2
  have frame := runRevoke_frame (uid := packetNo 0x0321 p s) h.2 listed
  refine ⟨_, exec_accepted (fun _ _ => rfl) h, ?_, ?_, fun k other => ?_, ?_⟩
  · rw [frame]
  · rw [frame]
    exact congrArg _ (kvGet_kvSet_self ..)
  · rw [frame]
    exact (kvGet_kvSet_ne _ _ other).trans (by rw [takenUp_wins])
  · rw [lastReply_runRevoke h.2 listed, windowHeld, takenUp_lnk]
    rfl

/-- Settles O17: the grant whole in its step and what it leaves, then the revoke. -/
theorem windowCommandsComplete : Obligations.WindowCommandsComplete := by
  refine ⟨runsWhole_of_runNow fun _ _ => rfl, fun p s unarmed w free => ?_, fun p s h => xfrWindowRevoke_accepted h⟩
  change let r := windowEffect p s; let epoch := nextEpoch w s; _
  rw [windowEffect_eq unarmed free]
  exact ⟨kvGet_kvSet_self .., rfl, fun k other => kvGet_kvSet_ne _ _ other, rfl⟩

end Sys2Proof
end

section
/-! PROOFS. Writes of the host to BAR0, and the read of APERTURE (R336, R351, R482, R488, R490, R491, R493): where the BARs answer, each is its register's own write. -/

namespace Sys2Proof.Machine

/-! ## Sizes and places (R482) -/

theorem barAccessOk_iff (o n : Nat) : barAccessOk o n = true ↔ (n = 4 ∨ n = 8) ∧ o % n = 0 ∧ o + n ≤ 0x4000000 := by
  simp [barAccessOk, and_assoc]

theorem barStore_allowed {o n : Nat} {s : State} (v : DWord) (allowed : barAccessOk o n = true) :
    barStore o n v s = if n = 8 then barWrite8 o v s else barWrite o (lo32 v) s := by simp [barStore, allowed]

theorem barStore_eq (o n : Nat) (v : DWord) (s : State) :
    barStore o n v s
      = if (n = 4 ∨ n = 8) ∧ o % n = 0 ∧ o + n ≤ 0x4000000 then (if n = 8 then barWrite8 o v s else barWrite o (lo32 v) s)
        else badAccess s := by
  simp only [← barAccessOk_iff]
  cases allowed : barAccessOk o n <;> simp [barStore, allowed]

/-! ## IRQ_ENABLE (R488) -/

/-- A message is sent or held back, and nothing else changes. -/
theorem raiseMsix_frame (v : Nat) (s : State) :
    raiseMsix v s = { s with pci := { s.pci with out := (raiseMsix v s).pci.out, pending := (raiseMsix v s).pci.pending } } := by
  simp only [raiseMsix]
  split <;> rfl

/-- One bit of IRQ_ENABLE that meets its status bit raises the vector. -/
def raiseEnabled (e : BitVec 9) (s : State) (n : Nat) : State :=
  if e.getLsbD n && s.pci.irqStatus.getLsbD n then raiseMsix s.pci.irqVector.toNat s else s

/-- It changes what raising the vector changes. -/
theorem raiseEnabled_frame (e : BitVec 9) (s : State) (n : Nat) :
    raiseEnabled e s n
      = { s with pci := { s.pci with out := (raiseEnabled e s n).pci.out, pending := (raiseEnabled e s n).pci.pending } } := by
  unfold raiseEnabled
  split
  · exact raiseMsix_frame _ _
  · rfl

theorem foldl_raiseEnabled_frame (e : BitVec 9) (ns : List Nat) (s : State) :
    ns.foldl (raiseEnabled e) s
      = { s with pci := { s.pci with out := (ns.foldl (raiseEnabled e) s).pci.out, pending := (ns.foldl (raiseEnabled e) s).pci.pending } } := by
  induction ns generalizing s with
  | nil => rfl
  | cons n ns ih =>
    rw [List.foldl_cons, ih, raiseEnabled_frame]

/-- Where no enabled bit is set, nothing is sent. -/
theorem foldl_raiseEnabled_idle {e : BitVec 9} {s : State} (idle : e &&& s.pci.irqStatus = 0) (ns : List Nat) :
    ns.foldl (raiseEnabled e) s = s := by
  induction ns with
  | nil => rfl
  | cons n ns ih =>
    have clear : (e.getLsbD n && s.pci.irqStatus.getLsbD n) = false := by
      rw [← BitVec.getLsbD_and, idle, BitVec.ofNat_eq_ofNat, BitVec.getLsbD_zero]
    rw [List.foldl_cons, raiseEnabled, clear]
    exact ih

theorem writeIrqEnable_eq (v : Word) (s : State) :
    writeIrqEnable v s = (List.range 9).foldl (raiseEnabled (v.setWidth 9)) { s with pci := { s.pci with irqEnable := v.setWidth 9 } } := rfl

theorem barWrite_irqEnable (v : Word) (s : State) : barWrite 0x1004 v s = writeIrqEnable v s := rfl

theorem barWrite_deviceId (v : Word) (s : State) : barWrite 0x8000 v s = setDeviceId (v.setWidth 14) s := rfl

/-! ## APERTURE (R491) -/

/-- The low bytes of a number, then those above them. -/
theorem leBytes_add (m n v : Nat) : leBytes m v ++ leBytes n (v / 256 ^ m) = leBytes (m + n) v := by
  induction m generalizing v with
  | zero => simp [leBytes]
  | succ m ih =>
    rw [Nat.add_right_comm, leBytes, leBytes, List.cons_append, Nat.pow_succ', ← Nat.div_div_eq_div_mul, ih]

/-- n bytes spell a number modulo 256^n. -/
theorem leBytes_mod (n v : Nat) : leBytes n (v % 256 ^ n) = leBytes n v := by
  induction n generalizing v with
  | zero => rfl
  | succ n ih =>
    have low : BitVec.ofNat 8 (v % (256 * 256 ^ n)) = BitVec.ofNat 8 v := BitVec.eq_of_toNat_eq (Nat.mod_mul_right_mod v 256 (256 ^ n))
    rw [Nat.pow_succ', leBytes, leBytes, low, Nat.mod_mul_right_div_self, ih]

/-- The two halves of APERTURE as they are read: of BASE · 2^30, modulo 2^64. -/
theorem barRead_aperture (s : State) :
    (barRead s 0xA000).toNat = 2 ^ 30 * s.pci.base % 256 ^ 4 ∧ (barRead s 0xA004).toNat = 2 ^ 30 * s.pci.base / 256 ^ 4 % 256 ^ 4 := by
  constructor
  · change 2 ^ 30 * s.pci.base % 2 ^ 32 % 2 ^ 32 = _
    exact Nat.mod_mod _ _
  · rfl

theorem apertureRead_bytes (s : State) :
    leBytes 4 (barRead s 0xA000).toNat ++ leBytes 4 (barRead s 0xA004).toNat = leBytes 8 (s.pci.base % 2 ^ 34 * 2 ^ 30) := by
  obtain ⟨low, high⟩ := barRead_aperture s
  have whole : s.pci.base % 2 ^ 34 * 2 ^ 30 = 2 ^ 30 * s.pci.base % 256 ^ 8 := by omega
  rw [low, high, whole, leBytes_mod, leBytes_mod, leBytes_mod, leBytes_add]

section
variable {s : State} (up : barUp s = true)
include up

theorem exec_regWrite (o n : Nat) (v : DWord) : exec (.regWrite o n v) s = .next (sentTlp s (barStore o n v s)) :=
  congrArg Host.Outcome.next (hostAccess_up up)

theorem exec_routingWrite {o n : Nat} (v : DWord) (low : 0x100000 ≤ o) (high : o < 0x108000) :
    exec (.routingWrite o n v) s = .next (met s (barStore o n v s)) := by
  change execRoutingWrite o n v s = _
  rw [execRoutingWrite, if_pos ⟨low, high⟩, hostAccess_up up]

theorem exec_apertureWrite {o n : Nat} (v : DWord) (base : o / 8 * 8 = 0xA000) : exec (.apertureWrite o n v) s = .next (barStore o n v s) := by
  change execApertureWrite o n v s = _
  rw [execApertureWrite, if_pos base, hostAccess_up up]

theorem exec_apertureRead (unarmed : s.str.armed = []) :
    exec .apertureRead s
      = .next { s with pci := { s.pci with out := s.pci.out ++ [.completion (leBytes 8 (s.pci.base % 2 ^ 34 * 2 ^ 30)) false] } } := by
  change execApertureRead s = _
  rw [execApertureRead, hostAccess_up up, apertureRead_bytes, sentTlp_nothing_armed (by exact unarmed)]
  rfl

theorem exec_deviceIdWrite (v : Word) : exec (.deviceIdWrite v) s = .next (setDeviceId (v.setWidth 14) s) := by
  change execDeviceIdWrite v s = _
  rw [execDeviceIdWrite, hostAccess_up up, barWrite_deviceId]

theorem exec_irqEnableWrite (v : Word) (unarmed : s.str.armed = []) : exec (.irqEnableWrite v) s = .next (writeIrqEnable v s) := by
  change execIrqEnableWrite v s = _
  have still : (writeIrqEnable v s).str.armed = [] := by
    rw [writeIrqEnable_eq, foldl_raiseEnabled_frame]
    exact unarmed
  rw [execIrqEnableWrite, hostAccess_up up, barWrite_irqEnable, sentTlp_nothing_armed still]

end

end Sys2Proof.Machine

namespace Sys2Proof

open Machine

/-- Settles O39: the register writes by their sizes and places, then APERTURE, DEVICE_ID and IRQ_ENABLE by their own commands. -/
theorem hostRegisterWritesComplete : Obligations.HostRegisterWritesComplete := by
  refine ⟨fun o n v s up => ?_, fun o n v s up low high allowed => ?_, fun o n v s up base allowed => ?_, fun s up => exec_apertureRead up,
    fun v s up => exec_deviceIdWrite up v, fun v s up unarmed => ?_⟩
  · rw [exec_regWrite up, barStore_eq]
    rfl
  · rw [exec_routingWrite up v low high, barStore_allowed v allowed]
  · rw [exec_apertureWrite up v base, barStore_allowed v allowed]
  · refine ⟨_, exec_irqEnableWrite up v unarmed, ?_⟩
    rw [writeIrqEnable_eq]
    refine ⟨?_, ?_, ?_, fun idle => foldl_raiseEnabled_idle (by exact idle) _⟩ <;> rw [foldl_raiseEnabled_frame]

end Sys2Proof
end

section
/-! PROOFS. Taking a delivered message out of its receiver (R330, R333, R407): the IDLE flits that return its units meet an injection armed on a lane, so more than the links changes. -/

namespace Sys2Proof.Machine

/-- A WINDOW_REVOKE of 32 bytes that has arrived on link 0. -/
def arrivedRevoke : Arrival := { link := 0, vc := 0, localOnly := false, bytes := 4 :: List.replicate 31 0 }

/-- A started module whose link 0 is up and has delivered one message, and a DATA injection is armed on its lane 0. -/
def injectedLink : State :=
  { State.reset with
    lnk := { State.reset.lnk with links := setAt 0 (fun k => { k with state := .up }) State.reset.lnk.links, inbox := [arrivedRevoke] }
    str := { State.reset.str with phasesDone := 8, armed := [(strandId (sLANE 0 0), 0)] } }

/-- The first of the four IDLE flits that return the message's units uses the injection up (R330, R396, R407). -/
theorem takeArrival_fires_lane : (takeArrival 0 0 arrivedRevoke.bytes injectedLink).map (fun r => r.2.str.armed) = some [] := by decide +kernel

end Sys2Proof.Machine

namespace Sys2Proof

open Machine

/-- Refutes O52: returning a message's units sends IDLE flits, and the first of them uses up the injection that is armed on a lane of its link; this is state of the strands, not of the links. -/
theorem not_messagesComplete : ¬ Obligations.MessagesComplete := by
  rintro ⟨-, takes, -⟩
  obtain ⟨⟨a, t⟩, taken, fired⟩ := Option.map_eq_some_iff.1 takeArrival_fires_lane
  obtain ⟨links, -⟩ := takes 0 0 arrivedRevoke.bytes a injectedLink t taken
  have kept : t.str = injectedLink.str := by rw [links]
  rw [kept] at fired
  exact absurd fired (by decide)

end Sys2Proof
end

section
/-! PROOFS. One step of the machine (log 1). -/

namespace Sys2Proof.Machine

/-- The front command leaves the queue and is carried out. -/
theorem step_front (c : Instr) (s : State) : step { s with pending := c :: s.pending } = exec c s := rfl

/-- Without a command that waits, the step idles (log 1). -/
theorem step_idle {s : State} (none_waits : s.pending = []) : step s = .next s := by rw [step, none_waits]

end Sys2Proof.Machine

namespace Sys2Proof

open Machine

/-- Settles O1: the step's own two cases. -/
theorem stepRunsTheFrontCommand : Obligations.StepRunsTheFrontCommand := ⟨step_front, fun _ none_waits => step_idle none_waits⟩

end Sys2Proof
end

section
/-! PROOFS. STR.SERVICE (R382): the reply's link map, bit by bit, and the frame of the command. -/

namespace Sys2Proof.Machine

open Safety

/-- The powers of two of some numbers below n add up to less than 2^n. -/
theorem sum_powers_lt (f : Nat → Bool) (n : Nat) : ((List.range n).map fun l => if f l then 2 ^ l else 0).sum < 2 ^ n := by
  induction n with
  | zero => simp
  | succ n ih =>
    rw [List.range_succ, List.map_append, List.sum_append, Nat.pow_succ]
    have last : (if f n then 2 ^ n else 0) ≤ 2 ^ n := by split <;> simp
    simp only [List.map_cons, List.map_nil, List.sum_cons, List.sum_nil]
    omega

/-- A sum of powers of two has the bits of the numbers it names. -/
theorem testBit_sum_powers (f : Nat → Bool) {n l : Nat} (h : l < n) :
    (((List.range n).map fun l => if f l then 2 ^ l else 0).sum).testBit l = f l := by
  induction n with
  | zero => omega
  | succ n ih =>
    have small := sum_powers_lt f n
    rw [List.range_succ, List.map_append, List.sum_append, Nat.add_comm]
    simp only [List.map_cons, List.map_nil, List.sum_cons, List.sum_nil, Nat.add_zero]
    cases here : f n with
    | false =>
      rcases Nat.lt_succ_iff_lt_or_eq.1 h with lower | rfl
      · simpa using ih lower
      · simpa [here] using Nat.testBit_lt_two_pow small
    | true =>
      rcases Nat.lt_succ_iff_lt_or_eq.1 h with lower | rfl
      · simpa [Nat.testBit_two_pow_add_gt lower] using ih lower
      · simp [Nat.testBit_two_pow_add_eq, Nat.testBit_lt_two_pow small, here]

/-- Bit n of the link map is 1 exactly where link n is UP. -/
theorem linksUp_bit {l : Nat} (s : State) (h : l < 32) : (BitVec.ofNat 32 (linksUp s)).getLsbD l = decide (linkStateCode s l = 2) := by
  have bits := testBit_sum_powers (fun l => decide (linkStateCode s l = 2)) h
  simp only [decide_eq_true_eq] at bits
  rw [BitVec.getLsbD_ofNat, linksUp, bits, decide_eq_true h, Bool.true_and]

/-- The reply of STR.SERVICE. -/
def serviceReply (s : State) : Result :=
  okCnt (s.str.held.setWidth 32) s.arr.shapeReg (BitVec.ofNat 32 (memStatus s)) (BitVec.ofNat 32 (linksUp s))

theorem strService_runsWhole :
    RunsWhole .strService 0x0A07 (fun s p => { noChecks with permission := ctx0Only s p }) (fun _ s => (s, serviceReply s)) :=
  runsWhole_of_runNow fun _ _ => rfl

@[simp] theorem takenUp_arr (op : Nat) (p : Packet) (s : State) : (takenUp op p s).arr = s.arr := by rw [takenUp_frame]

end Sys2Proof.Machine

namespace Sys2Proof

open Machine Safety

/-- Settles O28: the command runs whole, its effect leaves the state as it is, and its counters are those of R382. -/
theorem serviceReportsAndChangesNothing : Obligations.ServiceReportsAndChangesNothing := by
  intro p s h s0
  refine ⟨answered 0x0A07 p s (serviceReply s0) s0, serviceReply s0, strService_runsWhole p s h, rfl, lastReply_addJob _ _, rfl, ?_, ?_, rfl,
    fun l hl => linksUp_bit s0 hl⟩
  · change s0.str.held.setWidth 32 = _
    rw [takenUp_str]
  · change s0.arr.shapeReg = _
    rw [takenUp_arr]

end Sys2Proof
end

section
/-! PROOFS. The LOG and SEC commands (R381, R383, R449, R450, R454, R473, R475, R476): whole in a step, with data, or a staging. -/

namespace Sys2Proof.Machine

open Safety

/-- An accepted command with data is answered with its effect's result and holds the data it gives after the reply (R358). -/
theorem exec_givesData {mk : Packet → Instr} {op : Nat} {checks : State → Packet → Checks} {effect : Packet → State → State × Result × List Byte}
    (takes : ∀ p s, exec (mk p) s = .next (met s (takeUp op (runNowData checks effect) p s))) {p : Packet} {s : State}
    (h : Accepted op checks p s) :
    exec (mk p) s = .next (met s (addJob
      { newJob (takenUp op p s) (packetNo op p s) (asOp op p) .finished with
        res := some (effect (asOp op p) (takenUp op p s)).2.1, data := (effect (asOp op p) (takenUp op p s)).2.2 }
      (effect (asOp op p) (takenUp op p s)).1)) := by
  rw [exec_accepted takes h, runNowData_accepted _ _ _ _ _ h.2]

/-- The result of a staging: the slot and the image's version, or that it did not read back (R473). -/
def stageResult (ok : Bool) (img : List Byte) (s : State) : Result :=
  if ok then okCnt (BitVec.ofNat 32 (bnat (spareSlot s.fw))) (BitVec.ofNat 32 (imageVersion img)) 0 0 else resOf stFLT_CHECK

@[simp] theorem takenUp_fw (op : Nat) (p : Packet) (s : State) : (takenUp op p s).fw = s.fw := by rw [takenUp_frame]

/-- Taking the packet up leaves the firmware slots as they are, and with them the result. -/
theorem stageResult_takenUp (ok : Bool) (img : List Byte) (op : Nat) (p : Packet) (s : State) :
    stageResult ok img (takenUp op p s) = stageResult ok img s := by
  rw [stageResult, takenUp_fw, stageResult]

/-- An accepted staging of an image that can be read writes it to the spare slot, under the packet's number (R473). -/
theorem runStage_accepted {ok : Bool} {uid : Nat} {p : Packet} {s : State} {bs : List PByte} (h : verdict (stageChecks s p) = none)
    (read : stageImage s p = some bs) :
    runStage ok uid p s
      = addJob { newJob s uid p .finished with res := some (stageResult ok (bs.map Prod.fst) s) }
          (writeSlot (bs.map Prod.fst) ok { s with fw := { s.fw with staging := .fwStage uid } }) := by
  rw [runStage, h, read]
  rfl

end Sys2Proof.Machine

namespace Sys2Proof

open Machine Safety

/-- Settles O29: three commands run whole, three give data, and SEC.FW_STAGE writes the spare slot. -/
theorem logAndSecurityCommandsComplete : Obligations.LogAndSecurityCommandsComplete := by
  refine ⟨runsWhole_of_runNow fun _ _ => rfl, runsWhole_of_runNow fun _ _ => rfl, fun p s h => exec_givesData (fun _ _ => rfl) h,
    fun p s h => exec_givesData (fun _ _ => rfl) h, fun p s h => exec_givesData (fun _ _ => rfl) h, runsWhole_of_runNow fun _ _ => rfl,
    fun p ok s bs h => ?_⟩
  intro s0 q img read _
  rw [exec_accepted (mk := fun p => .secFwStage p ok) (run := runStage ok) (fun _ _ => rfl) h, runStage_accepted h.2 read,
    stageResult_takenUp]
  rfl

end Sys2Proof
end

section
/-! PROOFS. The two firmware slots (R472, R473): what staging and activating make of each of them. -/

namespace Sys2Proof.Machine

@[simp] theorem logRec_fw (r : LogRec) (s : State) : (logRec r s).fw = s.fw := by rw [logRec_frame]

/-! ## One slot, and the other -/

@[simp] theorem slotOf_setSlot (b c : Bool) (img : List Byte) (fw : Fw) : slotOf (setSlot b img fw) c = if c = b then img else slotOf fw c := by
  cases b <;> cases c <;> rfl

@[simp] theorem slotOf_setConfirmed (b c v : Bool) (fw : Fw) : slotOf (setConfirmed b v fw) c = slotOf fw c := by cases b <;> rfl

@[simp] theorem slotOf_setVerified (b c v : Bool) (fw : Fw) : slotOf (setVerified b v fw) c = slotOf fw c := by cases b <;> rfl

@[simp] theorem slotConfirmed_setSlot (b c : Bool) (img : List Byte) (fw : Fw) : slotConfirmed (setSlot b img fw) c = slotConfirmed fw c := by
  cases b <;> rfl

@[simp] theorem slotConfirmed_setConfirmed (b c v : Bool) (fw : Fw) :
    slotConfirmed (setConfirmed b v fw) c = if c = b then v else slotConfirmed fw c := by
  cases b <;> cases c <;> rfl

@[simp] theorem slotConfirmed_setVerified (b c v : Bool) (fw : Fw) : slotConfirmed (setVerified b v fw) c = slotConfirmed fw c := by
  cases b <;> rfl

@[simp] theorem slotVerified_setVerified (b c v : Bool) (fw : Fw) :
    slotVerified (setVerified b v fw) c = if c = b then v else slotVerified fw c := by
  cases b <;> cases c <;> rfl

@[simp] theorem setSlot_runB (b : Bool) (img : List Byte) (fw : Fw) : (setSlot b img fw).runB = fw.runB := by cases b <;> rfl

@[simp] theorem setConfirmed_runB (b v : Bool) (fw : Fw) : (setConfirmed b v fw).runB = fw.runB := by cases b <;> rfl

@[simp] theorem setVerified_runB (b v : Bool) (fw : Fw) : (setVerified b v fw).runB = fw.runB := by cases b <;> rfl

/-! ## Staging -/

/-- The slots after the image was written to the spare one. -/
def stagedFw (img : List Byte) (ok : Bool) (fw : Fw) : Fw :=
  setVerified (spareSlot fw) ok (setConfirmed (spareSlot fw) false (setSlot (spareSlot fw) (if ok then img else []) fw))

theorem writeSlot_fw (img : List Byte) (ok : Bool) (s : State) :
    (writeSlot img ok s).fw
      = { stagedFw img ok s.fw with
          prefB := if (stagedFw img ok s.fw).prefB = spareSlot s.fw then (stagedFw img ok s.fw).runB else (stagedFw img ok s.fw).prefB } := by
  cases ok
  · rfl
  · exact logRec_fw _ _

/-- Staging changes the slots, and the log with the port that announces its record. -/
theorem writeSlot_frame (img : List Byte) (ok : Bool) (s : State) :
    writeSlot img ok s = { s with fw := (writeSlot img ok s).fw, log := (writeSlot img ok s).log, mgt := (writeSlot img ok s).mgt } := by
  cases ok
  · rfl
  · rw [writeSlot, if_pos rfl, logRec_frame]

theorem slotOf_writeSlot (img : List Byte) (ok c : Bool) (s : State) :
    slotOf (writeSlot img ok s).fw c = if c = spareSlot s.fw then (if ok then img else []) else slotOf s.fw c := by
  rw [writeSlot_fw]
  change slotOf (stagedFw img ok s.fw) c = _
  simp [stagedFw]

theorem slotConfirmed_writeSlot (img : List Byte) (ok c : Bool) (s : State) :
    slotConfirmed (writeSlot img ok s).fw c = if c = spareSlot s.fw then false else slotConfirmed s.fw c := by
  rw [writeSlot_fw]
  change slotConfirmed (stagedFw img ok s.fw) c = _
  simp [stagedFw]

theorem slotVerified_writeSlot (img : List Byte) (ok : Bool) (s : State) : slotVerified (writeSlot img ok s).fw (spareSlot s.fw) = ok := by
  rw [writeSlot_fw]
  change slotVerified (stagedFw img ok s.fw) (spareSlot s.fw) = _
  simp [stagedFw]

@[simp] theorem stagedFw_runB (img : List Byte) (ok : Bool) (fw : Fw) : (stagedFw img ok fw).runB = fw.runB := by simp [stagedFw]

@[simp] theorem writeSlot_runB (img : List Byte) (ok : Bool) (s : State) : (writeSlot img ok s).fw.runB = s.fw.runB := by
  rw [writeSlot_fw]
  exact stagedFw_runB img ok s.fw

/-- A slot that was preferred before is the running one from now on: the spare slot is never left preferred (R473). -/
theorem writeSlot_prefB (img : List Byte) (ok : Bool) (s : State) : (writeSlot img ok s).fw.prefB ≠ spareSlot s.fw := by
  rw [writeSlot_fw]
  by_cases preferred : (stagedFw img ok s.fw).prefB = spareSlot s.fw
  · simp [preferred, spareSlot]
  · simpa only [if_neg preferred] using preferred

/-! ## Activating -/

/-- The slots with one preferred. -/
def activatedFw (b : Bool) (fw : Fw) : Fw :=
  if b = fw.runB then { fw with prefB := b } else { setConfirmed b false { fw with prefB := b } with tries := 3 }

@[simp] theorem activateSlot_fw (b : Bool) (s : State) : (activateSlot b s).fw = activatedFw b s.fw := by
  rw [activateSlot, logRec_fw]
  rfl

theorem activateSlot_frame (b : Bool) (s : State) :
    activateSlot b s = { s with fw := (activateSlot b s).fw, log := (activateSlot b s).log, mgt := (activateSlot b s).mgt } := by
  rw [activateSlot, logRec_frame]

theorem activatedFw_running {b : Bool} {fw : Fw} (running : b = fw.runB) : activatedFw b fw = { fw with prefB := b } := if_pos running

theorem activatedFw_spare {b : Bool} {fw : Fw} (spare : b ≠ fw.runB) :
    activatedFw b fw = { setConfirmed b false { fw with prefB := b } with tries := 3 } := if_neg spare

@[simp] theorem activatedFw_prefB (b : Bool) (fw : Fw) : (activatedFw b fw).prefB = b := by
  unfold activatedFw
  split
  · rfl
  · cases b <;> rfl

@[simp] theorem slotOf_activatedFw (b c : Bool) (fw : Fw) : slotOf (activatedFw b fw) c = slotOf fw c := by
  unfold activatedFw
  split
  · rfl
  · cases b <;> rfl

end Sys2Proof.Machine

namespace Sys2Proof

open Machine

/-- Settles O30: staging by what it makes of the spare slot and of the running one, activating by whether the slot runs. -/
theorem firmwareSlotEffects : Obligations.FirmwareSlotEffects := by
  intro img ok b s w a spare
  have activated : a.fw = activatedFw b s.fw := activateSlot_fw b s
  have running : ¬ (!spare) = spare := by cases spare <;> simp
  refine ⟨(slotOf_writeSlot ..).trans (if_pos rfl), slotVerified_writeSlot .., (slotConfirmed_writeSlot ..).trans (if_pos rfl),
    (slotOf_writeSlot ..).trans (if_neg running), (slotConfirmed_writeSlot ..).trans (if_neg running), writeSlot_prefB img ok s,
    writeSlot_runB img ok s, writeSlot_frame img ok s, ?_, fun other => ?_, fun runs => ?_, ?_, ?_, activateSlot_frame b s⟩ <;> rw [activated]
  · exact activatedFw_prefB b s.fw
  · rw [activatedFw_spare other]
    exact ⟨rfl, by cases b <;> rfl⟩
  · rw [activatedFw_running runs]
  · exact slotOf_activatedFw b true s.fw
  · exact slotOf_activatedFw b false s.fw

end Sys2Proof
end

section
/-! PROOFS. Token buckets (R447, R448): what a refill writes and what the bucket becomes. -/

namespace Sys2Proof.Machine

@[simp] theorem bucketOf_kvSet_self (code : Nat) (b : Bucket) (l : Log) (s : State) :
    bucketOf { s with log := { l with buckets := kvSet code b s.log.buckets } } code = b := kvGetD_kvSet_self ..

@[simp] theorem bucketOf_kvSet_ne {code k : Nat} (b : Bucket) (l : Log) (s : State) (other : k ≠ code) :
    bucketOf { s with log := { l with buckets := kvSet code b s.log.buckets } } k = bucketOf s k := by
  simp [bucketOf, kvGetD_kvSet_ne _ _ _ other]

/-- A record goes to the buffer or is counted as dropped; the buckets stay as they are. -/
theorem bufferRec_frame (r : LogRec) (s : State) :
    bufferRec r s = { s with log := { s.log with buffer := (bufferRec r s).log.buffer, dropped := (bufferRec r s).log.dropped } } := by
  simp only [bufferRec]
  repeat' split
  all_goals rfl

/-- A record of an exempt code that is no event passes no bucket and is buffered, and that is all (R449). -/
theorem logRec_exempt {r : LogRec} {s : State} (logs : logAlive s = true) (exempt : exemptCodes.contains r.code = true)
    (quiet : isEvent r = false) : logRec r s = bufferRec r s := by
  rw [logRec, if_neg (by simp [logs]), if_pos exempt]
  simp [quiet]

/-- The record of what a code's bucket has suppressed since its last summary. -/
def summaryRec (code : Nat) (s : State) : LogRec :=
  { mkRec 0x0002 0 (bucketOf s code).lastStrand (sat32 (bucketOf s code).suppressed) code with summary := true }

/-- The bucket with its token, its count cleared, its next period begun at the end of the last whole one (R447). -/
def refilled (code : Nat) (s : State) : Bucket :=
  let b := bucketOf s code
  { b with tokens := min b.burst (b.tokens + 1), suppressed := 0
           since := b.since + BitVec.ofNat 32 (refillAge s b / refillMs b * refillMs b) }

theorem isEvent_summaryRec (code : Nat) (s : State) : isEvent (summaryRec code s) = false := rfl

/-- The log before the bucket is set: with the summary where the bucket has suppressed records. -/
def summarised (code : Nat) (s : State) : Log := if (bucketOf s code).suppressed = 0 then s.log else (bufferRec (summaryRec code s) s).log

theorem summarised_buckets (code : Nat) (s : State) : (summarised code s).buckets = s.log.buckets := by
  unfold summarised
  split
  · rfl
  · rw [bufferRec_frame]

/-- A refill writes the summary where one is due, and sets the bucket. -/
theorem refillBucket_eq {code : Nat} {s : State} (logs : logAlive s = true) :
    refillBucket code s = { s with log := { summarised code s with buckets := kvSet code (refilled code s) s.log.buckets } } := by
  by_cases none : (bucketOf s code).suppressed = 0
  · simp only [refillBucket, summarised, if_pos none]
    rfl
  · simp only [refillBucket, summarised, if_neg none]
    rw [← summaryRec, logRec_exempt logs rfl (isEvent_summaryRec code s), bufferRec_frame]
    rfl

end Sys2Proof.Machine

namespace Sys2Proof

open Machine

/-- Settles O48: the refill by the log that it leaves before the bucket is set. -/
theorem suppressedRecordsAreSummarised : Obligations.SuppressedRecordsAreSummarised := by
  intro code s logs b r next b'
  refine ⟨summarised code s, refillBucket_eq logs, ?_, summarised_buckets code s⟩
  by_cases none : b.suppressed = 0
  · rw [if_pos none]
    exact if_pos none
  · rw [if_neg none]
    exact if_neg none

end Sys2Proof
end

section
/-! PROOFS. The ticks of time and the Logline program step (R441, R443, R444, R451, R452). -/

namespace Sys2Proof.Machine

/-! ## The record area -/

/-- A filter by key keeps the entries of the keys it lets pass. -/
theorem kvGet_filter {α : Type} {f : Nat × α → Bool} {k : Nat} {t : KV α} (passes : ∀ v, f (k, v) = true) : kvGet k (t.filter f) = kvGet k t := by
  induction t with
  | nil => rfl
  | cons a t ih =>
    obtain ⟨j, v⟩ := a
    by_cases here : j = k
    · subst here
      simp [passes v, kvGet]
    · cases kept : f (j, v) <;> simp [kept, kvGet, here, ih]

@[simp] theorem areaPut_writer (rec : List Byte) (l : Log) : (areaPut rec l).writer = (l.writer + 1) % 524288 := by
  unfold areaPut
  split <;> rfl

@[simp] theorem areaPut_dropped (rec : List Byte) (l : Log) : (areaPut rec l).dropped = l.dropped := by
  unfold areaPut
  split <;> rfl

/-- The slot at the writer holds the record that was put. -/
theorem areaPut_own (rec : List Byte) (l : Log) : kvGet l.writer (areaPut rec l).area = some rec := by
  unfold areaPut
  split <;> exact kvGet_kvSet_self ..

/-- A slot that is neither the writer's nor in the sector erased ahead of it keeps its record (R443). -/
theorem areaPut_other {rec : List Byte} {l : Log} {k : Nat} (other : k ≠ l.writer)
    (apart : l.writer % 128 = 0 → k < (l.writer + 128) % 524288 ∨ (l.writer + 128) % 524288 + 128 ≤ k) :
    kvGet k (areaPut rec l).area = kvGet k l.area := by
  unfold areaPut
  split
  · rename_i sector
    refine (kvGet_kvSet_ne _ _ other).trans (kvGet_filter fun _ => ?_)
    have outside := apart sector
    change (!(decide ((l.writer + 128) % 524288 ≤ k) && decide (k < (l.writer + 128) % 524288 + 128))) = true
    simp only [Bool.not_eq_true', Bool.and_eq_false_imp, decide_eq_true_eq, decide_eq_false_iff_not]
    omega
  · exact kvGet_kvSet_ne _ _ other

/-- The oldest buffered record takes two slots where its continuation follows it (R441). -/
theorem headSlots_cons (r : List Byte) (rest : List (List Byte)) :
    headSlots (r :: rest) = if rest.head?.map (leAt 0 2) = some 1 then 2 else 1 := by
  cases rest with
  | nil => rfl
  | cons c rest => simp [headSlots]

/-- With nothing dropped no LOG_LOST is due (R444). -/
theorem noteLost_none {s : State} (none : s.log.dropped = 0) : noteLost s = s := by rw [noteLost, if_pos none]

/-- One slot programmed: the record at the writer. -/
theorem programSlots_one {s : State} {r : List Byte} {rest : List (List Byte)} (listed : s.log.buffer = r :: rest) (none : s.log.dropped = 0) :
    programSlots 1 s = { s with log := { areaPut r s.log with buffer := rest } } := by
  simp only [programSlots, listed, List.take_succ_cons, List.take_zero, List.foldl_cons, List.foldl_nil, List.drop_succ_cons, List.drop_zero]
  exact noteLost_none ((areaPut_dropped r s.log).trans none)

/-- Two slots programmed: the record and its continuation. -/
theorem programSlots_two {s : State} {r c : List Byte} {rest : List (List Byte)} (listed : s.log.buffer = r :: c :: rest)
    (none : s.log.dropped = 0) :
    programSlots 2 s = { s with log := { areaPut c (areaPut r s.log) with buffer := rest } } := by
  simp only [programSlots, listed, List.take_succ_cons, List.take_zero, List.foldl_cons, List.foldl_nil, List.drop_succ_cons, List.drop_zero]
  exact noteLost_none (by simp [none])

/-- A record and its continuation stand in the two slots from the writer on, wherever a sector begins. -/
theorem areaPut_twice (r c : List Byte) (l : Log) :
    kvGet l.writer (areaPut c (areaPut r l)).area = some r := by
  have next := areaPut_writer r l
  rw [areaPut_other (by omega) (by omega), areaPut_own]

/-! ## The commands -/

theorem exec_uptimeMsTick (s : State) :
    exec .uptimeMsTick s
      = .next (if clockRuns s = true then
          advance { s with clk := { s.clk with uptimeMs := s.clk.uptimeMs + 1, msToSecond := s.clk.msToSecond + 1 } }
        else s) := rfl

theorem exec_opSecondsTick (s : State) :
    exec .opSecondsTick s
      = .next (if clockRuns s = true ∧ 1000 ≤ s.clk.msToSecond then
          { s with clk := { s.clk with opSeconds := s.clk.opSeconds + 1, msToSecond := s.clk.msToSecond - 1000
                                       secToPersist := s.clk.secToPersist + 1 } }
        else s) := by
  change execOpSecondsTick s = _
  simp only [execOpSecondsTick, Bool.and_eq_true, decide_eq_true_eq]

theorem exec_opSecondsPersist (s : State) :
    exec .opSecondsPersist s = .next (if logAlive s = true ∧ 60 ≤ s.clk.secToPersist then persistTime s else s) := by
  change execOpSecondsPersist s = _
  simp only [execOpSecondsPersist, Bool.and_eq_true, decide_eq_true_eq]

theorem exec_logProgram {s : State} {r : List Byte} {rest : List (List Byte)} (logs : logAlive s = true) (listed : s.log.buffer = r :: rest) :
    exec .logProgram s = .next (programSlots (if rest.head?.map (leAt 0 2) = some 1 then 2 else 1) s) := by
  change execLogProgram s = _
  simp [execLogProgram, logs, listed, programOne, headSlots_cons]

theorem exec_logProgram_idle {s : State} (idle : logAlive s = false ∨ s.log.buffer = []) : exec .logProgram s = .next s := by
  change execLogProgram s = _
  rcases idle with off | empty
  · simp [execLogProgram, off]
  · simp [execLogProgram, empty]

theorem exec_logTokenRefill_early {code : BitVec 16} {s : State} (early : refillAge s (bucketOf s code.toNat) < refillMs (bucketOf s code.toNat)) :
    exec (.logTokenRefill code) s = .next s := by
  change execLogTokenRefill code s = _
  simp [execLogTokenRefill, Nat.not_le.2 early]

theorem exec_logTokenRefill_due {code : BitVec 16} {s : State} (logs : logAlive s = true) (defined : definedCodes.contains code.toNat = true)
    (limited : exemptCodes.contains code.toNat = false) (due : refillMs (bucketOf s code.toNat) ≤ refillAge s (bucketOf s code.toNat)) :
    exec (.logTokenRefill code) s = .next (refillBucket code.toNat s) := by
  change execLogTokenRefill code s = _
  rw [execLogTokenRefill, logs, defined, limited, decide_eq_true due]
  rfl

end Sys2Proof.Machine

namespace Sys2Proof

open Machine

/-- Settles O47: each tick by its own command; the program step by the one slot or the two that the oldest record takes. -/
theorem timeAndLogTicksComplete : Obligations.TimeAndLogTicksComplete := by
  refine ⟨exec_uptimeMsTick, exec_opSecondsTick, exec_opSecondsPersist, fun r rest s logs listed none _ => ?_,
    fun s idle => exec_logProgram_idle idle, fun code s early => exec_logTokenRefill_early early, fun code s logs defined limited due => ?_⟩
  · intro two
    refine ⟨_, exec_logProgram logs listed, ?_⟩
    by_cases continued : rest.head?.map (leAt 0 2) = some 1
    · obtain ⟨c, after, rfl⟩ : ∃ c after, rest = c :: after := by
        cases rest with
        | nil => cases continued
        | cons c after => exact ⟨c, after, rfl⟩
      rw [if_pos continued, programSlots_two listed none]
      refine ⟨rfl, (if_pos continued).symm, fun _ => ⟨?_, ?_⟩, fun single => absurd continued single, areaPut_twice r c s.log⟩
      · change (areaPut c (areaPut r s.log)).writer = _
        rw [areaPut_writer, areaPut_writer]
        omega
      · have own := areaPut_own c (areaPut r s.log)
        rwa [areaPut_writer] at own
    · rw [if_neg continued, programSlots_one listed none]
      exact ⟨rfl, (if_neg continued).symm, fun both => absurd both continued, fun _ => areaPut_writer r s.log, areaPut_own r s.log⟩
  · refine ⟨_, exec_logTokenRefill_due logs defined limited due, ?_⟩
    rw [refillBucket_eq logs]
    refine ⟨rfl, ?_, ?_, fun k other => bucketOf_kvSet_ne _ _ _ other⟩ <;> rw [bucketOf_kvSet_self]
    · rfl
    · rfl

end Sys2Proof
end

section
/-! PROOFS. Resets by generation tag, teardowns, the phases of a fence-and-drain, the snarl evaluation and the captures (R414 to R434): each event in the state it waits for. -/

namespace Sys2Proof.Machine

/-! ## Generation resets and teardowns (R416, R422) -/

section
variable {uid cut : Nat} {q : Strand} {t : Word} {s : State} (works : workOf s uid = some (.genReset q t cut))
include works

theorem exec_genResetDone (gone : (s.trk.entries.any fun kv => earlierEntries s q kv.2) = false) :
    exec (.genResetDone uid) s = .next (finish uid (genResult s q 0 cut false) s) := by
  change execGenResetDone uid s = _
  simp only [execGenResetDone, works, gone, Bool.false_eq_true, if_false]

theorem exec_genResetForce (left : (s.trk.entries.any fun kv => earlierEntries s q kv.2) = true) (due : 50 ≤ (s.clk.uptimeMs - t).toNat) :
    exec (.genResetForce uid) s
      = .next (advance (finish uid (genResult (forceFree (earlierEntries s q) s).1 q (forceFree (earlierEntries s q) s).2 cut true)
          (forceFree (earlierEntries s q) s).1)) := by
  change execGenResetForce uid s = _
  simp only [execGenResetForce, works]
  rw [left, decide_eq_false (Nat.not_lt.2 due)]
  rfl

end

section
variable {uid c : Nat} {t : Word} {s : State} (works : workOf s uid = some (.ctxDestroy c t)) (idle : windowsIdle s c = true)
include works idle

theorem exec_ctxDestroyDone (gone : entriesGone s c = true) (done : startedDone s c = true) :
    exec (.ctxDestroyDone uid) s = .next (endDestroy uid c 0 false s) := by
  change execCtxDestroyDone uid s = _
  simp only [execCtxDestroyDone, works, idle, gone, done, Bool.and_true, if_true]

theorem exec_ctxDestroyForce (due : 50 ≤ (s.clk.uptimeMs - t).toNat) :
    exec (.ctxDestroyForce uid) s
      = .next (endDestroy uid c (forceFree (fun e => e.ctx == c) s).2 (decide (0 < (forceFree (fun e => e.ctx == c) s).2))
          (forceFree (fun e => e.ctx == c) s).1) := by
  change execCtxDestroyForce uid s = _
  simp only [execCtxDestroyForce, works, idle, due, decide_true, Bool.and_true, if_true]

end

/-! ## The phases of a fence-and-drain (R417, R418, R421) -/

section
variable {r : FndRun} {s : State} (runs : s.rst.run = some r)
include runs

theorem exec_fndCaptureDone (phase : s.rst.phase = 2) (captured : s.capt.cur = none) :
    exec .fndCaptureDone s = .next (advance (stopPhase r (setPhase 3 s))) := by
  change execFndCaptureDone s = _
  simp only [execFndCaptureDone, runs]
  rw [if_pos ⟨phase, by rw [captured]; rfl⟩]

theorem exec_fndStopDone (phase : s.rst.phase = 3) (stopped : takesIz r.target = false ∨ takenUids s = []) :
    exec .fndStopDone s = .next (drainPhase r (setPhase 4 s)) := by
  change execFndStopDone s = _
  simp only [execFndStopDone, runs]
  rw [if_pos ⟨phase, stopped⟩]

theorem exec_fndDrainDone (phase : s.rst.phase = 4)
    (drained : (s.trk.entries.filter fun kv => outstandingFor s r.target kv.2) = [] ∨ drainBound r s ≤ (s.clk.uptimeMs - r.phaseMs).toNat) :
    exec .fndDrainDone s
      = .next (resetPhase r (setPhase 5 (updRun (fun x => { x with forced := x.forced + (forceFree (outstandingFor s r.target) s).2 })
          (forceFree (outstandingFor s r.target) s).1))) := by
  change execFndDrainDone s = _
  simp only [execFndDrainDone, runs]
  rw [if_neg]
  rcases drained with none | late
  · simp [phase, none]
  · rw [decide_eq_false (Nat.not_lt.2 late)]
    simp [phase]

theorem exec_fndResetDone (phase : s.rst.phase = 5) (released : r.target ≠ [] ∨ s.pwr.sysResetLow = false) :
    exec .fndResetDone s
      = .next (if r.hostLink && !s.pwr.perstLow then
          { setPhase 6 s with pci := { (setPhase 6 s).pci with inReset := false, crs := false } } else setPhase 6 s) := by
  change execFndResetDone s = _
  simp only [execFndResetDone, runs]
  rw [if_neg]
  · rfl
  · rcases released with other | high
    · simp [phase, other]
    · simp [phase, high]

end

/-! ## The snarl evaluation and the captures (R426, R428, R430 to R434) -/

theorem exec_snarlEval {s : State} (runs : alive s = true) (noReset : dispatcherReset s = false) (none : s.snarl.declared = none) :
    exec .snarlEval s = .next (evalSnarl s) := by
  change execSnarlEval s = _
  simp only [execSnarlEval, runs, noReset, none, Option.isSome_none, Bool.not_true, Bool.or_false, Bool.false_eq_true, if_false]

theorem exec_captTrigger {s : State} (up : barUp s = true) :
    exec .captTrigger s = .next (barWrite 0x3004 (s.capt.ctl.setWidth 32 ||| 0x10) s) := by
  change execCaptTrigger s = _
  rw [execCaptTrigger, if_pos up]

theorem exec_sbTrigLow {s : State} (runs : alive s = true) (enabled : s.capt.ctl.getLsbD 0 = true) :
    exec .sbTrigLow s = .next (startCapture (plainCapture 3 0) s) := by
  change execSbTrigLow s = _
  simp only [execSbTrigLow, runs, enabled, Bool.and_self, if_true]

end Sys2Proof.Machine

namespace Sys2Proof

open Machine

/-- Settles O50: each event under what it waits for. -/
theorem resetAndCaptureEventsComplete : Obligations.ResetAndCaptureEventsComplete := by
  refine ⟨fun uid cut q t s works => ⟨exec_genResetDone works, fun left due => exec_genResetForce works left due⟩,
    fun uid c t s works idle => ⟨exec_ctxDestroyDone works idle, fun due => exec_ctxDestroyForce works idle due⟩,
    fun r s runs => ⟨exec_fndCaptureDone runs, exec_fndStopDone runs, fun phase drained => exec_fndDrainDone runs phase drained,
      fun phase released => exec_fndResetDone runs phase released, fun phase => ?_⟩,
    fun s runs noReset none => exec_snarlEval runs noReset none, fun no c s captures => ?_,
    fun s => ⟨exec_captTrigger, exec_sbTrigLow⟩⟩
  · change execFndRestoreDone s = _
    rw [execFndRestoreDone, runs]
    exact congrArg Host.Outcome.next (if_neg (not_not_intro phase))
  · change execCaptureDone no s = _
    rw [execCaptureDone, captures] <;> rfl

end Sys2Proof
end

section
/-! PROOFS. Resets of the host link, the pins and the power states (R445, R462, R464, R495, R499, R503, R511, R514). -/

namespace Sys2Proof.Machine

/-! ## The reset that the host link's fall asks for (R417, R495) -/

theorem linkResetDue_iff (s : State) : linkResetDue s = true ↔ 4 ≤ s.str.phasesDone ∧ powered s = true := by simp [linkResetDue]

/-- A fence-and-drain that begins has its target at FENCE. -/
theorem phaseAt_fndBegin (r : FndReq) (s : State) {p : Strand} (taken : underReset (fndBegin r s) p = true) : phaseAt (fndBegin r s) p = 2 := by
  rw [phaseAt, taken]
  rfl

/-- With none running, a request begins its fence-and-drain at once (R419). -/
theorem fndRequest_idle {r : FndReq} {s : State} (idle : s.rst.run = none) : fndRequest r s = fndBegin r s := by rw [fndRequest, idle]

/-! ## The host link -/

theorem exec_pcieHotReset {s : State} (running : s.pci.inReset = false) :
    exec .pcieHotReset s
      = .next (if 4 ≤ s.str.phasesDone ∧ powered s = true then
          (if phaseAt (linkReset s) sIZ = 6 then { linkReset s with pci := { (linkReset s).pci with inReset := false, crs := false } }
           else linkReset s)
        else s) := by
  change execPcieHotReset s = _
  rw [execPcieHotReset, running]
  by_cases due : 4 ≤ s.str.phasesDone ∧ powered s = true
  · rw [if_pos due, (linkResetDue_iff s).2 due]
    rfl
  · rw [if_neg due, Bool.eq_false_iff.2 fun h => due ((linkResetDue_iff s).1 h)]
    rfl

theorem exec_perstNAssert_high {s : State} (high : s.pwr.perstLow = false) :
    exec .perstNAssert s
      = .next (if 4 ≤ s.str.phasesDone ∧ powered s = true then
          linkReset { s with pwr := { s.pwr with perstLow := true }, pci := { s.pci with inReset := true, crs := true } }
        else { s with pwr := { s.pwr with perstLow := true }, pci := { s.pci with inReset := true, crs := true } }) := by
  change execPerstNAssert s = _
  simp only [execPerstNAssert, high, linkResetDue_iff, Bool.false_eq_true, if_false]

theorem exec_perstNAssert_low {s : State} (low : s.pwr.perstLow = true) : exec .perstNAssert s = .next s := by
  change execPerstNAssert s = _
  simp only [execPerstNAssert, low, if_true]

/-- The state with PERST_N high. -/
def perstHigh (s : State) : State := { s with pwr := { s.pwr with perstLow := false } }

theorem exec_perstNRelease (s : State) :
    exec .perstNRelease s
      = .next { perstHigh s with
          pci := if endpointFree (perstHigh s) then { s.pci with inReset := false, crs := decide (s.str.phasesDone < 4) } else s.pci } := by
  change Host.Outcome.next (if endpointFree (perstHigh s) then _ else _) = _
  split <;> rfl

/-! ## SYS_RESET_N, the input and PWR_EN -/

theorem exec_sysResetNAssert (s : State) :
    exec .sysResetNAssert s
      = .next (if s.pwr.sysResetLow = false ∧ s.pwr.phase = .running then
          fndRequest { target := [], cause := 4, escalated := false, uid := none } { s with pwr := { s.pwr with sysResetLow := true } }
        else { s with pwr := { s.pwr with sysResetLow := true } }) := by
  change execSysResetNAssert s = _
  rw [execSysResetNAssert]
  by_cases begins : s.pwr.sysResetLow = false ∧ s.pwr.phase = .running
  · rw [if_pos begins, if_neg (by simp [begins])]
  · rw [if_neg begins, if_pos (by simpa [← Bool.not_eq_true, or_iff_not_imp_left] using begins)]

@[simp] theorem interruptStaging_pwr (s : State) : (interruptStaging s).pwr = s.pwr := by
  simp only [interruptStaging]
  repeat' split
  all_goals rfl

/-- Start-up begins at phase 0, with the levels that the board drives as they were. -/
theorem beginStart_pwr (s : State) :
    (beginStart s).pwr.phase = .starting 0 ∧ (beginStart s).pwr.pwrgdLow = true ∧ (beginStart s).pwr.pwrEn = s.pwr.pwrEn
      ∧ (beginStart s).pwr.inputOk = s.pwr.inputOk := by
  refine ⟨rfl, rfl, ?_, ?_⟩
  · change (interruptStaging s).pwr.pwrEn = _
    rw [interruptStaging_pwr]
  · change (interruptStaging s).pwr.inputOk = _
    rw [interruptStaging_pwr]

theorem exec_pwrEnDeassert (s : State) :
    exec .pwrEnDeassert s
      = .next (if powered s = false then { s with pwr := { s.pwr with pwrEn := false } }
        else if logAlive { s with pwr := { s.pwr with pwrEn := false, pwrgdLow := true, phase := .poweringDown } } then
          flushLog { s with pwr := { s.pwr with pwrEn := false, pwrgdLow := true, phase := .poweringDown } }
        else { s with pwr := { s.pwr with pwrEn := false, pwrgdLow := true, phase := .poweringDown } }) := by
  change execPwrEnDeassert s = _
  rw [execPwrEnDeassert]
  cases powered s <;> rfl

end Sys2Proof.Machine

namespace Sys2Proof

open Machine

/-- Settles O44: each pin and each reset by its own command. -/
theorem hostLinkAndPowerPinsComplete : Obligations.HostLinkAndPowerPinsComplete := by
  refine ⟨fun s running => exec_pcieHotReset running, fun s idle _ => ⟨phaseAt_fndBegin _ s (by rfl), ?_⟩,
    fun s high => exec_perstNAssert_high high, fun s low => exec_perstNAssert_low low, fun s => ⟨_, exec_perstNRelease s, rfl, rfl⟩,
    exec_sysResetNAssert, fun s => rfl, fun s => rfl, fun s => rfl, beginStart_pwr, exec_pwrEnDeassert, fun s => rfl⟩
  rw [fndRequest_idle idle]
  rfl

end Sys2Proof
end

section
/-! PROOFS. The management port and the IEEE 1149.1 port (R455 to R461, R473, R477, R504): a message that the port takes is its command's own answer. -/

namespace Sys2Proof.Machine

open Safety

/-! ## What the port takes (R455, R456, R458) -/

/-- At its address the port answers a control message. -/
theorem onControl_listening {f : State → State} {s : State} (listens : Listening s) : onControl f s = f s := by
  obtain ⟨up, address⟩ := listens
  rw [onControl, up, address]
  rfl

/-- With an endpoint ID and no packet running it takes a request. -/
theorem onRequest_serving {f : State → State} {s : State} (serves : Serving s) : onRequest f s = f s := by
  obtain ⟨listens, endpoint, free⟩ := serves
  rw [onRequest, onControl_listening listens, endpoint, free]
  rfl

/-- An address is taken where the port is up and holds none. -/
theorem takeAddress_free {s : State} (a : BitVec 7) (up : portUp s = true) (free : s.mgt.i3cAddr = none) :
    takeAddress a s = { s with mgt := { s.mgt with i3cAddr := some a, out := s.mgt.out ++ [.i3cAck a] } } := by
  rw [takeAddress, up, free]
  rfl

theorem exec_setdasa (k a : BitVec 7) (s : State) :
    exec (.setdasa k a) s = .next (if k.toNat = 0x48 + s.pwr.moduleId.toNat then takeAddress a s else s) := rfl

/-! ## Control messages -/

section
variable {s : State} (listens : Listening s)
include listens

theorem exec_setEndpointId (e : Byte) :
    exec (.setEndpointId e) s
      = .next (if e = 0 ∨ e = 0xFF then { s with mgt := { s.mgt with out := s.mgt.out ++ [.mctp "Set Endpoint ID" [2]] } }
        else { s with mgt := { s.mgt with eid := some e, out := s.mgt.out ++ [.mctp "Set Endpoint ID" [0, e]] } }) :=
  congrArg Host.Outcome.next (onControl_listening listens)

theorem exec_getEndpointId :
    exec .getEndpointId s
      = .next { s with mgt := { s.mgt with out := s.mgt.out ++ [.mctp "Get Endpoint ID" [0, s.mgt.eid.getD 0]] } } :=
  congrArg Host.Outcome.next (onControl_listening listens)

theorem exec_getMctpVersionSupport :
    exec .getMctpVersionSupport s
      = .next { s with mgt := { s.mgt with out := s.mgt.out ++ [.mctp "Get MCTP Version Support" (0 :: Config.mctpVersions)] } } :=
  congrArg Host.Outcome.next (onControl_listening listens)

theorem exec_getMessageTypeSupport :
    exec .getMessageTypeSupport s
      = .next { s with mgt := { s.mgt with out := s.mgt.out ++ [.mctp "Get Message Type Support" [0, 0x01, 0x7E]] } } :=
  congrArg Host.Outcome.next (onControl_listening listens)

theorem exec_getVendorDefinedMessageSupport :
    exec .getVendorDefinedMessageSupport s
      = .next { s with mgt := { s.mgt with out := s.mgt.out ++ [.mctp "Get Vendor Defined Message Support" [0, 0x1F, 0x6E]] } } :=
  congrArg Host.Outcome.next (onControl_listening listens)

end

/-! ## Vendor messages, monitoring and the firmware update -/

section
variable {s : State} (serves : Serving s)
include serves

theorem exec_packetReq (tag : Byte) {ws : List Word} (least : 4 ≤ ws.length) (most : ws.length ≤ 64) :
    exec (.packetReq 0x1F6E tag 0 ws) s
      = .next (answerBad { s with
          mgt := { s.mgt with busyUid := some s.nextUid }
          fetched := s.fetched ++ [(s.nextUid, packetOfWords (.port tag) ws)], nextUid := s.nextUid + 1 }) := by
  change execPacketReq 0x1F6E tag 0 ws s = _
  rw [execPacketReq, onRequest_serving serves, if_neg (by simp [least, most])]

theorem exec_captReq (tag : Byte) (o n : Word) :
    exec (.captReq 0x1F6E tag 0 o n) s = .next { s with mgt := { s.mgt with
      out := s.mgt.out ++ [if captRangeOk o.toNat n.toNat then .captRsp tag 0 (cellRead o.toNat n.toNat s.capt.sram) else .captRsp tag 0x11 []] } } := by
  change execCaptReq 0x1F6E tag 0 o n s = _
  rw [execCaptReq, onRequest_serving serves, if_neg (by simp)]
  split <;> rfl

theorem exec_getSensorReading {n : Nat} (sensor : 1 ≤ n ∧ n ≤ 10) :
    exec (.getSensorReading n) s = .next { s with
      freeCtr := s.freeCtr + 1
      mgt := { s.mgt with out := s.mgt.out ++ [.pldm "GetSensorReading" 0 (leBytes 4 (sensorValue n s).toNat)] } } := by
  change execGetSensorReading n s = _
  rw [execGetSensorReading, onRequest_serving serves, if_pos sensor]
  rfl

theorem exec_getPdr {n : Nat} (sensor : 1 ≤ n ∧ n ≤ 10) :
    exec (.getPdr n) s = .next (pldmOut "GetPDR" 0 (Config.pdr n) s) := by
  change execGetPdr n s = _
  rw [execGetPdr, onRequest_serving serves, if_pos sensor]

theorem exec_setEventReceiver (e : Byte) (poll : Bool) :
    exec (.setEventReceiver e poll) s
      = .next { s with mgt := { s.mgt with receiver := some (e, poll), out := s.mgt.out ++ [.pldm "SetEventReceiver" 0 []] } } :=
  congrArg Host.Outcome.next (onRequest_serving serves)

theorem exec_queryDeviceIdentifiers :
    exec .queryDeviceIdentifiers s = .next (pldmOut "QueryDeviceIdentifiers" 0 [0x6E, 0x1F, 0x04, 0x49] s) :=
  congrArg Host.Outcome.next (onRequest_serving serves)

theorem exec_getFirmwareParameters :
    exec .getFirmwareParameters s
      = .next (pldmOut "GetFirmwareParameters" 0 (leBytes 4 (runningVersion s) ++ leBytes 4 (slotVersion s (spareSlot s.fw))) s) :=
  congrArg Host.Outcome.next (onRequest_serving serves)

theorem exec_getStatus : exec .getStatus s = .next (pldmOut "GetStatus" 0 [BitVec.ofNat 8 (pldmCode s.mgt.pldm)] s) :=
  congrArg Host.Outcome.next (onRequest_serving serves)

theorem exec_requestUpdate_busy (idle : s.mgt.pldm = .idle) (busy : stagingBusy s = true) :
    exec .requestUpdate s = .next (pldmOut "RequestUpdate" 0x8E [] s) := by
  change execRequestUpdate s = _
  rw [execRequestUpdate, onRequest_serving serves, if_neg (not_not_intro idle), if_pos busy]

theorem exec_requestUpdate_free (idle : s.mgt.pldm = .idle) (free : stagingBusy s = false) :
    exec .requestUpdate s = .next { s with
      fw := { s.fw with staging := .pldm }, mgt := { s.mgt with pldm := .learn, out := s.mgt.out ++ [.pldm "RequestUpdate" 0 []] } } := by
  change execRequestUpdate s = _
  rw [execRequestUpdate, onRequest_serving serves, if_neg (not_not_intro idle), free]
  rfl

theorem exec_passComponentTable (learns : s.mgt.pldm = .learn) :
    exec .passComponentTable s
      = .next { s with mgt := { s.mgt with pldm := .ready, out := s.mgt.out ++ [.pldm "PassComponentTable" 0 []] } } := by
  change execPassComponentTable s = _
  rw [execPassComponentTable, onRequest_serving serves, if_pos learns]
  rfl

theorem exec_updateComponent (ready : s.mgt.pldm = .ready) (n : Word) :
    exec (.updateComponent n) s
      = .next { s with mgt := { s.mgt with pldm := .download n.toNat 0, image := [], out := s.mgt.out ++ [.pldm "UpdateComponent" 0 []] } } := by
  change execUpdateComponent n s = _
  rw [execUpdateComponent, onRequest_serving serves, if_pos ready]
  rfl

/-- The piece asked for joins the image, and the last one ends the transfer. -/
theorem exec_requestFirmwareData {size got : Nat} {d : List Byte} (loads : s.mgt.pldm = .download size got)
    (asked : d.length = min 1024 (size - got)) :
    exec (.requestFirmwareData got d) s = .next { s with mgt := { s.mgt with
      image := cellWrite got d s.mgt.image
      pldm := if got + d.length < size then .download size (got + d.length) else .verify size
      out := if got + d.length < size then s.mgt.out else s.mgt.out ++ [.pldm "TransferComplete" 0 []] } } := by
  change execRequestFirmwareData got d s = _
  rw [execRequestFirmwareData, onRequest_serving serves]
  simp only [loads]
  rw [if_neg (by simp [asked]), ← asked]
  split <;> rfl

theorem exec_activateFirmware (applied : s.mgt.pldm = .activate) :
    exec .activateFirmware s = .next (pldmOut "ActivateFirmware" 0 [] (endUpdate (activateSlot (spareSlot s.fw) s))) := by
  change execActivateFirmware s = _
  rw [execActivateFirmware, onRequest_serving serves, if_pos applied]

theorem exec_cancelUpdateComponent (begun : 3 ≤ pldmCode s.mgt.pldm) (unapplied : pldmCode s.mgt.pldm ≤ 5) :
    exec .cancelUpdateComponent s = .next { interruptStaging s with mgt := { (interruptStaging s).mgt with
      pldm := .ready, image := [], out := (interruptStaging s).mgt.out ++ [.pldm "CancelUpdateComponent" 0 []] } } := by
  change execCancelUpdateComponent s = _
  rw [execCancelUpdateComponent, onRequest_serving serves, if_pos ⟨begun, unapplied⟩]
  rfl

theorem exec_cancelUpdate (runs : s.mgt.pldm ≠ .idle) :
    exec .cancelUpdate s = .next (pldmOut "CancelUpdate" 0 [] (endUpdate (interruptStaging s))) := by
  change execCancelUpdate s = _
  rw [execCancelUpdate, onRequest_serving serves, if_neg runs]

end

/-! ## The module's own steps of an update, and the 1149.1 port -/

section
variable {s : State} (up : portUp s = true)
include up

theorem exec_verifyComplete {size : Nat} (verifies : s.mgt.pldm = .verify size) :
    exec .verifyComplete s = .next
      (if imageLength (pldmImage s size) = size ∧ verifyImage s.fw (pldmImage s size) = .good then
        pldmOut "VerifyComplete" 0 [] (setPldm .apply s) else pldmOut "VerifyComplete" 1 [] (endUpdate s)) := by
  change execVerifyComplete s = _
  rw [execVerifyComplete, if_neg (by simp [up])]
  simp only [verifies]

theorem exec_applyComplete (applies : s.mgt.pldm = .apply) (ok : Bool) :
    exec (.applyComplete ok) s = .next
      (if ok then pldmOut "ApplyComplete" 0 [] (setPldm .activate (writeSlot (pldmImage s (imageLength (pldmImage s 16))) ok s))
        else pldmOut "ApplyComplete" 1 [] (endUpdate (writeSlot (pldmImage s (imageLength (pldmImage s 16))) ok s))) := by
  change execApplyComplete ok s = _
  rw [execApplyComplete, if_neg (by simp [up])]
  simp only [applies]

end

theorem exec_jtagPrivateInstruction {s : State} (op : JtagOp) (board : boardUp s = true) (untripped : s.pwr.phase ≠ .tripped)
    (begun : 1 ≤ s.str.phasesDone) : exec (.jtagPrivateInstruction op) s = .next (jtagDo op s) := by
  change execJtagPrivateInstruction op s = _
  rw [execJtagPrivateInstruction, if_pos (by simp [board, untripped, begun])]

end Sys2Proof.Machine

namespace Sys2Proof

open Machine Safety

/-- Settles O55: each message by the command that the port carries out. -/
theorem managementCommandsComplete : Obligations.ManagementCommandsComplete := by
  refine ⟨fun a s up free => ?_, fun s listens => ?_, fun s serves => ?_, fun s up => ?_,
    fun op s board untripped begun => exec_jtagPrivateInstruction op board untripped begun⟩
  · exact ⟨congrArg Host.Outcome.next (takeAddress_free a up free), fun k => by rw [exec_setdasa, takeAddress_free a up free]⟩
  · exact ⟨exec_setEndpointId listens, exec_getEndpointId listens, exec_getMctpVersionSupport listens, exec_getMessageTypeSupport listens,
      exec_getVendorDefinedMessageSupport listens⟩
  · exact ⟨fun tag ws least most => exec_packetReq serves tag least most, exec_captReq serves,
      fun n least most => ⟨exec_getSensorReading serves ⟨least, most⟩, exec_getPdr serves ⟨least, most⟩⟩, exec_setEventReceiver serves,
      exec_queryDeviceIdentifiers serves, exec_getFirmwareParameters serves, exec_getStatus serves, exec_requestUpdate_busy serves,
      exec_requestUpdate_free serves, exec_passComponentTable serves, exec_updateComponent serves,
      fun size got d loads asked => exec_requestFirmwareData serves loads asked, exec_activateFirmware serves,
      exec_cancelUpdateComponent serves, exec_cancelUpdate serves⟩
  · exact ⟨fun size verifies => exec_verifyComplete up verifies, exec_applyComplete up⟩

end Sys2Proof
end

section
/-! PROOFS. Start-up's training phase (R405, R463, R466): a unit that STR.REPAIR_COMMIT has removed is not trained. -/

namespace Sys2Proof.Machine

/-- A unit whose training failed. -/
def untrained : Strand := sXE 0

/-- A module in phase 5 of start-up, with a fuse burnt that removes that unit. -/
def trainingRemoved : State :=
  { State.reset with
    pwr := { State.reset.pwr with phase := .starting 5 }
    fw := { State.reset.fw with fuseRemoved := [strandId untrained] } }

/-- A removed unit's failure is not heeded, since it is never tested again (R405). -/
theorem execStartupTrain_removed : execStartupTrain [untrained] trainingRemoved = .next (failPhase [] (donePhase 6 trainingRemoved)) := by
  have removed : ([untrained].filter fun p => !committed trainingRemoved p) = [] := by decide +kernel
  have due : trainingRemoved.pwr.phase = .starting 5 := rfl
  rw [execStartupTrain, inPhase, if_pos due, removed]

/-- Without a failure no unit is fenced. -/
theorem failPhase_none_unfenced : (failPhase [] (donePhase 6 trainingRemoved)).str.stoppers = [] := by decide +kernel

/-- With one, it is. -/
theorem failPhase_untrained_fenced : (failPhase [untrained] (donePhase 6 trainingRemoved)).str.stoppers ≠ [] := by decide +kernel

end Sys2Proof.Machine

namespace Sys2Proof

open Machine

/-- Refutes O46: a unit that a fuse has removed may be named among those that fail in training. STARTUP_TRAIN passes it over (R405), where the statement has it fenced as every other. -/
theorem not_startupPhasesRunInOrder : ¬ Obligations.StartupPhasesRunInOrder := by
  unfold Obligations.StartupPhasesRunInOrder
  rintro ⟨-, -, -, -, -, trains, -⟩
  have stated : execStartupTrain [untrained] trainingRemoved = .next (failPhase [untrained] (donePhase 6 trainingRemoved)) :=
    trains [untrained] trainingRemoved rfl
  rw [execStartupTrain_removed] at stated
  injection stated with same
  exact failPhase_untrained_fenced (same ▸ failPhase_none_unfenced)

end Sys2Proof
end

section
/-! PROOFS. Short doorbell writes (R481) and module interrupts (R488, R489). -/

namespace Sys2Proof.Machine

/-! ## Doorbells -/

/-- What the host has done in its own memory does not reach the endpoint. -/
theorem barUp_takeNews (host : HostNews) (s : State) : barUp (takeNews host s) = barUp s := rfl

/-- A write of 4 bytes does what one of 8 does, wherever it lands. -/
theorem exec_doorbellWrite_short (offset : Nat) (value : DWord) (host : HostNews) (s : State) :
    exec (.doorbellWrite offset 4 value host) s = exec (.doorbellWrite offset 8 value host) s := by
  change execDoorbellWrite offset 4 value host s = execDoorbellWrite offset 8 value host s
  simp [execDoorbellWrite]

/-- A write that is not at a multiple of 8 is ignored. -/
theorem exec_doorbellWrite_between {offset size : Nat} {s : State} (value : DWord) (host : HostNews) (between : offset % 8 ≠ 0)
    (up : barUp s = true) : exec (.doorbellWrite offset size value host) s = .next (takeNews host s) := by
  change execDoorbellWrite offset size value host s = _
  simp only [execDoorbellWrite]
  rw [hostAccess_up ((barUp_takeNews host s).trans up)]
  simp [between]

/-! ## IRQ_STATUS and the message on IRQ_VECTOR -/

/-- A vector's message leaves as a TLP, or pends where the vector is masked or the endpoint cannot send (R489). -/
theorem raiseMsix_eq (v : Nat) (s : State) :
    raiseMsix v s
      = let e := kvGetD v msixDefault s.pci.msix
        let sends := !e.masked && hostUp s
        { s with pci := { s.pci with
            out := if sends then s.pci.out ++ [.msix v e.addr e.data] else s.pci.out
            pending := if !sends then insNat v s.pci.pending else s.pci.pending } } := by
  simp only [raiseMsix]
  cases (kvGetD v msixDefault s.pci.msix).masked <;> cases hostUp s <;> rfl

theorem setIrq_again {n : Nat} {s : State} (set : s.pci.irqStatus.getLsbD n = true) : setIrq n s = s := by rw [setIrq, if_pos set]

/-- The state with bit n of IRQ_STATUS set. -/
def withIrq (n : Nat) (s : State) : State := { s with pci := { s.pci with irqStatus := s.pci.irqStatus ||| BitVec.ofNat 9 (2 ^ n) } }

theorem setIrq_first {n : Nat} {s : State} (clear : s.pci.irqStatus.getLsbD n = false) :
    setIrq n s = if s.pci.irqEnable.getLsbD n then raiseMsix s.pci.irqVector.toNat (withIrq n s) else withIrq n s := by
  rw [setIrq, if_neg (by simp [clear])]
  rfl

/-- Setting bit n sets that bit alone. -/
theorem getLsbD_or_twoPow (x : BitVec 9) (n : Nat) {i : Nat} (h : i < 9) :
    (x ||| BitVec.ofNat 9 (2 ^ n)).getLsbD i = (x.getLsbD i || i == n) := by
  rw [BitVec.getLsbD_or, BitVec.getLsbD_ofNat, Nat.testBit_two_pow, decide_eq_true h, Bool.true_and]
  simp only [beq_eq_decide, eq_comm]

end Sys2Proof.Machine

namespace Sys2Proof

open Machine

/-- Settles O32: both sizes run the same command, and a place between two doorbells has none. -/
theorem shortDoorbellWrites : Obligations.ShortDoorbellWrites :=
  fun offset value host s =>
    ⟨fun _ => exec_doorbellWrite_short offset value host s, fun between up => exec_doorbellWrite_between value host (by omega) up⟩

/-- Settles O41: a bit that goes from 0 to 1 raises the vector where its enable is 1. -/
theorem interruptsAreRaisedOnce : Obligations.InterruptsAreRaisedOnce := by
  intro n s _ u e sends
  refine ⟨setIrq_again, fun clear => ?_⟩
  have raised : u = _ := setIrq_first clear
  cases enabled : s.pci.irqEnable.getLsbD n with
  | false =>
    have unsent : sends = false := by simp [sends, enabled]
    rw [raised, unsent, enabled]
    exact ⟨rfl, fun i h => getLsbD_or_twoPow _ n h⟩
  | true =>
    have sent : sends = (!e.masked && hostUp s) := by simp [sends, enabled, hostUp, Bool.and_assoc]
    rw [raised, sent, enabled, if_pos rfl, raiseMsix_eq]
    exact ⟨rfl, fun i h => getLsbD_or_twoPow _ n h⟩

end Sys2Proof
end

section
/-! PROOFS. The mailbox's GO (R492) while the PCI Express unit is fenced: the request is not taken up. -/

namespace Sys2Proof.Machine

/-- Answering packets with bad headers leaves the endpoint as it is. -/
theorem answerBad_pci (s : State) : (answerBad s).pci = s.pci := by
  unfold answerBad
  generalize s.fetched = waiting
  induction waiting generalizing s with
  | nil => rfl
  | cons kv rest ih =>
    rw [List.foldl_cons, ih]
    repeat' split
    all_goals rfl

theorem barWrite_mboxCtl (v : Word) (s : State) : barWrite mboxBase v s = writeMboxCtl v s := rfl

/-- Without the unit that holds the mailbox no request starts. -/
theorem mboxStart_fenced {s : State} (out : fenced s sPCI = true) : mboxStart s = s := by simp [mboxStart, out]

theorem exec_mboxGo_fenced {s : State} (up : barUp s = true) (out : fenced s sPCI = true) : exec .mboxGo s = .next s := by
  change execMboxGo s = _
  rw [execMboxGo, hostAccess_up up, barWrite_mboxCtl]
  exact congrArg Host.Outcome.next (mboxStart_fenced out)

/-- A started module whose endpoint answers, with an operator's stopper on its PCI Express unit. -/
def fencedEndpoint : State :=
  { State.reset with
    pwr := { State.reset.pwr with phase := .running, refclk := true }
    str := { State.reset.str with phasesDone := 8, stoppers := [(strandId sPCI, { kind := .operator, injected := false })] }
    pci := { State.reset.pci with inReset := false, crs := false } }

theorem fencedEndpoint_up : barUp fencedEndpoint = true ∧ alive fencedEndpoint = true ∧ fenced fencedEndpoint sPCI = true := by decide

end Sys2Proof.Machine

namespace Sys2Proof

open Machine

/-- Refutes O43: the mailbox is usable only while IZ/MG and IZ/PCI work (R492). With IZ/PCI fenced and the BARs answering, GO is ignored though BUSY is 0, where the statement has it set BUSY. -/
theorem not_mailboxAndInterruptEventsComplete : ¬ Obligations.MailboxAndInterruptEventsComplete := by
  unfold Obligations.MailboxAndInterruptEventsComplete
  rintro ⟨starts, -⟩
  obtain ⟨up, runs, out⟩ := fencedEndpoint_up
  have stated := (starts fencedEndpoint up runs).1 rfl
  rw [exec_mboxGo_fenced up out] at stated
  injection stated with same
  have busy := congrArg (fun s => s.pci.mboxBusy) same
  simp only [answerBad_pci] at busy
  exact Bool.false_ne_true busy

end Sys2Proof
end

section
/-! PROOFS. SPILL_SPLIT (R170, R171): how a state, an update, a branch and a fold show the two splits. -/

namespace Sys2Proof.Machine

/-- SPILL_SPLIT of a state: the requested share of the array and the applied one (R170). -/
def splits (s : State) : BitVec 5 × BitVec 5 := (s.arr.splitReq, s.arr.splitApplied)

/-! ## How updates, branches and folds show the splits -/

/-- A state written field by field shows the splits of the array it is given. -/
@[simp] theorem splits_mk (pending freeCtr nextUid clk pwr fw log str ctxs queues hitches fetched jobs mem arr trk wins lnk spl tkl ttls rst
      capt snarl pci mgt) :
    splits { pending, freeCtr, nextUid, clk, pwr, fw, log, str, ctxs, queues, hitches, fetched, jobs, mem, arr, trk, wins, lnk, spl, tkl, ttls, rst
             capt, snarl, pci, mgt } = (arr.splitReq, arr.splitApplied) := by
  unfold splits
  rfl

@[simp] theorem splitReq_splitApplied (s : State) : (s.arr.splitReq, s.arr.splitApplied) = splits s := by
  unfold splits
  rfl

theorem splits_of_arr {s t : State} (h : t.arr = s.arr) : splits t = splits s := by rw [splits, h, splitReq_splitApplied]

@[simp] theorem splits_ite (c : Prop) [Decidable c] (s t : State) : splits (if c then s else t) = if c then splits s else splits t := apply_ite ..

@[simp] theorem splits_ite_fst {α : Type} (c : Prop) [Decidable c] (r q : State × α) :
    splits (if c then r else q).1 = if c then splits r.1 else splits q.1 := by split <;> rfl

/-- Where a state stands beside another result, the splits of the pair are its splits. -/
theorem splits_of_eq {α : Type} {r : State × α} {s t : State} {a : α} (h : r = (t, a)) (kept : splits r.1 = splits s) : splits t = splits s := by
  rw [← kept, h]

/-- What every step of a fold keeps, the fold keeps. -/
theorem foldl_keeps {α β γ : Type} {P : β → γ} {f : β → α → β} (h : ∀ b a, P (f b a) = P b) (l : List α) (b : β) : P (l.foldl f b) = P b :=
  List.foldlRecOn l f (motive := fun c => P c = P b) rfl fun c kept a _ => (h c a).trans kept

@[simp] theorem splits_foldl {α : Type} {f : State → α → State} (h : ∀ s a, splits (f s a) = splits s) (l : List α) (s : State) :
    splits (l.foldl f s) = splits s := foldl_keeps h l s

@[simp] theorem splits_foldl_fst {α β : Type} {f : State × β → α → State × β} (h : ∀ r a, splits (f r a).1 = splits r.1) (l : List α)
    (r : State × β) : splits (l.foldl f r).1 = splits r.1 := foldl_keeps (P := fun r => splits r.1) h l r

end Sys2Proof.Machine
end

section
/-! PROOFS. SPILL_SPLIT and the operations on the state (R170): records, memory, translation, jobs, links, Splice, packets and aborts keep both splits. -/

namespace Sys2Proof.Machine

/-! ## Flags -/

@[simp] theorem pciOut_splits (o : PciOut) (s : State) : splits (pciOut o s) = splits s := splits_of_arr (pciOut_arr ..)

@[simp] theorem raiseMsix_splits (v : Nat) (s : State) : splits (raiseMsix v s) = splits s := by simp [raiseMsix]

@[simp] theorem unmaskMsix_splits (v : Nat) (s : State) : splits (unmaskMsix v s) = splits s := by simp [unmaskMsix]

@[simp] theorem setIrq_splits (n : Nat) (s : State) : splits (setIrq n s) = splits s := by simp [setIrq]

@[simp] theorem badAccess_splits (s : State) : splits (badAccess s) = splits s := splits_of_arr (badAccess_arr ..)

@[simp] theorem apertureDrop_splits (s : State) : splits (apertureDrop s) = splits s := by simp [apertureDrop]

/-! ## Logline -/

@[simp] theorem countFence_splits (strand : Nat) (s : State) : splits (countFence strand s) = splits s := splits_of_arr (countFence_arr ..)

@[simp] theorem bufferRec_splits (r : LogRec) (s : State) : splits (bufferRec r s) = splits s := by simp [bufferRec]

@[simp] theorem sendEvent_splits (r : LogRec) (s : State) : splits (sendEvent r s) = splits s := by
  simp only [sendEvent]
  split <;> simp

@[simp] theorem logRec_splits (r : LogRec) (s : State) : splits (logRec r s) = splits s := by simp [logRec]

@[simp] theorem refillBucket_splits (code : Nat) (s : State) : splits (refillBucket code s) = splits s := by simp [refillBucket]

@[simp] theorem noteLost_splits (s : State) : splits (noteLost s) = splits s := by simp [noteLost]

@[simp] theorem programSlots_splits (n : Nat) (s : State) : splits (programSlots n s) = splits s := by simp [programSlots]

@[simp] theorem programOne_splits (s : State) : splits (programOne s) = splits s := by simp [programOne]

@[simp] theorem persistTime_splits (s : State) : splits (persistTime s) = splits s := by simp [persistTime]

@[simp] theorem flushLog_splits (s : State) : splits (flushLog s) = splits s := by simp [flushLog]

/-! ## Memory -/

@[simp] theorem settleGranule_splits (k sz : Nat) (s : State) : splits (settleGranule k sz s) = splits s := by
  simp only [settleGranule]
  split <;> simp

@[simp] theorem damageWord_splits (pa : Nat) (s : State) : splits (damageWord pa s) = splits s := by
  simp only [damageWord]
  split <;> simp

@[simp] theorem settleAll_splits (pa n : Nat) (s : State) : splits (settleAll pa n s) = splits s := by simp [settleAll]

@[simp] theorem storeBytes_splits (pa : Nat) (bs : List PByte) (s : State) : splits (storeBytes pa bs s) = splits s := by simp [storeBytes]

@[simp] theorem damageAll_splits (pa n : Nat) (s : State) : splits (damageAll pa n s) = splits s := by simp [damageAll]

@[simp] theorem physWrite_splits (pa : Nat) (bs : List PByte) (s : State) : splits (physWrite pa bs s) = splits s :=
  splits_of_arr (physWrite_arr ..)

@[simp] theorem loosen_splits (n pa len : Nat) (s : State) : splits (loosen n pa len s) = splits s := by simp [loosen]

@[simp] theorem physPut_splits (pa : Nat) (bs : List Byte) (s : State) : splits (physPut pa bs s) = splits s := splits_of_arr (physPut_arr ..)

@[simp] theorem poisonKeys_splits (ks : List (Nat × Nat)) (s : State) : splits (poisonKeys ks s) = splits s := splits_of_arr (poisonKeys_arr ..)

/-! ## Translate -/

@[simp] theorem setCtx_splits (c : Nat) (x : Ctx) (s : State) : splits (setCtx c x s) = splits s := splits_of_arr (setCtx_arr ..)

@[simp] theorem takeNews_splits (h : HostNews) (s : State) : splits (takeNews h s) = splits s := by simp [takeNews]

@[simp] theorem leafWrite_splits (relaxed : Bool) (l : Leaf) (bs : List PByte) (s : State) : splits (leafWrite relaxed l bs s) = splits s := by
  simp [leafWrite]

@[simp] theorem vaWrite_splits (r : Reach) (c va : Nat) (bs : List PByte) (s : State) : splits (vaWrite r c va bs s).1 = splits s := by
  rw [vaWrite, splits_foldl_fst]
  intro acc p
  repeat' split
  all_goals simp

@[simp] theorem grantWrite_splits (x : Ctx) (o : Nat) (bs : List PByte) (s : State) : splits (grantWrite x o bs s).1 = splits s := by
  simp only [grantWrite]
  split
  · rfl
  · rw [splits_foldl_fst]
    intro acc p
    repeat' split
    all_goals simp

@[simp] theorem loosenGrant_splits (x : Ctx) (o n : Nat) (s : State) : splits (loosenGrant x o n s) = splits s := by simp [loosenGrant]

@[simp] theorem loosenVa_splits (r : Reach) (c va n : Nat) (s : State) : splits (loosenVa r c va n s) = splits s := by
  rw [loosenVa, splits_mk, splitReq_splitApplied, splits_foldl]
  intro s p
  split <;> simp

@[simp] theorem pteSet_splits (pa e : Nat) (s : State) : splits (pteSet pa e s) = splits s := by simp [pteSet]

@[simp] theorem tableClear_splits (pa n : Nat) (s : State) : splits (tableClear pa n s) = splits s := by simp [tableClear]

theorem nextTable_splits {c level pte : Nat} {s : State} {r : State × Nat} (h : nextTable c level pte s = some r) : splits r.1 = splits s := by
  simp only [nextTable] at h
  repeat' split at h
  all_goals cases h
  all_goals simp

theorem mapPage_splits {c va target : Nat} {big host wr : Bool} {s t : State} (h : mapPage c va target big host wr s = some t) :
    splits t = splits s := by
  simp only [mapPage] at h
  split at h
  · cases h
  · next h2 =>
    split at h
    · cases h
    · next h3 =>
      have upper := (nextTable_splits h3).trans (nextTable_splits h2)
      split at h
      · cases h
        simpa using upper
      · split at h
        · cases h
        · next h4 =>
          cases h
          simpa using (nextTable_splits h4).trans upper

@[simp] theorem pruneTables_splits (c : Nat) (s : State) : splits (pruneTables c s) = splits s := by
  simp only [pruneTables]
  rw [splits_foldl, splits_foldl, splits_foldl]
  · intro s e
    simp
  · intro s e
    rw [splits_foldl]
    simp
  · intro s e
    simp

/-! ## Jobs -/

@[simp] theorem updJob_splits (uid : Nat) (f : Job → Job) (s : State) : splits (updJob uid f s) = splits s := splits_of_arr (updJob_arr ..)

@[simp] theorem setWork_splits (uid : Nat) (w : Work) (s : State) : splits (setWork uid w s) = splits s := splits_of_arr (setWork_arr ..)

@[simp] theorem finish_splits (uid : Nat) (r : Result) (s : State) : splits (finish uid r s) = splits s := splits_of_arr (finish_arr ..)

@[simp] theorem setXfer_splits (uid : Nat) (f : Xfer → Xfer) (s : State) : splits (setXfer uid f s) = splits s := splits_of_arr (setXfer_arr ..)

@[simp] theorem stopXfer_splits (uid : Nat) (r : Result) (s : State) : splits (stopXfer uid r s) = splits s := by simp [stopXfer]

@[simp] theorem dropEngine_splits (uid n : Nat) (s : State) : splits (dropEngine uid n s) = splits s := by simp [dropEngine]

@[simp] theorem finishXfer_splits (uid : Nat) (s : State) : splits (finishXfer uid s) = splits s := by simp [finishXfer]

@[simp] theorem settleXfer_splits (uid : Nat) (s : State) : splits (settleXfer uid s) = splits s := by
  simp only [settleXfer]
  split <;> simp

@[simp] theorem finishCut_splits (uid : Nat) (r : Result) (s : State) : splits (finishCut uid r s) = splits s := by simp [finishCut]

@[simp] theorem addJob_splits (j : Job) (s : State) : splits (addJob j s) = splits s := splits_of_arr (addJob_arr ..)

@[simp] theorem answerAtOnce_splits (uid : Nat) (p : Packet) (r : Result) (s : State) : splits (answerAtOnce uid p r s) = splits s := by
  simp [answerAtOnce]

@[simp] theorem dropJob_splits (uid : Nat) (s : State) : splits (dropJob uid s) = splits s := splits_of_arr (dropJob_arr ..)

@[simp] theorem drawFree_splits (s : State) : splits (drawFree s).1 = splits s := by simp [drawFree]

@[simp] theorem hitchPut_splits (h : Nat) (v : DWord) (s : State) : splits (hitchPut h v s) = splits s := splits_of_arr (hitchPut_arr ..)

@[simp] theorem hitchAdd_splits (h : Nat) (v : DWord) (s : State) : splits (hitchAdd h v s) = splits s := by simp [hitchAdd]

/-! ## Send -/

@[simp] theorem updLink_splits (l : Nat) (f : Link → Link) (s : State) : splits (updLink l f s) = splits s := splits_of_arr (updLink_arr ..)

@[simp] theorem updVc_splits (l v : Nat) (f : Vc → Vc) (s : State) : splits (updVc l v f s) = splits s := splits_of_arr (updVc_arr ..)

@[simp] theorem countDrop_splits (die : Nat) (s : State) : splits (countDrop die s) = splits s := splits_of_arr (countDrop_arr ..)

@[simp] theorem enqueue_splits (l v : Nat) (o : Outbound) (s : State) : splits (enqueue l v o s) = splits s := splits_of_arr (enqueue_arr ..)

@[simp] theorem wire_splits (l : Nat) (f : List Byte) (s : State) : splits (wire l f s) = splits s := by
  simp only [wire]
  split <;> simp

@[simp] theorem sendIdles_splits (l n : Nat) (s : State) : splits (sendIdles l n s) = splits s := by simp [sendIdles]

@[simp] theorem freeUnits_splits (l v n : Nat) (s : State) : splits (freeUnits l v n s) = splits s := by simp [freeUnits]

@[simp] theorem sendBytes_splits (v dest : Nat) (b : List Byte) (s : State) : splits (sendBytes v dest b s).1 = splits s := by
  simp only [sendBytes]
  split <;> simp

@[simp] theorem sendMsg_splits (v dest : Nat) (m : Msg) (s : State) : splits (sendMsg v dest m s).1 = splits s := by simp [sendMsg]

@[simp] theorem sendSpl_splits (dest : Nat) (m : SplMsg) (s : State) : splits (sendSpl dest m s) = splits s := by simp [sendSpl]

@[simp] theorem answer_splits (m r : Msg) (s : State) : splits (answer m r s) = splits s := by simp [answer]

@[simp] theorem sendNeg_splits (m : Msg) (code cause : Nat) (s : State) : splits (sendNeg m code cause s) = splits s := by simp [sendNeg]

@[simp] theorem dropUnroutable_splits (die v : Nat) (b : List Byte) (s : State) : splits (dropUnroutable die v b s) = splits s := by
  simp [dropUnroutable]

@[simp] theorem freeOrigin_splits (v : Nat) (o : Outbound) (s : State) : splits (freeOrigin v o s) = splits s := by
  simp only [freeOrigin]
  split <;> simp

@[simp] theorem revokePeers_splits (c : Nat) (gen : BitVec 16) (s : State) : splits (revokePeers c gen s) = splits s := by simp [revokePeers]

@[simp] theorem dropWindows_splits (c : Nat) (s : State) : splits (dropWindows c s) = splits s := by simp [dropWindows]

/-! ## SpliceCore -/

@[simp] theorem setPlan_splits (p : Nat) (x : Plan) (s : State) : splits (setPlan p x s) = splits s := splits_of_arr (setPlan_arr ..)

@[simp] theorem updPlan_splits (p : Nat) (f : Plan → Plan) (s : State) : splits (updPlan p f s) = splits s := splits_of_arr (updPlan_arr ..)

@[simp] theorem updBkt_splits (p e : Nat) (f : Bkt → Bkt) (s : State) : splits (updBkt p e f s) = splits s := splits_of_arr (updBkt_arr ..)

@[simp] theorem closeCheck_splits (p : Nat) (s : State) : splits (closeCheck p s) = splits s := by
  simp only [closeCheck]
  split <;> simp

@[simp] theorem lrLoose_splits (x : Plan) (b : Bkt) (s : State) : splits (lrLoose x b s) = splits s := by simp [lrLoose]

@[simp] theorem endContrib_splits (b : Bkt) (s : State) : splits (endContrib b s) = splits s := by
  simp only [endContrib]
  split <;> simp

@[simp] theorem completeBkt_splits (p e : Nat) (st : BktState) (s : State) : splits (completeBkt p e st s) = splits s := by
  simp only [completeBkt]
  split <;> simp

@[simp] theorem sendAbandon_splits (x : Plan) (b : Bkt) (cause : Nat) (missing : Option Nat) (s : State) :
    splits (sendAbandon x b cause missing s) = splits s := by
  simp [sendAbandon]

@[simp] theorem abandonBkt_splits (p e cause : Nat) (missing : Option Nat) (s : State) : splits (abandonBkt p e cause missing s) = splits s := by
  simp only [abandonBkt]
  split <;> simp

@[simp] theorem abandonAll_splits (cause : Nat) (s : State) : splits (abandonAll cause s) = splits s := by
  refine splits_foldl (fun s kv => splits_foldl (fun s e => ?_) _ s) _ s
  split <;> simp

@[simp] theorem dropPlan_splits (st : Byte) (p : Nat) (s : State) : splits (dropPlan st p s) = splits s := by
  simp only [dropPlan]
  split
  · rfl
  · rw [splits_mk, splitReq_splitApplied, splits_foldl, splits_foldl]
    · simp
    · intro s j
      split <;> simp

@[simp] theorem dropPlansOf_splits (st : Byte) (c : Nat) (s : State) : splits (dropPlansOf st c s) = splits s := by simp [dropPlansOf]

@[simp] theorem dropAllPlans_splits (st : Byte) (s : State) : splits (dropAllPlans st s) = splits s := by simp [dropAllPlans]

/-! ## Packets -/

@[simp] theorem updQueue_splits (g : Nat) (f : Queue → Queue) (s : State) : splits (updQueue g f s) = splits s := splits_of_arr (updQueue_arr ..)

@[simp] theorem writeCounts_splits (g : Nat) (s : State) : splits (writeCounts g s).1 = splits s := by
  simp only [writeCounts]
  split <;> simp

@[simp] theorem writeFlags_splits (g : Nat) (s : State) : splits (writeFlags g s).1 = splits s := by
  simp only [writeFlags]
  split <;> simp

@[simp] theorem takeRing_splits (g : Nat) (slots : Nat) (s : State) : splits (takeRing g slots s).1 = splits s := by simp [takeRing]

@[simp] theorem noteReady_splits (s : State) : splits (noteReady s) = splits s := by simp [noteReady]

theorem runNow_splits {checks : State → Packet → Checks} {effect : Packet → State → State × Result}
    (h : ∀ p s, splits (effect p s).1 = splits s) (uid : Nat) (p : Packet) (s : State) : splits (runNow checks effect uid p s) = splits s := by
  simp only [runNow]
  split <;> simp [h]

theorem runNowData_splits {checks : State → Packet → Checks} {effect : Packet → State → State × Result × List Byte}
    (h : ∀ p s, splits (effect p s).1 = splits s) (uid : Nat) (p : Packet) (s : State) : splits (runNowData checks effect uid p s) = splits s := by
  simp only [runNowData]
  split <;> simp [h]

/-! ## Abort -/

@[simp] theorem freeEntry_splits (tid : Nat) (s : State) : splits (freeEntry tid s) = splits s := splits_of_arr (freeEntry_arr ..)

@[simp] theorem lateDrop_splits (c : Option Nat) (s : State) : splits (lateDrop c s) = splits s := by
  simp only [lateDrop]
  split <;> simp

@[simp] theorem forceFree_splits (p : Entry → Bool) (s : State) : splits (forceFree p s).1 = splits s := by simp [forceFree]

@[simp] theorem failTransfer_splits (uid n : Nat) (tid : Option Nat) (r : Result) (s : State) : splits (failTransfer uid n tid r s) = splits s := by
  simp only [failTransfer]
  split <;> simp

@[simp] theorem failEntry_splits (tid : Nat) (e : Entry) (r : Result) (s : State) : splits (failEntry tid e r s) = splits s := by
  simp only [failEntry]
  repeat' split
  all_goals simp

@[simp] theorem tklInterrupt_splits (res : TklRun → Result) (s : State) : splits (tklInterrupt res s) = splits s := by
  simp only [tklInterrupt]
  split <;> simp

@[simp] theorem tklRelease_splits (s : State) : splits (tklRelease s) = splits s := by simp [tklRelease]

@[simp] theorem drainRing_splits (g fuel : Nat) (s : State) : splits (drainRing g fuel s) = splits s := by
  induction fuel generalizing s with
  | zero => rfl
  | succ fuel ih =>
    simp only [drainRing]
    repeat' split
    all_goals simp [ih]

@[simp] theorem mapTaken_splits (f : ArrRun → ArrRun) (s : State) : splits (mapTaken f s) = splits s := by
  rw [mapTaken]
  rfl

@[simp] theorem abortJobs_splits (c : Nat) (st : Byte) (s : State) : splits (abortJobs c st s) = splits s := by simp [abortJobs]

@[simp] theorem abortFetched_splits (c : Nat) (st : Byte) (s : State) : splits (abortFetched c st s) = splits s := by simp [abortFetched]

@[simp] theorem abortArray_splits (c : Nat) (st : Byte) (s : State) : splits (abortArray c st s) = splits s := by
  rw [abortArray]
  rfl

@[simp] theorem bumpGen_splits (c : Nat) (s : State) : splits (bumpGen c s) = splits s := by simp [bumpGen]

@[simp] theorem releaseUnits_splits (c : Nat) (st : Byte) (s : State) : splits (releaseUnits c st s) = splits s := by
  simp only [releaseUnits]
  split <;> simp

@[simp] theorem abortCtx_splits (c : Nat) (st : Byte) (s : State) : splits (abortCtx c st s) = splits s := by simp [abortCtx]

end Sys2Proof.Machine
end

section
/-! PROOFS. SPILL_SPLIT under faults, operands, the dispatcher and the registers (R170): of them only the write of the register touches the splits. -/

namespace Sys2Proof.Machine

/-! ## Errors -/

@[simp] theorem drivePins_splits (s : State) : splits (drivePins s) = splits s := by simp [drivePins]

@[simp] theorem stopManagement_splits (s : State) : splits (stopManagement s) = splits s := by simp [stopManagement]

@[simp] theorem evalLevels_splits (s : State) : splits (evalLevels s) = splits s := by simp [evalLevels]

@[simp] theorem recordService_splits (s : State) : splits (recordService s) = splits s := by simp [recordService]

@[simp] theorem switchDomains_splits (s : State) : splits (switchDomains s) = splits s := by simp [switchDomains]

@[simp] theorem spareOut_splits (p : Strand) (s : State) : splits (spareOut p s) = splits s := by
  simp only [spareOut]
  repeat' split
  all_goals simp

@[simp] theorem spareBack_splits (p : Strand) (s : State) : splits (spareBack p s) = splits s := by
  simp only [spareBack]
  split <;> simp

@[simp] theorem cutBank_splits (l : Nat) (s : State) : splits (cutBank l s) = splits s := by
  rw [cutBank, splits_foldl]
  · simp
  · intro s j
    split
    · split
      · refine splits_foldl (fun s e => ?_) _ s
        split <;> simp
      · rfl
    · rfl

@[simp] theorem remapBank_splits (b : Nat) (s : State) : splits (remapBank b s) = splits s := by
  rw [remapBank]
  split
  · rfl
  · dsimp only
    split
    · rw [splits_mk, splitReq_splitApplied, poisonKeys_splits, cutBank_splits]
    · rw [splits_mk, splitReq_splitApplied, cutBank_splits]

@[simp] theorem retrain_splits (l : Nat) (s : State) : splits (retrain l s) = splits s := by simp [retrain]

@[simp] theorem closeLink_splits (l : Nat) (s : State) : splits (closeLink l s) = splits s := by
  rw [closeLink, splits_foldl]
  · simp
  · intro t v
    rw [splits_foldl]
    · split <;> simp
    · intro t o
      split <;> simp

@[simp] theorem stopArray_splits (st : Byte) (s : State) : splits (stopArray st s) = splits s := by simp [stopArray]

@[simp] theorem stopEngine_splits (n : Nat) (st : Byte) (s : State) : splits (stopEngine n st s) = splits s := by
  refine splits_foldl (fun s j => ?_) _ s
  split <;> simp

@[simp] theorem startCapture_splits (c : Capture) (s : State) : splits (startCapture c s) = splits s := by simp [startCapture]

@[simp] theorem fndBegin_splits (r : FndReq) (s : State) : splits (fndBegin r s) = splits s := by simp [fndBegin]

@[simp] theorem fndRequest_splits (r : FndReq) (s : State) : splits (fndRequest r s) = splits s := by
  simp only [fndRequest]
  split <;> simp

@[simp] theorem putStopper_splits (p : Strand) (k : StopKind) (inj : Bool) (s : State) : splits (putStopper p k inj s).1 = splits s := by
  simp only [putStopper]
  repeat' split
  all_goals simp

@[simp] theorem countFenceEvent_splits (p : Strand) (s : State) : splits (countFenceEvent p s) = splits s := splits_of_arr (countFenceEvent_arr ..)

@[simp] theorem unitLost_splits (p : Strand) (s : State) : splits (unitLost p s) = splits s := by simp [unitLost]

@[simp] theorem deriveUp_splits (fuel : Nat) (p : Strand) (s : State) : splits (deriveUp fuel p s).1 = splits s := by
  induction fuel generalizing p s with
  | zero => rfl
  | succ fuel ih =>
    simp only [deriveUp]
    split
    · rfl
    · split <;> simp [ih]

@[simp] theorem setStopper_splits (fuel : Nat) (p : Strand) (k : StopKind) (inj : Bool) (s : State) :
    splits (setStopper fuel p k inj s).1 = splits s := by
  induction fuel generalizing p k s with
  | zero => rfl
  | succ fuel ih =>
    simp only [setStopper]
    repeat' split
    all_goals simp [ih]

@[simp] theorem levelsAfter_splits (s : State) : splits (levelsAfter s) = splits s := by simp [levelsAfter]

@[simp] theorem recordStop_splits (sev inj src : Nat) (st : Nat × StopKind) (s : State) : splits (recordStop sev inj src st s) = splits s := by
  simp [recordStop]

@[simp] theorem releaseUp_splits (fuel : Nat) (p : Strand) (s : State) : splits (releaseUp fuel p s) = splits s := by
  induction fuel generalizing p s with
  | zero => rfl
  | succ fuel ih =>
    simp only [releaseUp]
    repeat' split
    all_goals simp [ih]

@[simp] theorem unitBack_splits (p : Strand) (s : State) : splits (unitBack p s) = splits s := by simp [unitBack]

@[simp] theorem recordRemap_splits (u : Strand) (b : Nat) (r : Strand) (rb : Nat) (s : State) : splits (recordRemap u b r rb s) = splits s := by
  simp [recordRemap]

@[simp] theorem failUnit_splits (u : Strand) (k : StopKind) (inj : Bool) (s : State) : splits (failUnit u k inj s).1 = splits s := by
  simp only [failUnit]
  repeat' split
  · simp
  · simp
  · rw [splits_foldl (by simp), splits_mk, splitReq_splitApplied, poisonKeys_splits, setStopper_splits]
  · simp
  · simp

@[simp] theorem fenceUnit_splits (k : StopKind) (p : Strand) (s : State) : splits (fenceUnit k p s).1 = splits s := by
  rw [fenceUnit]
  split <;> simp

@[simp] theorem copyBlock_splits (u : Strand) (b : Nat) (s : State) : splits (copyBlock u b s) = splits s := by simp [copyBlock]

@[simp] theorem strikeBlock_splits (u : Strand) (b : Nat) (moved : Bool) (s : State) : splits (strikeBlock u b moved s) = splits s := by
  simp [strikeBlock]

@[simp] theorem fenceBlock_splits (u0 : Strand) (b0 : Nat) (keep inj : Bool) (s : State) : splits (fenceBlock u0 b0 keep inj s).1 = splits s := by
  simp only [fenceBlock]
  repeat' split
  all_goals simp

@[simp] theorem correctedBlock_splits (u : Strand) (b : Nat) (inj : Bool) (s : State) : splits (correctedBlock u b inj s).1 = splits s := by
  simp [correctedBlock]

@[simp] theorem noteEvent_splits (p : Strand) (src cls : Nat) (inj rail dev : Bool) (stops : List (Nat × StopKind)) (s : State) :
    splits (noteEvent p src cls inj rail dev stops s) = splits s := by
  simp [noteEvent]

@[simp] theorem retireEntry_splits (tid : Nat) (s : State) : splits (retireEntry tid s) = splits s := by
  simp only [retireEntry]
  split <;> simp

@[simp] theorem objectHit_splits (obj : ErrObj) (s : State) : splits (objectHit obj s).1 = splits s := by
  simp only [objectHit]
  repeat' split
  all_goals simp

@[simp] theorem abortOrReset_splits (c : Nat) (st : Byte) (s : State) : splits (abortOrReset c st s) = splits s := by simp [abortOrReset]

@[simp] theorem deviceReaction_splits (failed : List Strand) (inj : Bool) (s : State) : splits (deviceReaction failed inj s).1 = splits s := by
  simp [deviceReaction]

@[simp] theorem poisonMerge_splits (n : Nat) (s : State) : splits (poisonMerge n s) = splits s := by simp [poisonMerge]

@[simp] theorem spillPoisoned_splits (n : Nat) (s : State) : splits (spillPoisoned n s) = splits s := by simp [spillPoisoned]

@[simp] theorem unitReaction_splits (p : Strand) (src : Nat) (obj : ErrObj) (inj : Bool) (s : State) :
    splits (unitReaction p src obj inj s).1 = splits s := by
  unfold unitReaction
  extract_lets +onlyGivenNames k isMem
  split
  · split <;> simp
  · split
    · simp
    · split
      · simp
      · simp
      · cases obj <;> simp
      · cases obj <;> simp
      · simp

@[simp] theorem railReaction_splits (d : Nat) (inj : Bool) (s : State) : splits (railReaction d inj s).1 = splits s := by simp [railReaction]

@[simp] theorem strikeEvent_splits (p : Strand) (src : Nat) (obj : ErrObj) (inj rail : Bool) (s : State) :
    splits (strikeEvent p src obj inj rail s) = splits s := by
  simp only [strikeEvent]
  repeat' split
  all_goals simp

@[simp] theorem fenceLines_splits (rows cols : List Nat) (inj : Bool) (s : State) : splits (fenceLines rows cols inj s) = splits s := by
  simp [fenceLines]

@[simp] theorem judgeCells_splits (cells : List (Nat × Nat)) (s : State) : splits (judgeCells cells s).1 = splits s := by simp [judgeCells]

@[simp] theorem endTest_splits (r : ArrRun) (s : State) : splits (endTest r s) = splits s := by simp [endTest]

@[simp] theorem endCutTest_splits (s : State) : splits (endCutTest s) = splits s := by
  simp only [endCutTest]
  split <;> simp

@[simp] theorem afterStoppers_splits (s : State) : splits (afterStoppers s) = splits s := by simp [afterStoppers]

@[simp] theorem raiseEvent_splits (p : Strand) (src : Nat) (obj : ErrObj) (inj rail : Bool) (s : State) :
    splits (raiseEvent p src obj inj rail s) = splits s := by
  simp [raiseEvent]

@[simp] theorem fireArmed_splits (p : Strand) (src : Nat) (obj : ErrObj) (s : State) : splits (fireArmed p src obj s) = splits s := by
  simp [fireArmed]

@[simp] theorem takeEntryFor_splits (c uid : Nat) (st : Strand) (req : Req) (row off len pa : Nat) (data : List PByte) (s : State) :
    splits (takeEntryFor c uid st req row off len pa data s).1 = splits s := by
  simp [takeEntryFor]

@[simp] theorem takeEntry_splits (j : Job) (st : Strand) (req : Req) (row off len pa : Nat) (data : List PByte) (s : State) :
    splits (takeEntry j st req row off len pa data s).1 = splits s := by
  simp [takeEntry]

@[simp] theorem passEntry_splits (c uid : Nat) (st : Strand) (s : State) : splits (passEntry c uid st s).1 = splits s := by simp [passEntry]

theorem runTracked_splits {st : Strand} {virt : Packet → Bool} {checks : State → Packet → Checks} {effect : Packet → State → State × Result}
    (h : ∀ p s, splits (effect p s).1 = splits s) (uid : Nat) (p : Packet) (s : State) :
    splits (runTracked st virt checks effect uid p s) = splits s := by
  simp only [runTracked]
  repeat' split
  all_goals simp [h, runNow_splits h]

@[simp] theorem sentTlp_splits (before s : State) : splits (sentTlp before s) = splits s := by simp [sentTlp]

@[simp] theorem fireOld_splits (before : State) (p : Strand) (src : Nat) (obj : ErrObj) (s : State) :
    splits (fireOld before p src obj s) = splits s := by
  simp [fireOld]

@[simp] theorem detectRead_splits (pa n : Nat) (s : State) : splits (detectRead pa n s) = splits s := by
  rw [detectRead]
  split
  · rfl
  · refine splits_foldl (fun s i => ?_) _ s
    dsimp only
    split <;> simp

@[simp] theorem reportTable_splits (f : AFault) (s : State) : splits (reportTable f s) = splits s := by
  simp only [reportTable]
  repeat' split
  all_goals simp

@[simp] theorem ringFault_splits (g : Nat) (s : State) : splits (ringFault g s) = splits s := by simp [ringFault]

/-! ## Operands -/

@[simp] theorem detectVa_splits (r : Reach) (c va n : Nat) (s : State) : splits (detectVa r c va n s) = splits s := by
  rw [detectVa]
  split
  · rfl
  · refine splits_foldl (fun s p => ?_) _ s
    split <;> simp

@[simp] theorem locWrite_splits (v : Env) (grant : Bool) (addr : Nat) (bs : List PByte) (s : State) :
    splits (locWrite v grant addr bs s).1 = splits s := by
  simp [locWrite]

@[simp] theorem locDetect_splits (v : Env) (grant : Bool) (addr n : Nat) (s : State) : splits (locDetect v grant addr n s) = splits s := by
  simp [locDetect]

@[simp] theorem detectT_splits (v : Env) (d : Desc) (rows cols : Nat) (s : State) : splits (detectT v d rows cols s) = splits s := by simp [detectT]

@[simp] theorem updateSlot_splits (slot : Option Nat) (t : Tally) (s : State) : splits (updateSlot slot t s) = splits s := by
  simp only [updateSlot]
  split <;> simp

@[simp] theorem writeGroup_splits (v : Env) (d : Desc) (cols : Nat) (g : List (Nat × List PEl)) (acc : State × WOut) :
    splits (writeGroup v d cols g acc).1 = splits acc.1 := by
  simp only [writeGroup]
  split
  · rfl
  · split
    · rfl
    · split
      · rw [splits_foldl_fst]
        intro acc row
        split
        · rfl
        · split <;> next h => exact splits_of_eq h (locWrite_splits ..)
      · rw [locWrite_splits, splits_foldl_fst]
        intro acc row
        split
        · rfl
        · split <;> next h => exact splits_of_eq h (locWrite_splits ..)

@[simp] theorem writeRows_splits (v : Env) (d : Desc) (cols : Nat) (slot : Option Nat) (rows : List (Nat × List PEl)) (s : State) :
    splits (writeRows v d cols slot rows s).1 = splits s := by
  simp [writeRows]

@[simp] theorem writeT_splits (v : Env) (d : Desc) (cols : Nat) (slot : Option Nat) (rows : List (List PEl)) (s : State) :
    splits (writeT v d cols slot rows s).1 = splits s := by
  simp [writeT]

@[simp] theorem faulted_splits (f : AFault) (s : State) : splits (faulted f s).1 = splits s := by simp [faulted]

/-! ## ArrayParams -/

@[simp] theorem loosenStage_splits (o : AOp) (s : State) : splits (loosenStage o s) = splits s := by
  simp only [loosenStage]
  split <;> simp

/-! ## Release -/

@[simp] theorem unregister_splits (g : Nat) (s : State) : splits (unregister g s) = splits s := by simp [unregister]

@[simp] theorem setGrant_splits (c first count : Nat) (s : State) : splits (setGrant c first count s) = splits s := splits_of_arr (setGrant_arr ..)

@[simp] theorem readFaulted_splits (g : Nat) (f : Option AFault) (s : State) : splits (readFaulted g f s) = splits s := by
  simp only [readFaulted]
  split <;> simp

@[simp] theorem noteConsumed_splits (g : Nat) (s : State) : splits (noteConsumed g s) = splits s := by
  rw [noteConsumed]
  split <;> next h => simpa using splits_of_eq h (writeCounts_splits g s)

@[simp] theorem noteFlags_splits (g : Nat) (s : State) : splits (noteFlags g s) = splits s := by
  rw [noteFlags]
  split <;> next h => simpa using splits_of_eq h (writeFlags_splits g s)

@[simp] theorem endGrant_splits (uid c first count : Nat) (s : State) : splits (endGrant uid c first count s) = splits s := by simp [endGrant]

@[simp] theorem releaseOne_splits (j : Job) (s : State) : splits (releaseOne j s) = splits s := by
  simp only [releaseOne]
  repeat' split
  all_goals simp

@[simp] theorem answerBad_splits (s : State) : splits (answerBad s) = splits s := by
  refine splits_foldl (fun s kv => ?_) _ s
  split
  · rfl
  · split <;> simp

@[simp] theorem releaseWaits_splits (s : State) : splits (releaseWaits s) = splits s := by simp [releaseWaits]

@[simp] theorem endWait_splits (g : Nat) (s : State) : splits (endWait g s) = splits s := by
  refine splits_foldl (fun s j => ?_) _ s
  split <;> simp

@[simp] theorem discardRing_splits (g fuel : Nat) (s : State) : splits (discardRing g fuel s).1 = splits s := by
  induction fuel generalizing s with
  | zero => rfl
  | succ fuel ih =>
    simp only [discardRing]
    repeat' split
    all_goals simp [ih]

@[simp] theorem leaveArray_splits (uids : List Nat) (s : State) : splits (leaveArray uids s) = splits s := by
  rw [leaveArray]
  rfl

@[simp] theorem stopQueue_splits (g : Nat) (s : State) : splits (stopQueue g s).1 = splits s := by simp [stopQueue]

@[simp] theorem freeCtx_splits (c : Nat) (s : State) : splits (freeCtx c s) = splits s := by simp [freeCtx]

/-! ## QueueEvents -/

@[simp] theorem doorbellError_splits (g : Nat) (q : Queue) (s : State) : splits (doorbellError g q s) = splits s := by simp [doorbellError]

@[simp] theorem ringDoorbell_splits (g : Nat) (tail : Word) (s : State) : splits (ringDoorbell g tail s) = splits s := by
  simp only [ringDoorbell]
  split <;> simp

@[simp] theorem acceptPacket_splits (uid : Nat) (p : Packet) (s : State) : splits (acceptPacket uid p s) = splits s := by simp [acceptPacket]

@[simp] theorem writeReply_splits (q : Queue) (j : Job) (r : Result) (s : State) : splits (writeReply q j r s).1 = splits s := by simp [writeReply]

@[simp] theorem signalDone_splits (q : Queue) (j : Job) (r : Result) (s : State) : splits (signalDone q j r s) = splits s := by
  simp only [signalDone]
  repeat' split
  all_goals simp

@[simp] theorem irqDone_splits (q : Queue) (j : Job) (s : State) : splits (irqDone q j s) = splits s := by
  simp only [irqDone]
  repeat' split
  all_goals simp

@[simp] theorem completionFault_splits (g : Nat) (f : Option AFault) (s : State) : splits (completionFault g f s) = splits s := by
  simp only [completionFault]
  split <;> simp

@[simp] theorem freeDestroyed_splits (j : Job) (r : Result) (s : State) : splits (freeDestroyed j r s) = splits s := by simp [freeDestroyed]

@[simp] theorem completeQueue_splits (g : Nat) (j : Job) (r : Result) (s : State) : splits (completeQueue g j r s) = splits s := by
  simp only [completeQueue]
  split <;> simp

@[simp] theorem completePort_splits (tag : Byte) (j : Job) (r : Result) (s : State) : splits (completePort tag j r s) = splits s := by
  simp [completePort]

@[simp] theorem completeLink_splits (dev : BitVec 14) (ctx gen : BitVec 16) (xferTag : Word) (tag : Byte) (back : Option Nat) (j : Job)
    (r : Result) (s : State) : splits (completeLink dev ctx gen xferTag tag back j r s) = splits s := by
  simp only [completeLink]
  split <;> simp

/-! ## Registers -/

@[simp] theorem writeIrqEnable_splits (v : Word) (s : State) : splits (writeIrqEnable v s) = splits s := by simp [writeIrqEnable]

@[simp] theorem setDeviceId_splits (id : BitVec 14) (s : State) : splits (setDeviceId id s) = splits s := by simp [setDeviceId]

@[simp] theorem writeRoute_splits (d : Nat) (v : BitVec 16) (s : State) : splits (writeRoute d v s) = splits s := by simp [writeRoute]

@[simp] theorem writeBase_splits (b : Nat) (s : State) : splits (writeBase b s) = splits s := by simp [writeBase]

@[simp] theorem clearSticky_splits (v : Word) (s : State) : splits (clearSticky v s) = splits s := by
  simp only [clearSticky]
  split <;> simp

@[simp] theorem writeCaptCtl_splits (v : Word) (s : State) : splits (writeCaptCtl v s) = splits s := by simp [writeCaptCtl]

@[simp] theorem mboxStart_splits (s : State) : splits (mboxStart s) = splits s := by simp [mboxStart]

@[simp] theorem writeMboxCtl_splits (v : Word) (s : State) : splits (writeMboxCtl v s) = splits s := by simp [writeMboxCtl]

@[simp] theorem writeMsix_splits (o : Nat) (v : Word) (s : State) : splits (writeMsix o v s) = splits s := by
  simp only [writeMsix]
  split <;> simp

@[simp] theorem controlRead_splits (off n : Nat) (s : State) : splits (controlRead off n s).1 = splits s := by simp [controlRead]

/-! ## Transfers -/

@[simp] theorem setEngine_splits (uid n : Nat) (f : XferEngine → XferEngine) (s : State) : splits (setEngine uid n f s) = splits s := by
  simp [setEngine]

@[simp] theorem failLeg_splits (uid n : Nat) (tid : Option Nat) (r : Result × Option AFault) (s : State) :
    splits (failLeg uid n tid r s) = splits s := by
  simp only [failLeg]
  split <;> simp

@[simp] theorem endTransfer_splits (uid n : Nat) (tid : Option Nat) (dstAddr len : Nat) (bs : List PByte) (s : State) :
    splits (endTransfer uid n tid dstAddr len bs s) = splits s := by
  simp only [endTransfer]
  repeat' split
  all_goals simp

@[simp] theorem holdEntry_splits (j : Job) (n : Nat) (tid : Option Nat) (req : Req) (row off len pa : Nat) (bs : List PByte) (s : State) :
    splits (holdEntry j n tid req row off len pa bs s).1 = splits s := by
  simp only [holdEntry]
  split <;> simp

@[simp] theorem flyEntry_splits (j : Job) (n : Nat) (h : State × Nat) : splits (flyEntry j n h) = splits h.1 := by
  rw [flyEntry]
  split <;> simp

@[simp] theorem sendReq_splits (dev : BitVec 14) (m : Msg) (s : State) : splits (sendReq dev m s).1 = splits s := by simp [sendReq]

@[simp] theorem sendRequest_splits (j : Job) (n tid : Nat) (dev : BitVec 14) (m : Msg) (s : State) :
    splits (sendRequest j n tid dev m s) = splits s := by
  simp [sendRequest]

@[simp] theorem hostStore_splits (key : Nat) (bs : List PByte) (s : State) : splits (hostStore key bs s) = splits s := by simp [hostStore]

@[simp] theorem hostAsk_splits (key len : Nat) (s : State) : splits (hostAsk key len s) = splits s := by simp [hostAsk]

@[simp] theorem sendSignal_splits (uid : Nat) (s : State) : splits (sendSignal uid s) = splits s := by
  simp only [sendSignal]
  split <;> simp

@[simp] theorem runRemoteSignal_splits (uid : Nat) (p : Packet) (s : State) : splits (runRemoteSignal uid p s) = splits s := by
  simp only [runRemoteSignal]
  split <;> simp

@[simp] theorem endUnmaps_splits (s : State) : splits (endUnmaps s) = splits s := by
  refine splits_foldl (fun s j => ?_) _ s
  split <;> simp

@[simp] theorem eccEvent_splits (pa : Nat) (ecc : Ecc) (s : State) : splits (eccEvent pa ecc s) = splits s := by
  simp only [eccEvent]
  split <;> simp

@[simp] theorem mergeErrors_splits (pa n : Nat) (ecc : Ecc) (s : State) : splits (mergeErrors pa n ecc s) = splits s := by
  simp only [mergeErrors]
  split <;> simp

@[simp] theorem writeAccepted_splits (tid : Nat) (e : Entry) (ecc : Ecc) (s : State) : splits (writeAccepted tid e ecc s) = splits s := by
  simp only [writeAccepted]
  repeat' split
  all_goals simp

end Sys2Proof.Machine
end

section
/-! PROOFS. SPILL_SPLIT under messages, links, resets, captures and the host (R170). -/

namespace Sys2Proof.Machine

/-! ## Messages -/

theorem takeArrival_splits {l v : Nat} {b : List Byte} {s : State} {r : Arrival × State} (h : takeArrival l v b s = some r) :
    splits r.2 = splits s := by
  rw [takeArrival, Option.map_eq_some_iff] at h
  obtain ⟨a, -, rfl⟩ := h
  simp

@[simp] theorem windowEffect_splits (p : Packet) (s : State) : splits (windowEffect p s).1 = splits s := by simp [windowEffect]

@[simp] theorem updWindow_splits (w : Nat) (f : Window → Window) (s : State) : splits (updWindow w f s) = splits s :=
  splits_of_arr (updWindow_arr ..)

@[simp] theorem runRevoke_splits (uid : Nat) (p : Packet) (s : State) : splits (runRevoke uid p s) = splits s := by
  simp only [runRevoke]
  split <;> simp

@[simp] theorem requestReport_splits (s : State) (m : Msg) : splits (requestReport s m) = splits s := by
  simp only [requestReport]
  repeat' split
  all_goals simp

@[simp] theorem performRequest_splits (w : Window) (m : Msg) (s : State) : splits (performRequest w m s) = splits s := by
  simp only [performRequest]
  repeat' split
  all_goals simp

@[simp] theorem hitchRequest_splits (m : Msg) (s : State) : splits (hitchRequest m s) = splits s := by
  simp only [hitchRequest]
  split <;> simp

@[simp] theorem heldAnswered_splits (w : Nat) (s : State) : splits (heldAnswered w s) = splits s := by simp [heldAnswered]

@[simp] theorem endRevokes_splits (s : State) : splits (endRevokes s) = splits s := by
  refine splits_foldl (fun s j => ?_) _ s
  split <;> simp

@[simp] theorem retryHeld_splits (s : State) : splits (retryHeld s) = splits s := by
  rw [retryHeld, endRevokes_splits]
  refine splits_foldl (fun s h => ?_) _ s
  repeat' split
  all_goals simp

@[simp] theorem resetHeld_splits (s : State) : splits (resetHeld s) = splits s := by simp [resetHeld]

@[simp] theorem ackEntry_splits (tid : Nat) (e : Entry) (s : State) : splits (ackEntry tid e s) = splits s := by
  simp only [ackEntry]
  repeat' split
  all_goals simp

@[simp] theorem negEntry_splits (m : Msg) (tid : Nat) (e : Entry) (s : State) : splits (negEntry m tid e s) = splits s := by
  simp only [negEntry]
  split <;> simp

@[simp] theorem mgtAnswer_splits (a : Arrival) (v : Nat) (m r : Msg) (s : State) : splits (mgtAnswer a v m r s) = splits s := by simp [mgtAnswer]

@[simp] theorem mgtRequest_splits (a : Arrival) (m : Msg) (s : State) : splits (mgtRequest a m s) = splits s := by
  simp only [mgtRequest]
  repeat' split
  all_goals simp

/-! ## Links -/

@[simp] theorem takeArmed_splits (l src : Nat) (s : State) : splits (takeArmed l src s).1 = splits s := by simp [takeArmed]

@[simp] theorem sendSequenced_splits (l ftype vc : Nat) (start : Option FlitStart) (payload : List Byte) (s : State) :
    splits (sendSequenced l ftype vc start payload s) = splits s := by
  simp [sendSequenced]

@[simp] theorem sendNak_splits (l : Nat) (s : State) : splits (sendNak l s) = splits s := by simp [sendNak]

@[simp] theorem sendAudit_splits (l : Nat) (s : State) : splits (sendAudit l s) = splits s := by simp [sendAudit]

@[simp] theorem auditIfReady_splits (l : Nat) (s : State) : splits (auditIfReady l s) = splits s := by simp [auditIfReady]

@[simp] theorem upIfAudited_splits (l : Nat) (s : State) : splits (upIfAudited l s) = splits s := by simp [upIfAudited]

@[simp] theorem lanesLocked_splits (l : Nat) (s : State) : splits (lanesLocked l s) = splits s := by simp [lanesLocked]

@[simp] theorem fenceLink_splits (l : Nat) (s : State) : splits (fenceLink l s) = splits s := by simp [fenceLink]

@[simp] theorem protocolError_splits (l : Nat) (s : State) : splits (protocolError l s) = splits s := by simp [protocolError]

@[simp] theorem sendTrain_splits (l : Nat) (s : State) : splits (sendTrain l s) = splits s := by simp [sendTrain]

@[simp] theorem alterRun_splits (l v : Nat) (b : List Byte) (s : State) : splits (alterRun l v b s).1 = splits s := by simp [alterRun]

@[simp] theorem startSend_splits (l v : Nat) (s : State) : splits (startSend l v s) = splits s := by
  simp only [startSend]
  split <;> simp

@[simp] theorem sendFlit_splits (l v : Nat) (s : State) : splits (sendFlit l v s) = splits s := by
  simp only [sendFlit]
  split <;> simp

@[simp] theorem flitTurn_splits (l v : Nat) (s : State) : splits (flitTurn l v s) = splits s := by simp [flitTurn]

@[simp] theorem sendUntil_splits (fuel : Nat) (done : State → Bool) (l : Nat) (s : State) : splits (sendUntil fuel done l s) = splits s := by
  induction fuel generalizing s with
  | zero => rfl
  | succ fuel ih =>
    simp only [sendUntil]
    repeat' split
    all_goals simp [ih]

@[simp] theorem resume_splits (l : Nat) (s : State) : splits (resume l s) = splits s := by simp [resume]

@[simp] theorem takeAck_splits (l ack : Nat) (s : State) : splits (takeAck l ack s) = splits s := by simp [takeAck]

@[simp] theorem takeCredit_splits (l : Nat) (f : List Byte) (s : State) : splits (takeCredit l f s) = splits s := by simp [takeCredit]

theorem onFlit_splits {l ftype : Nat} {f : List Byte} {body : State → State} (h : ∀ s, splits (body s) = splits s) (s : State) :
    splits (onFlit l ftype f body s) = splits s := by simp [onFlit, h]

theorem inSequence_splits {l : Nat} {f : List Byte} {body : State → State} (h : ∀ s, splits (body s) = splits s) (s : State) :
    splits (inSequence l f body s) = splits s := by simp [inSequence, h]

@[simp] theorem nakBody_splits (l : Nat) (f : List Byte) (s : State) : splits (nakBody l f s) = splits s := by simp [nakBody]

@[simp] theorem auditBody_splits (l : Nat) (f : List Byte) (s : State) : splits (auditBody l f s) = splits s := by
  simp only [auditBody]
  repeat' split
  all_goals simp

@[simp] theorem unroutable_splits (l v : Nat) (b : List Byte) (s : State) : splits (unroutable l v b s) = splits s := by simp [unroutable]

@[simp] theorem arrived_splits (l v : Nat) (o : Outbound) (s : State) : splits (arrived l v o s) = splits s := by
  simp only [arrived]
  repeat' split
  all_goals simp

@[simp] theorem addBytes_splits (l v : Nat) (bs : List Byte) (s : State) : splits (addBytes l v bs s) = splits s := by
  simp only [addBytes]
  split <;> simp

@[simp] theorem startMessage_splits (l v : Nat) (f : List Byte) (s : State) : splits (startMessage l v f s) = splits s := by simp [startMessage]

@[simp] theorem dataBody_splits (l : Nat) (f : List Byte) (s : State) : splits (dataBody l f s) = splits s := by simp [dataBody]

/-! ## Service -/

@[simp] theorem recordStops_splits (sev : Nat) (stops : List (Nat × StopKind)) (s : State) : splits (recordStops sev stops s) = splits s := by
  simp [recordStops]

@[simp] theorem summaryFault_splits (p : Strand) (s : State) : splits (summaryFault p s) = splits s := by simp [summaryFault]

@[simp] theorem recordEvent_splits (e : NewEvent) (s : State) : splits (recordEvent e s) = splits s := by simp [recordEvent]

@[simp] theorem unfence_splits (q : Strand) (s : State) : splits (unfence q s) = splits s := by simp [unfence]

@[simp] theorem commitEffect_splits (p : Packet) (s : State) : splits (commitEffect p s).1 = splits s := by simp [commitEffect]

@[simp] theorem markEffect_splits (p : Packet) (s : State) : splits (markEffect p s).1 = splits s := by simp [markEffect]

@[simp] theorem readLogEffect_splits (p : Packet) (s : State) : splits (readLogEffect p s).1 = splits s := by
  simp only [readLogEffect]
  split
  · split <;> next h => exact splits_of_eq h (vaWrite_splits ..)
  · rfl

@[simp] theorem limitEffect_splits (p : Packet) (s : State) : splits (limitEffect p s).1 = splits s := by simp [limitEffect]

/-! ## Resets -/

@[simp] theorem cutWork_splits (q : Strand) (s : State) : splits (cutWork q s).1 = splits s := by simp [cutWork]

@[simp] theorem bumpStrands_splits (q : Strand) (s : State) : splits (bumpStrands q s) = splits s := by simp [bumpStrands]

@[simp] theorem setPhase_splits (n : Nat) (s : State) : splits (setPhase n s) = splits s := splits_of_arr (setPhase_arr ..)

@[simp] theorem updRun_splits (f : FndRun → FndRun) (s : State) : splits (updRun f s) = splits s := splits_of_arr (updRun_arr ..)

@[simp] theorem discardRun_splits (st : Byte) (s : State) (r : ArrRun) : splits (discardRun st s r) = splits s := by
  simp only [discardRun]
  split
  · simp
  · rw [splits_foldl]
    · split <;> simp
    · intro s u
      split <;> simp

@[simp] theorem discardTile_splits (st : Byte) (s : State) : splits (discardTile st s) = splits s := by
  rw [discardTile]
  cases s.arr.run <;> cases s.arr.next <;> simp

@[simp] theorem stopPhase_splits (r : FndRun) (s : State) : splits (stopPhase r s) = splits s := by simp [stopPhase]

@[simp] theorem drainPhase_splits (r : FndRun) (s : State) : splits (drainPhase r s) = splits s := by simp [drainPhase]

@[simp] theorem clearTierS_splits (s : State) : splits (clearTierS s) = splits s := by simp [clearTierS]

@[simp] theorem resetEndpoint_splits (s : State) : splits (resetEndpoint s) = splits s := by simp [resetEndpoint]

@[simp] theorem interruptStaging_splits (s : State) : splits (interruptStaging s) = splits s := by simp [interruptStaging]

@[simp] theorem resetPhase_splits (r : FndRun) (s : State) : splits (resetPhase r s) = splits s := by simp [resetPhase]

@[simp] theorem flushZero_splits (s : State) : splits (flushZero s) = splits s := by simp [flushZero]

@[simp] theorem restoreContexts_splits (s : State) : splits (restoreContexts s) = splits s := by simp [restoreContexts]

@[simp] theorem restoreLinks_splits (ns : List Nat) (s : State) : splits (restoreLinks ns s) = splits s := by simp [restoreLinks]

/-! ## Captures -/

@[simp] theorem endSnarl_splits (named : Nat) (set : List Nat) (s : State) : splits (endSnarl named set s) = splits s := by simp [endSnarl]

@[simp] theorem declareSnarl_splits (set : List Nat) (s : State) : splits (declareSnarl set s) = splits s := by simp [declareSnarl]

@[simp] theorem recordStall_splits (c : Nat) (set : List Nat) (s : State) : splits (recordStall c set s) = splits s := by simp [recordStall]

@[simp] theorem stallCheck_splits (snarled : List Nat) (c : Nat) (s : State) : splits (stallCheck snarled c s) = splits s := by
  simp only [stallCheck]
  repeat' split
  all_goals simp

@[simp] theorem stallChecks_splits (s : State) : splits (stallChecks s) = splits s := by simp [stallChecks]

@[simp] theorem writeSnapshot_splits (c : Capture) (silent : List SilentEngine) (s : State) : splits (writeSnapshot c silent s) = splits s := by
  simp [writeSnapshot]

@[simp] theorem writeSummary_splits (c : Capture) (silent : List SilentEngine) (s : State) : splits (writeSummary c silent s) = splits s := by
  simp [writeSummary]

/-! ## Host -/

@[simp] theorem apertureStore_splits (pa : Nat) (bs : List PByte) (s : State) : splits (apertureStore pa bs s).1 = splits s := by simp [apertureStore]

@[simp] theorem mboxFinish_splits (j : Job) (r : Result) (s : State) : splits (mboxFinish j r s) = splits s := by simp [mboxFinish]

@[simp] theorem sendPending_splits (s : State) : splits (sendPending s) = splits s := by simp [sendPending]

@[simp] theorem linkReset_splits (s : State) : splits (linkReset s) = splits s := by simp [linkReset]

/-! ## Firmware -/

@[simp] theorem writeSlot_splits (img : List Byte) (readBackOk : Bool) (s : State) : splits (writeSlot img readBackOk s) = splits s := by
  simp [writeSlot]

@[simp] theorem activateSlot_splits (b : Bool) (s : State) : splits (activateSlot b s) = splits s := by simp [activateSlot]

@[simp] theorem runStage_splits (readBackOk : Bool) (uid : Nat) (p : Packet) (s : State) : splits (runStage readBackOk uid p s) = splits s := by
  simp only [runStage]
  repeat' split
  all_goals simp

@[simp] theorem giveBytes_splits (p : Packet) (w : Nat) (bs : List Byte) (s : State) : splits (giveBytes p w bs s).1 = splits s := by simp [giveBytes]

@[simp] theorem identEffect_splits (p : Packet) (s : State) : splits (identEffect p s).1 = splits s := by simp [identEffect]

@[simp] theorem attestEffect_splits (p : Packet) (s : State) : splits (attestEffect p s).1 = splits s := by simp [attestEffect]

end Sys2Proof.Machine
end

section
/-! PROOFS. SPILL_SPLIT under the array and the engines (R170, R171). -/

namespace Sys2Proof.Machine

/-! ## ArrayMap -/

@[simp] theorem rebuildMap_splits (s : State) : splits (rebuildMap s) = splits s := by simp [rebuildMap]

/-! ## Vector -/

@[simp] theorem afterWrite_splits (r : State × WOut) : splits (afterWrite r) = splits r.1 := by
  rw [afterWrite]
  split <;> simp

@[simp] theorem vecRows_splits (p : Packet) (cols : Nat) (f : List (List PEl) → List (List PEl)) (s : State) :
    splits (vecRows p cols f s).1 = splits s := by
  rw [vecRows]
  split <;> simp

@[simp] theorem vecMapEffect_splits (p : Packet) (s : State) : splits (vecMapEffect p s).1 = splits s := by
  simp only [vecMapEffect]
  split <;> simp

@[simp] theorem normEffect_splits (p : Packet) (s : State) : splits (normEffect p s).1 = splits s := by
  simp only [normEffect]
  split <;> simp

@[simp] theorem convertEffect_splits (p : Packet) (s : State) : splits (convertEffect p s).1 = splits s := by
  simp only [convertEffect]
  split
  · simp
  · split <;> simp

@[simp] theorem orthoEffect_splits (p : Packet) (s : State) : splits (orthoEffect p s).1 = splits s := by
  rw [orthoEffect]
  split <;> simp

@[simp] theorem summaryEffect_splits (p : Packet) (s : State) : splits (summaryEffect p s).1 = splits s := by
  simp only [summaryEffect]
  split <;> simp

/-! ## Gather -/

@[simp] theorem gatherEffect_splits (p : Packet) (s : State) : splits (gatherEffect p s).1 = splits s := by
  simp only [gatherEffect]
  split
  · split <;> simp
  · simp
  · simp

@[simp] theorem addRows_splits (p : Packet) (rows : List (Nat × List PEl)) (s : State) : splits (addRows p rows s).1 = splits s := by
  rw [addRows, splits_foldl_fst]
  intro acc x
  split
  · rfl
  · split <;> simp

@[simp] theorem scatterEffect_splits (p : Packet) (s : State) : splits (scatterEffect p s).1 = splits s := by
  rw [scatterEffect]
  split
  · simp
  · dsimp only
    split
    · split
      · simp
      · split <;> simp
    · split
      · simp
      · split <;> simp

@[simp] theorem putWords_splits (v : Env) (addr : Nat) (ws : List Nat) (poison : Bool) (acc : State × Option AFault) :
    splits (putWords v addr ws poison acc).1 = splits acc.1 := by
  rw [putWords]
  split <;> simp

@[simp] theorem routeEffect_splits (p : Packet) (s : State) : splits (routeEffect p s).1 = splits s := by
  simp only [routeEffect]
  split
  · simp
  · dsimp only
    split <;> simp

@[simp] theorem writeRanked_splits (v : Env) (idxVa : Nat) (vals : Desc) (k : Nat) (slot : Option Nat) (rows : List (Nat × Ranked)) (s : State) :
    splits (writeRanked v idxVa vals k slot rows s).1 = splits s := by
  simp only [writeRanked]
  split <;> simp

@[simp] theorem topkEffect_splits (p : Packet) (s : State) : splits (topkEffect p s).1 = splits s := by
  simp only [topkEffect]
  split <;> simp

/-! ## ArrayOps -/

@[simp] theorem stateWrite_splits (v : Env) (va : Nat) (bs : List PByte) (s : State) : splits (stateWrite v va bs s).1 = splits s := by
  simp only [stateWrite]
  split <;> simp

@[simp] theorem addReady_splits (uid : Nat) (s : State) : splits (addReady uid s) = splits s := by simp [addReady]

@[simp] theorem joinBatch_splits (j : Job) (s : State) : splits (joinBatch j s) = splits s := by
  simp only [joinBatch]
  split <;> simp

@[simp] theorem offer_splits (uid : Nat) (p : Packet) (records : List Byte) (s : State) : splits (offer uid p records s) = splits s := by simp [offer]

@[simp] theorem runPlain_splits (kind : ArrKind) (uid : Nat) (p : Packet) (s : State) : splits (runPlain kind uid p s) = splits s := by
  simp only [runPlain]
  repeat' split
  all_goals simp

@[simp] theorem runPacked_splits (uid : Nat) (p : Packet) (s : State) : splits (runPacked uid p s) = splits s := by
  simp only [runPacked]
  repeat' split
  all_goals simp

@[simp] theorem runSelftest_splits (uid : Nat) (p : Packet) (s : State) : splits (runSelftest uid p s) = splits s := by
  simp only [runSelftest]
  split <;> simp

/-! ## ArrayFeed -/

@[simp] theorem seeOperands_splits (o : AOp) (t : Tile) (ks : List Nat) (f : Feed) (s : State) : splits (seeOperands o t ks f s) = splits s := by
  unfold seeOperands
  split
  · rfl
  · extract_lets one zmap inRows
    have one_splits (p : AProb) (d : Desc) (cols r c : Nat) (s : State) : splits (one p d cols r c s) = splits s := by
      simp [one]
    have zmap_splits (p : AProb) (i k : Nat) (s : State) : splits (zmap p i k s) = splits s := by
      simp only [zmap]
      split <;> simp
    have rows_splits : splits inRows = splits s := by
      simp [inRows, one_splits, zmap_splits]
    simp [one_splits, rows_splits]

/-! ## ArrayStart -/

@[simp] theorem reportFaults_splits (fs : List (Nat × Nat × AFault)) (s : State) : splits (reportFaults fs s) = splits s := by simp [reportFaults]

@[simp] theorem setRun_splits (r : ArrRun) (s : State) : splits (setRun r s) = splits s := by simp [setRun]

@[simp] theorem seeStarts_splits (o : AOp) (t : Tile) (s : State) : splits (seeStarts o t s) = splits s := by simp [seeStarts]

@[simp] theorem turnover_splits (before : State) (o : AOp) (n : Nat) (r : ArrRun) (s : State) : splits (turnover before o n r s) = splits s := by
  simp [turnover]

@[simp] theorem enterArray_splits (r : ArrRun) (s : State) : splits (enterArray r s) = splits s := by
  rw [enterArray]
  split
  · simp
  · split <;> simp

@[simp] theorem leaveWaiting_splits (c : Candidate) (s : State) : splits (leaveWaiting c s) = splits s := by simp [leaveWaiting]

@[simp] theorem takeOp_splits (c : Candidate) (s : State) : splits (takeOp c s).1 = splits s := by
  simp only [takeOp]
  repeat' split
  all_goals simp

/-! ## ArrayDrain -/

@[simp] theorem countHeld_splits (o : AOp) (sr : State × ArrRun) : splits (countHeld o sr).1 = splits sr.1 := by
  rw [countHeld, splits_foldl_fst]
  intro a p
  simp

@[simp] theorem endRun_splits (o : AOp) (r : ArrRun) (stop : Option Byte) (hits : Nat → Bool) (s : State) :
    splits (endRun o r stop hits s) = splits s := by
  simp only [endRun]
  split
  · split <;> simp
  · rw [splits_foldl]
    · simp
    · intro s x
      split <;> simp

@[simp] theorem spillInjection_splits (s : State) : splits (spillInjection s).1 = splits s := by simp [spillInjection]

@[simp] theorem feederInjection_splits (s : State) : splits (feederInjection s) = splits s := by simp [feederInjection]

@[simp] theorem feederEntry_splits (o : AOp) (r : ArrRun) (s : State) : splits (feederEntry o r s).1 = splits s := by
  simp only [feederEntry]
  split <;> simp

@[simp] theorem readyRun_splits (o : AOp) (r : ArrRun) (s : State) : splits (readyRun o r s).1 = splits s := by simp [readyRun]

@[simp] theorem dropRun_splits (s : State) : splits (dropRun s) = splits s := by simp [dropRun]

@[simp] theorem promote_splits (before s : State) : splits (promote before s) = splits s := by
  simp only [promote]
  repeat' split
  all_goals simp

@[simp] theorem splits_ite_drain (c : Prop) [Decidable c] (a b : DAcc) : splits (if c then a else b).s = if c then splits a.s else splits b.s := by
  split <;> rfl

@[simp] theorem splits_foldl_drain {α : Type} {f : DAcc → α → DAcc} (h : ∀ a x, splits (f a x).s = splits a.s) (l : List α) (a : DAcc) :
    splits (l.foldl f a).s = splits a.s := foldl_keeps (P := fun a => splits a.s) h l a

@[simp] theorem segWrite_splits (v : Env) (d : Desc) (cols r c : Nat) (els : List El) (a : DAcc) :
    splits (segWrite v d cols r c els a).s = splits a.s := by
  rw [segWrite]
  split <;> simp

@[simp] theorem entriesWrite_splits (v : Env) (d : Desc) (i : Nat) (es : List (Nat × Bool)) (a : DAcc) :
    splits (entriesWrite v d i es a).s = splits a.s := by
  rw [entriesWrite]
  split <;> simp

@[simp] theorem drainRow_splits (v : Env) (d : Desc) (n p c0 : Nat) (all : Bool) (x : Nat × List DEl) (a : DAcc) :
    splits (drainRow v d n p c0 all x a).s = splits a.s := by
  rw [drainRow]
  split
  · rfl
  · split
    · simp [count]
    · dsimp only
      split <;> simp [count]

@[simp] theorem drainBand_splits (v : Env) (d : Desc) (m n p c0 : Nat) (all : Bool) (g : List (Nat × List DEl)) (a : DAcc) :
    splits (drainBand v d m n p c0 all g a).s = splits a.s := by
  unfold drainBand
  split
  · rfl
  · extract_lets +onlyGivenNames b bi w mine old before rows last whole
    split
    · rfl
    · extract_lets +onlyGivenNames bs els now written r others otherWords closed
      have kept : splits written.s = splits a.s := splits_foldl_drain (fun a x => segWrite_splits ..) now a
      split
      · exact kept
      · split
        · have closed_splits : splits closed.s = splits a.s := by
            simp only [closed]
            split
            · exact (entriesWrite_splits ..).trans kept
            · exact kept
          split <;> simp [count, closed_splits]
        · exact kept

@[simp] theorem drainRanked_splits (o : AOp) (q : AProb) (p c0 : Nat) (rows : List (Nat × List DEl)) (a : DAcc) :
    splits (drainRanked o q p c0 rows a).s = splits a.s := by
  simp only [drainRanked]
  split <;> simp

@[simp] theorem drainSave_splits (o : AOp) (q : AProb) (c0 : Nat) (rows : List (Nat × List (FV × Bool))) (a : DAcc) :
    splits (drainSave o q c0 rows a).s = splits a.s := by
  refine splits_foldl_drain (fun a x => ?_) rows a
  split <;> simp

@[simp] theorem drainProblem_splits (o : AOp) (t : Tile) (cells : List (List Drained)) (poisonAll : Bool) (p : Nat) (sr : State × ArrRun) :
    splits (drainProblem o t cells poisonAll p sr).1 = splits sr.1 := by
  unfold drainProblem
  extract_lets +onlyGivenNames q cs rows
  split
  · rfl
  · extract_lets c0 bad a0 els saved ds blank a counted reported r
    have drained : splits a.s = splits sr.1 := by
      simp only [a]
      split
      · exact drainSave_splits o q c0 els a0
      · split
        · split
          · exact drainRanked_splits ..
          · split
            · exact splits_foldl_drain (fun a g => drainBand_splits ..) _ a0
            · exact splits_foldl_drain (fun a x => drainRow_splits ..) _ a0
        · rfl
        · rfl
    have counted_splits : splits counted = splits sr.1 := by simp [counted, drained]
    show splits reported = splits sr.1
    simp only [reported]
    split <;> simp [counted_splits]

@[simp] theorem applyVerdict_splits (o : AOp) (v : Verdict) (inj : Bool) (s : State) : splits (applyVerdict o v inj s) = splits s := by
  simp [applyVerdict]

@[simp] theorem afterDrain_splits (before : State) (o : AOp) (r : ArrRun) (early : Option Byte) (v : Verdict) (s : State) :
    splits (afterDrain before o r early v s) = splits s := by
  unfold afterDrain
  extract_lets check stop hits
  split
  · simp
  · split
    · simp
    · split
      · simp
      · split
        · split <;> next h => simpa using splits_of_eq h (stateWrite_splits ..)
        · simp

@[simp] theorem drainTile_splits (o : AOp) (r : ArrRun) (upsets : List CellUpset) (s : State) : splits (drainTile o r upsets s) = splits s := by
  simp [drainTile]

/-! ## Attention -/

@[simp] theorem selectEffect_splits (p : Packet) (s : State) : splits (selectEffect p s).1 = splits s := by
  simp only [selectEffect]
  repeat' split
  all_goals simp

@[simp] theorem putFloats_splits (v : Env) (va : Nat) (es : List PEl) (acc : State × Option AFault) :
    splits (putFloats v va es acc).1 = splits acc.1 := by
  rw [putFloats]
  split <;> simp

@[simp] theorem fwdEffect_splits (p : Packet) (s : State) : splits (fwdEffect p s).1 = splits s := by
  simp only [fwdEffect]
  split
  · simp
  · dsimp only
    split <;> simp

@[simp] theorem splits_foldl_grad {α : Type} {f : GradAcc → α → GradAcc} (h : ∀ a x, splits (f a x).s = splits a.s) (l : List α) (a : GradAcc) :
    splits (l.foldl f a).s = splits a.s := foldl_keeps (P := fun a => splits a.s) h l a

@[simp] theorem addKeys_splits (v : Env) (x : Geo) (va h : Nat) (rows : List (Nat × List PEl)) (acc : GradAcc) :
    splits (addKeys v x va h rows acc).s = splits acc.s := by
  refine splits_foldl_grad (fun acc r => ?_) rows acc
  split
  · rfl
  · dsimp only
    split <;> simp

@[simp] theorem bwdEffect_splits (p : Packet) (s : State) : splits (bwdEffect p s).1 = splits s := by
  simp only [bwdEffect]
  split
  · simp
  · dsimp only
    split <;> simp

end Sys2Proof.Machine
end

section
/-! PROOFS. SPILL_SPLIT under contexts, power, management, Splice, the Tackle chip and the telltales (R170). -/

namespace Sys2Proof.Machine

/-! ## Contexts -/

@[simp] theorem runBarrier_splits (uid : Nat) (p : Packet) (s : State) : splits (runBarrier uid p s) = splits s := by
  simp only [runBarrier]
  split <;> simp

@[simp] theorem createEffect_splits (p : Packet) (s : State) : splits (createEffect p s).1 = splits s := by simp [createEffect]

@[simp] theorem beginDestroy_splits (c : Nat) (s : State) : splits (beginDestroy c s) = splits s := by simp [beginDestroy]

@[simp] theorem runDestroy_splits (uid : Nat) (p : Packet) (s : State) : splits (runDestroy uid p s) = splits s := by
  simp only [runDestroy]
  split <;> simp

@[simp] theorem endDestroy_splits (uid c forced : Nat) (byForce : Bool) (s : State) : splits (endDestroy uid c forced byForce s) = splits s := by
  simp [endDestroy]

theorem mapPages_splits {p : Packet} {s t : State} (h : mapPages p s = some t) : splits t = splits s := by
  have kept : ∀ u, mapPages p s = some u → splits u = splits s := by
    rw [mapPages]
    refine List.foldlRecOn (motive := fun acc => ∀ u, acc = some u → splits u = splits s) _ _ ?_ ?_
    · rintro _ ⟨⟩
      rfl
    · intro acc kept i _ u mapped
      obtain ⟨v, rfl, step⟩ := Option.bind_eq_some_iff.1 mapped
      exact (mapPage_splits step).trans (kept v rfl)
  exact kept t h

@[simp] theorem assignHitches_splits (c first count : Nat) (s : State) : splits (assignHitches c first count s) = splits s := by simp [assignHitches]

@[simp] theorem setPlacement_splits (first count : Nat) (stacked : Bool) (s : State) : splits (setPlacement first count stacked s) = splits s :=
  splits_of_arr (setPlacement_arr ..)

@[simp] theorem mapEffect_splits (p : Packet) (s : State) : splits (mapEffect p s).1 = splits s := by
  rw [mapEffect]
  split
  · cases mapped : mapPages p s with
    | none => simp
    | some t => simpa [mapped] using mapPages_splits mapped
  · simp
  · simp

@[simp] theorem runMap_splits (uid : Nat) (p : Packet) (s : State) : splits (runMap uid p s) = splits s := by
  rw [runMap]
  split
  · split <;> simp
  · exact runNow_splits mapEffect_splits uid p s

@[simp] theorem unmapPages_splits (p : Packet) (s : State) : splits (unmapPages p s) = splits s := by simp [unmapPages]

@[simp] theorem releaseHitches_splits (c first count : Nat) (s : State) : splits (releaseHitches c first count s) = splits s := by
  simp [releaseHitches]

@[simp] theorem unmapEffect_splits (p : Packet) (s : State) : splits (unmapEffect p s).1 = splits s := by simp [unmapEffect]

@[simp] theorem runUnmap_splits (uid : Nat) (p : Packet) (s : State) : splits (runUnmap uid p s) = splits s := by
  simp only [runUnmap]
  split <;> simp

@[simp] theorem qCreateEffect_splits (p : Packet) (s : State) : splits (qCreateEffect p s).1 = splits s := by simp [qCreateEffect]

@[simp] theorem runQDestroy_splits (uid : Nat) (p : Packet) (s : State) : splits (runQDestroy uid p s) = splits s := by
  simp only [runQDestroy]
  split <;> simp

/-! ## Hitches -/

@[simp] theorem signalEffect_splits (p : Packet) (s : State) : splits (signalEffect p s).1 = splits s := by simp [signalEffect]

@[simp] theorem addEffect_splits (p : Packet) (s : State) : splits (addEffect p s).1 = splits s := by simp [addEffect]

@[simp] theorem runWait_splits (uid : Nat) (p : Packet) (s : State) : splits (runWait uid p s) = splits s := by
  simp only [runWait]
  split <;> simp

@[simp] theorem producerEffect_splits (p : Packet) (s : State) : splits (producerEffect p s).1 = splits s := by simp [producerEffect]

/-! ## Startup -/

@[simp] theorem fenceAll_splits (k : StopKind) (ps : List Strand) (s : State) : splits (fenceAll k ps s).1 = splits s := by simp [fenceAll]

@[simp] theorem endStartup_splits (s : State) : splits (endStartup s) = splits s := by simp [endStartup]

@[simp] theorem failPhase_splits (ps : List Strand) (s : State) : splits (failPhase ps s) = splits s := by simp [failPhase]

@[simp] theorem donePhase_splits (n : Nat) (s : State) : splits (donePhase n s) = splits s := by
  simp only [donePhase]
  split <;> simp

theorem inPhase_splits {n : Nat} {s : State} {f : State → State} (h : splits (f s) = splits s) : splits (inPhase n s f) = splits s := by
  rw [inPhase]
  split
  · exact h
  · rfl

@[simp] theorem romPhase_splits (straps : BitVec 3) (s : State) : splits (romPhase straps s) = splits s := by simp [romPhase]

@[simp] theorem scanLog_splits (s : State) : splits (scanLog s) = splits s := by simp [scanLog]

@[simp] theorem markerRecords_splits (s : State) : splits (markerRecords s) = splits s := by
  simp only [markerRecords]
  repeat' split
  all_goals simp

@[simp] theorem mgmtPhase_splits (s : State) : splits (mgmtPhase s) = splits s := by simp [mgmtPhase]

@[simp] theorem assignSpares_splits (sibs : List Strand) (active : Nat) (s : State) : splits (assignSpares sibs active s) = splits s := by
  simp [assignSpares]

@[simp] theorem makeZero_splits (s : State) : splits (makeZero s) = splits s := by
  simp only [makeZero]
  rw [splits_foldl, splits_foldl]
  · simp
  · intro s page
    cases mapped : mapPage 0 page.1 page.2.1 page.2.2.1 page.2.2.2.1 page.2.2.2.2 s with
    | none => rfl
    | some t => exact mapPage_splits mapped
  · intro s i
    split <;> simp

@[simp] theorem hostPhase_splits (failedCores : List Nat) (s : State) : splits (hostPhase failedCores s) = splits s := by simp [hostPhase]

@[simp] theorem remapBlocks_splits (bs : List (Strand × Nat)) (s : State) : splits (remapBlocks bs s) = splits s := by simp [remapBlocks]

@[simp] theorem clearTiers_splits (s : State) : splits (clearTiers s) = splits s := by simp [clearTiers]

@[simp] theorem readmit_splits (s : State) : splits (readmit s) = splits s := by simp [readmit]

@[simp] theorem assignAll_splits (s : State) : splits (assignAll s) = splits s := by simp [assignAll]

@[simp] theorem testPhase_splits (failed : List Strand) (failedBlocks : List (Strand × Nat)) (s : State) :
    splits (testPhase failed failedBlocks s) = splits s := by
  simp [testPhase]

@[simp] theorem raiseSvn_splits (s : State) : splits (raiseSvn s) = splits s := by simp [raiseSvn]

@[simp] theorem readyPhase_splits (elapsedMs : BitVec 24) (s : State) : splits (readyPhase elapsedMs s) = splits s := by simp [readyPhase]

/-! ## Management -/

@[simp] theorem mgtOut_splits (o : MgtOut) (s : State) : splits (mgtOut o s) = splits s := splits_of_arr (mgtOut_arr ..)

@[simp] theorem takeAddress_splits (a : BitVec 7) (s : State) : splits (takeAddress a s) = splits s := by simp [takeAddress]

theorem onControl_splits {f : State → State} (h : ∀ s, splits (f s) = splits s) (s : State) : splits (onControl f s) = splits s := by
  rw [onControl]
  split
  · exact h s
  · rfl

theorem onRequest_splits {f : State → State} (h : ∀ s, splits (f s) = splits s) (s : State) : splits (onRequest f s) = splits s := by
  refine onControl_splits (fun s => ?_) s
  split
  · exact h s
  · rfl

@[simp] theorem pldmOut_splits (command : String) (code : Nat) (data : List Byte) (s : State) : splits (pldmOut command code data s) = splits s := by
  simp [pldmOut]

@[simp] theorem setPldm_splits (p : Pldm) (s : State) : splits (setPldm p s) = splits s := splits_of_arr (setPldm_arr ..)

@[simp] theorem endUpdate_splits (s : State) : splits (endUpdate s) = splits s := by simp [endUpdate]

@[simp] theorem misplaced_splits (command : String) (s : State) : splits (misplaced command s) = splits s := by simp [misplaced]

@[simp] theorem jtagOut_splits (v : Nat) (s : State) : splits (jtagOut v s) = splits s := by simp [jtagOut]

/-! ## Splice -/

@[simp] theorem addLanes_splits (n : Nat) (from_ : Strand × Nat) (outs : List (Nat × LaneOut)) (s : State) :
    splits (addLanes n from_ outs s) = splits s := by
  simp [addLanes]

@[simp] theorem slotStored_splits (b : Bkt) (c : Nat) (s : State) : splits (slotStored b c s) = splits s := by simp [slotStored]

@[simp] theorem sendTo_splits (dests : List Nat) (m : SplMsg) (s : State) : splits (sendTo dests m s) = splits s := by simp [sendTo]

@[simp] theorem takeFinal_splits (p e : Nat) (m : SplMsg) (s : State) : splits (takeFinal p e m s) = splits s := by
  simp only [takeFinal]
  repeat' split
  all_goals simp

@[simp] theorem finishChunk_splits (p e c : Nat) (s : State) : splits (finishChunk p e c s) = splits s := by
  simp only [finishChunk]
  repeat' split
  all_goals simp

@[simp] theorem flushBkt_splits (p e : Nat) (s : State) : splits (flushBkt p e s) = splits s := by
  simp only [flushBkt]
  split <;> simp

@[simp] theorem mergeInput_splits (p e pos : Nat) (from_ : Strand × Nat) (m : SplMsg) (us : List LaneUpset) (s : State) :
    splits (mergeInput p e pos from_ m us s) = splits s := by
  simp only [mergeInput]
  repeat' split
  all_goals simp

@[simp] theorem countStray_splits (p : Nat) (s : State) : splits (countStray p s) = splits s := by simp [countStray]

@[simp] theorem countStale_splits (p : Nat) (s : State) : splits (countStale p s) = splits s := by simp [countStale]

@[simp] theorem dropSpl_splits (p : Nat) (m : SplMsg) (s : State) : splits (dropSpl p m s) = splits s := by
  simp only [dropSpl]
  split <;> simp

theorem onSpl_splits {l kind : Nat} {m : SplMsg} {act : Nat → Nat → Plan → Bkt → SplMsg → State → State}
    (h : ∀ p e x b m s, splits (act p e x b m s) = splits s) (s : State) : splits (onSpl l kind m act s) = splits s := by
  simp only [onSpl]
  split
  · rfl
  · next taken =>
    rw [← takeArrival_splits taken]
    repeat' split
    all_goals simp [h]

@[simp] theorem runArrives_splits (l : Nat) (us : List LaneUpset) (p e : Nat) (x : Plan) (b : Bkt) (m : SplMsg) (s : State) :
    splits (runArrives l us p e x b m s) = splits s := by
  simp only [runArrives]
  split <;> simp

@[simp] theorem finalsDone_splits (p e : Nat) (s : State) : splits (finalsDone p e s) = splits s := by
  simp only [finalsDone]
  split <;> simp

@[simp] theorem finalArrives_splits (l p e : Nat) (x : Plan) (b : Bkt) (m : SplMsg) (s : State) : splits (finalArrives l p e x b m s) = splits s := by
  simp [finalArrives]

@[simp] theorem grantArrives_splits (p e : Nat) (x : Plan) (b : Bkt) (m : SplMsg) (s : State) : splits (grantArrives p e x b m s) = splits s := by
  simp [grantArrives]

@[simp] theorem sendGrant_splits (x : Plan) (b : Bkt) (limit : Nat) (s : State) : splits (sendGrant x b limit s) = splits s := by simp [sendGrant]

@[simp] theorem contribRead_splits (p e : Nat) (s : State) : splits (contribRead p e s) = splits s := by
  simp only [contribRead]
  repeat' split
  all_goals simp

/-! ## SpliceCommands -/

@[simp] theorem loadPlan_splits (p : Packet) (b : List Byte) (s : State) : splits (loadPlan p b s).1 = splits s := by simp [loadPlan]

@[simp] theorem runPlan_splits (uid : Nat) (p : Packet) (s : State) : splits (runPlan uid p s) = splits s := by
  unfold runPlan
  extract_lets +onlyGivenNames blank early free
  split
  · exact runNow_splits (by simp) uid p s
  · extract_lets t
    have read : splits t = splits s := by simp [t]
    rw [← read]
    split <;> exact runNow_splits (by simp) uid p t

@[simp] theorem openEffect_splits (p : Packet) (s : State) : splits (openEffect p s).1 = splits s := by
  simp only [openEffect]
  split <;> simp

@[simp] theorem runOpen_splits (uid : Nat) (p : Packet) (s : State) : splits (runOpen uid p s) = splits s := by
  rw [runOpen]
  split
  · simp
  · exact runNow_splits openEffect_splits uid p s

@[simp] theorem retryOpen_splits (s : State) (j : Job) : splits (retryOpen s j) = splits s := by
  simp only [retryOpen]
  repeat' split
  all_goals simp

@[simp] theorem giveContrib_splits (uid p e : Nat) (s : State) : splits (giveContrib uid p e s) = splits s := by
  simp only [giveContrib]
  split <;> simp

@[simp] theorem runContrib_splits (uid : Nat) (p : Packet) (s : State) : splits (runContrib uid p s) = splits s := by
  simp only [runContrib]
  repeat' split
  all_goals simp

@[simp] theorem copyQ_splits (p : Packet) (x : Plan) (b : Bkt) (s : State) : splits (copyQ p x b s).1 = splits s := by
  simp only [copyQ]
  split
  · simp
  · split <;> next h => simpa using splits_of_eq h (stateWrite_splits ..)

@[simp] theorem clearE_splits (x : Plan) (b : Bkt) (s : State) : splits (clearE x b s).1 = splits s := by
  rw [clearE]
  split <;> next h => simpa using splits_of_eq h (stateWrite_splits ..)

@[simp] theorem lowrankEffect_splits (p : Packet) (s : State) : splits (lowrankEffect p s).1 = splits s := by
  simp only [lowrankEffect]
  split <;> simp

@[simp] theorem abandonPlan_splits (p cause : Nat) (s : State) : splits (abandonPlan p cause s) = splits s := by
  simp only [abandonPlan]
  split <;> simp

@[simp] theorem runClose_splits (uid : Nat) (p : Packet) (s : State) : splits (runClose uid p s) = splits s := by
  simp only [runClose]
  split <;> simp

@[simp] theorem statusEffect_splits (p : Packet) (s : State) : splits (statusEffect p s).1 = splits s := by simp [statusEffect]

/-! ## SpliceLow -/

@[simp] theorem writeAll_splits (x : Plan) (ws : List (Nat × List PByte)) (s : State) : splits (writeAll x ws s).1 = splits s := by
  simp only [writeAll]
  split <;> simp

@[simp] theorem afterStep_splits (p e n : Nat) (r : State × Option AFault) : splits (afterStep p e n r) = splits r.1 := by
  rw [afterStep]
  split <;> simp

@[simp] theorem readFault_splits (p e : Nat) (f : AFault) (s : State) : splits (readFault p e f s) = splits s := by simp [readFault]

@[simp] theorem lrStep1_splits (p e : Nat) (x : Plan) (b : Bkt) (s : State) : splits (lrStep1 p e x b s) = splits s := by
  rw [lrStep1]
  split
  · simp
  · split <;> simp

@[simp] theorem lrStep2_splits (p e : Nat) (x : Plan) (b : Bkt) (s : State) : splits (lrStep2 p e x b s) = splits s := by
  simp only [lrStep2]
  split <;> simp

@[simp] theorem lrEnd_splits (p e : Nat) (x : Plan) (b : Bkt) (poisoned : Bool) (s : State) : splits (lrEnd p e x b poisoned s) = splits s := by
  simp only [lrEnd]
  split <;> simp

@[simp] theorem lrStep4_splits (p e : Nat) (x : Plan) (b : Bkt) (s : State) : splits (lrStep4 p e x b s) = splits s := by
  simp only [lrStep4]
  split <;> simp

@[simp] theorem lrStep5_splits (p e : Nat) (x : Plan) (b : Bkt) (s : State) : splits (lrStep5 p e x b s) = splits s := by
  simp only [lrStep5]
  split <;> simp

@[simp] theorem lrStep7_splits (p e : Nat) (x : Plan) (b : Bkt) (s : State) : splits (lrStep7 p e x b s) = splits s := by
  simp only [lrStep7]
  repeat' split
  all_goals simp

@[simp] theorem lrStep8_splits (p e : Nat) (x : Plan) (b : Bkt) (s : State) : splits (lrStep8 p e x b s) = splits s := by
  simp only [lrStep8]
  repeat' split
  all_goals simp

/-! ## Tackle -/

@[simp] theorem setGroup_splits (g : Nat) (x : TklGroup) (s : State) : splits (setGroup g x s) = splits s := splits_of_arr (setGroup_arr ..)

@[simp] theorem coefStopped_splits (fault : Option AFault) (s : State) : splits (coefStopped fault s).1 = splits s := by
  simp only [coefStopped]
  split <;> simp

@[simp] theorem writeGroups_splits (p : Packet) (b : List Byte) (s : State) : splits (writeGroups p b s).1 = splits s := by simp [writeGroups]

@[simp] theorem readGroups_splits (p : Packet) (s : State) : splits (readGroups p s).1 = splits s := by
  simp only [readGroups]
  split <;> next h => simpa using splits_of_eq h (vaWrite_splits ..)

@[simp] theorem releaseGroups_splits (s : State) : splits (releaseGroups s).1 = splits s := by simp [releaseGroups]

@[simp] theorem runCoef_splits (uid : Nat) (p : Packet) (s : State) : splits (runCoef uid p s) = splits s := by
  rw [runCoef]
  split
  · exact runNow_splits (by simp) uid p s
  · split
    · exact runNow_splits (by simp) uid p s
    · split <;> exact runNow_splits (by simp) uid p s

@[simp] theorem stepsizeEffect_splits (pairs : List Word) (p : Packet) (s : State) : splits (stepsizeEffect pairs p s).1 = splits s := by
  simp [stepsizeEffect]

@[simp] theorem runStepsize_splits (uid : Nat) (p : Packet) (s : State) : splits (runStepsize uid p s) = splits s := by
  rw [runStepsize]
  split
  · exact runNow_splits (by simp) uid p s
  · split
    · exact runNow_splits (by simp) uid p s
    · split <;> exact runNow_splits (by simp) uid p s

@[simp] theorem tsWrite_splits (g : TklGroup) (b n : Nat) (ws : List (Word × Bool)) (s : State) : splits (tsWrite g b n ws s).1 = splits s := by
  simp [tsWrite]

@[simp] theorem tsDetect_splits (g : TklGroup) (b n : Nat) (s : State) : splits (tsDetect g b n s) = splits s := by simp [tsDetect]

theorem eachBlock_splits {α : Type} {f : Nat → State → α → State × α × Option AFault} (h : ∀ b s a, splits (f b s a).1 = splits s)
    (n : Nat) (a : α) (s : State) : splits (eachBlock f n a s).1 = splits s := by
  rw [eachBlock, splits_foldl_fst]
  intro acc b
  split <;> simp [h]

@[simp] theorem groupCrc_splits (g : TklGroup) (s : State) : splits (groupCrc g s).1 = splits s := by
  refine eachBlock_splits (fun b s a => ?_) _ _ s
  split <;> simp

@[simp] theorem digestEffect_splits (p : Packet) (s : State) : splits (digestEffect p s).1 = splits s := by
  unfold digestEffect
  extract_lets +onlyGivenNames r
  have kept : splits r.1 = splits s := by
    refine splits_foldl_fst (fun acc n => ?_) _ _
    split <;> simp
  split <;> simp [kept]

@[simp] theorem normGroups_splits (p : Packet) (s : State) : splits (normGroups p s).1 = splits s := by
  rw [normGroups, splits_foldl_fst]
  intro acc n
  split
  · rfl
  · dsimp only
    split <;> simp

@[simp] theorem tklNormEffect_splits (p : Packet) (s : State) : splits (tklNormEffect p s).1 = splits s := by
  simp only [tklNormEffect]
  split <;> simp

@[simp] theorem loadBlock_splits (p : Packet) (g : TklGroup) (w m v : List (Word × Bool)) (mask : List (Bool × Bool)) (b : Nat) (s : State)
    (a : LoadSeen) : splits (loadBlock p g w m v mask b s a).1 = splits s := by
  simp only [loadBlock]
  repeat' split
  all_goals simp

@[simp] theorem loadEffect_splits (p : Packet) (s : State) : splits (loadEffect p s).1 = splits s := by
  simp only [loadEffect]
  split
  · dsimp only
    split <;> simp [eachBlock_splits]
  · simp
  · simp
  · simp
  · simp

@[simp] theorem storeBlock_splits (p : Packet) (g : TklGroup) (c b : Nat) (s : State) (n : Nat) : splits (storeBlock p g c b s n).1 = splits s := by
  unfold storeBlock
  extract_lets k out
  have out_splits (use : Bool) (arr w off : Nat) (f : List (Word × Bool) → List PByte) (a : State × Nat × Option AFault) :
      splits (out use arr w off f a).1 = splits a.1 := by
    simp only [out]
    repeat' split
    all_goals simp
  simp [out_splits]

@[simp] theorem storeEffect_splits (p : Packet) (s : State) : splits (storeEffect p s).1 = splits s := by
  simp only [storeEffect]
  split <;> simp [eachBlock_splits]

@[simp] theorem maskBlock_splits (p : Packet) (g : TklGroup) (bits : List (Bool × Bool)) (b : Nat) (s : State) (a : Nat × Bool) :
    splits (maskBlock p g bits b s a).1 = splits s := by
  simp only [maskBlock]
  split <;> simp

@[simp] theorem maskEffect_splits (p : Packet) (s : State) : splits (maskEffect p s).1 = splits s := by
  simp only [maskEffect]
  split
  · simp
  · split <;> simp [eachBlock_splits]

/-! ## TackleStep -/

@[simp] theorem writeBack_splits (g : TklGroup) (b n : Nat) (x : BlockIn) (s : State) : splits (writeBack g b n x s).1 = splits s := by
  simp [writeBack]

@[simp] theorem writePiece_splits (v : Env) (g : TklGroup) (at_ : Nat) (els : List PEl) (s : State) :
    splits (writePiece v g at_ els s).1 = splits s := by
  simp [writePiece]

@[simp] theorem drainBandW_splits (v : Env) (g : TklGroup) (fuel done : Nat) (a : WWrite) (s : State) :
    splits (drainBandW v g fuel done a s).1 = splits s := by
  induction fuel generalizing done a s with
  | zero => rfl
  | succ fuel ih =>
    rw [drainBandW]
    split
    · rfl
    · simp [ih]

@[simp] theorem setTklRun_splits (r : TklRun) (s : State) : splits (setTklRun r s) = splits s := splits_of_arr (setTklRun_arr ..)

@[simp] theorem stepFault_splits (r : TklRun) (f : AFault) (s : State) : splits (stepFault r f s) = splits s := by simp [stepFault]

@[simp] theorem stepEnd_splits (r : TklRun) (fault : Option AFault) (s : State) : splits (stepEnd r fault s) = splits s := by simp [stepEnd]

@[simp] theorem stepDone_splits (r : TklRun) (p : Packet) (s : State) : splits (stepDone r p s) = splits s := by
  simp only [stepDone]
  repeat' split
  all_goals simp

@[simp] theorem nextGroup_splits (r : TklRun) (p : Packet) (n : Nat) (s : State) : splits (nextGroup r p n s) = splits s := by
  simp only [nextGroup]
  repeat' split
  all_goals simp

@[simp] theorem runStep_splits (uid : Nat) (p : Packet) (s : State) : splits (runStep uid p s) = splits s := by
  simp only [runStep]
  split <;> simp

@[simp] theorem linkFlits_splits (s : State) : splits (linkFlits s) = splits s := by simp [linkFlits]

@[simp] theorem runBlock_splits (r : TklRun) (s : State) : splits (runBlock r s) = splits s := by
  simp only [runBlock]
  repeat' split
  all_goals simp

/-! ## Telltales -/

@[simp] theorem bindEffect_splits (p : Packet) (s : State) : splits (bindEffect p s).1 = splits s := by simp [bindEffect]

@[simp] theorem clearSlot_splits (n : Nat) (s : State) : splits (clearSlot n s) = splits s := by
  simp only [clearSlot]
  split <;> simp

@[simp] theorem ttlReadEffect_splits (p : Packet) (s : State) : splits (ttlReadEffect p s).1 = splits s := by
  rw [ttlReadEffect]
  split <;> next h => simpa using splits_of_eq h (vaWrite_splits ..)

@[simp] theorem ttlResetEffect_splits (p : Packet) (s : State) : splits (ttlResetEffect p s).1 = splits s := by simp [ttlResetEffect]

end Sys2Proof.Machine
end

section
/-! PROOFS. The writes of SPILL_SPLIT (R170): the register refuses a split above 16, and what may write control space keeps the splits legal. -/

namespace Sys2Proof.Machine

/-- Two splits that SPILL_SPLIT may hold (R170). -/
def LegalSplits (x : BitVec 5 × BitVec 5) : Prop := x.1.toNat ≤ 16 ∧ x.2.toNat ≤ 16

theorem foldl_legal {α : Type} {f : State → α → State} (h : ∀ s a, LegalSplits (splits s) → LegalSplits (splits (f s a))) (l : List α) {s : State}
    (legal : LegalSplits (splits s)) : LegalSplits (splits (l.foldl f s)) :=
  List.foldlRecOn l f (motive := fun s => LegalSplits (splits s)) legal fun s legal a _ => h s a legal

theorem writeSpillSplit_legal (v : Word) {s : State} (h : LegalSplits (splits s)) : LegalSplits (splits (writeSpillSplit v s)) := by
  rw [writeSpillSplit]
  split
  · exact h
  · next small => exact ⟨by simpa [splits] using small, h.2⟩

/-- A register of BAR0 other than SPILL_SPLIT. -/
theorem barWrite_splits {off : Nat} (other : off ≠ 0x4004) (v : Word) (s : State) : splits (barWrite off v s) = splits s := by simp [barWrite, other]

theorem barWrite_legal (off : Nat) (v : Word) {s : State} (h : LegalSplits (splits s)) : LegalSplits (splits (barWrite off v s)) := by
  by_cases split : off = 0x4004
  · subst split
    by_cases held : unitHeld s (regUnit 0x4004) = true
    · simpa [barWrite, held] using h
    · rw [barWrite_spillSplit v (by simpa using held)]
      exact writeSpillSplit_legal v h
  · rwa [barWrite_splits split]

theorem barWrite8_legal (off : Nat) (v : DWord) {s : State} (h : LegalSplits (splits s)) : LegalSplits (splits (barWrite8 off v s)) := by
  rw [barWrite8]
  split
  · exact h
  · split
    · simpa using h
    · exact barWrite_legal _ _ (barWrite_legal _ _ h)

theorem barStore_legal (off size : Nat) (v : DWord) {s : State} (h : LegalSplits (splits s)) : LegalSplits (splits (barStore off size v s)) := by
  rw [barStore]
  split
  · simpa using h
  · split
    · exact barWrite8_legal off v h
    · exact barWrite_legal off _ h

theorem controlWrite_legal (off : Nat) (bs : List Byte) {s : State} (h : LegalSplits (splits s)) : LegalSplits (splits (controlWrite off bs s)) :=
  foldl_legal (fun _ _ legal => barStore_legal _ _ _ legal) _ h

/-! ## Transfers, which may write control space -/

@[simp] theorem deliver_legal {j : Job} {n : Nat} {tid : Option Nat} {row off : Nat} {bs : List PByte} {s : State} (h : LegalSplits (splits s)) :
    LegalSplits (splits (deliver j n tid row off bs s)) := by
  rw [deliver]
  dsimp only
  split
  · exact h
  · split
    · simpa using h
    · exact h
    · split <;> next written => simpa [splits_of_eq written (grantWrite_splits ..)] using h
    · simpa using controlWrite_legal _ _ h
    · repeat' split
      all_goals simpa using h
    · simpa using h
    · simpa using h

@[simp] theorem issueTransfer_legal {j : Job} {x : Xfer} {e : XferEngine} {s : State} (h : LegalSplits (splits s)) :
    LegalSplits (splits (issueTransfer j x e s).1) := by
  rw [issueTransfer]
  dsimp only
  split
  · simpa using h
  · split
    · exact h
    · split
      · simpa using h
      · simp [h]
      · split <;> simp [h]
      · simp [h]
      · split <;> simp [h]
      · simp [h]
      · simp [h]

@[simp] theorem pumpJob_legal {fuel uid : Nat} {s : State} (h : LegalSplits (splits s)) : LegalSplits (splits (pumpJob fuel uid s)) := by
  induction fuel generalizing s with
  | zero => exact h
  | succ fuel ih =>
    simp only [pumpJob]
    repeat' split
    all_goals simp [ih, h]

@[simp] theorem pumpAll_legal {s : State} (h : LegalSplits (splits s)) : LegalSplits (splits (pumpAll s)) := by
  have turn (pre : Bool) (s : State) (j : Job) (h : LegalSplits (splits s)) :
      LegalSplits (splits (match xferOf j with
        | some x => if x.prefetch = pre then pumpJob (pumpFuel x) j.uid s else s
        | none => s)) := by
    repeat' split
    all_goals simp [h]
  exact foldl_legal (turn true) _ (foldl_legal (turn false) _ (foldl_legal (turn true) _ (foldl_legal (turn false) _ h)))

@[simp] theorem advance_legal {s : State} (h : LegalSplits (splits s)) : LegalSplits (splits (advance s)) := by
  have signals (s : State) (jobs : List Job) :
      splits (jobs.foldl (fun s j => if j.work = .remoteSignal none then sendSignal j.uid s else s) s) = splits s := by simp
  simp [advance, signals, h]

theorem runXfer_legal {param : State → Packet → List Nat} {make : Packet → Xfer} {remote : Bool} (uid : Nat) (p : Packet) {s : State}
    (h : LegalSplits (splits s)) : LegalSplits (splits (runXfer param make remote uid p s)) := by
  rw [runXfer]
  split <;> simp [h]

@[simp] theorem dropStale_legal {tid : Nat} {e : Entry} {s : State} (h : LegalSplits (splits s)) : LegalSplits (splits (dropStale tid e s)) := by
  simp [dropStale, h]

@[simp] theorem readReply_legal {tid : Nat} {e : Entry} {ecc : Ecc} {s : State} (h : LegalSplits (splits s)) :
    LegalSplits (splits (readReply tid e ecc s)) := by
  rw [readReply]
  dsimp only
  repeat' split
  all_goals simp [h]

@[simp] theorem hostReply_legal {tid : Nat} {e : Entry} {how : HostEnd} {s : State} (h : LegalSplits (splits s)) :
    LegalSplits (splits (hostReply tid e how s)) := by
  unfold hostReply
  split <;> simp [h]

@[simp] theorem issueHeld_legal {s : State} (h : LegalSplits (splits s)) : LegalSplits (splits (issueHeld s)) := by
  refine advance_legal (foldl_legal (fun s kv legal => ?_) _ h)
  repeat' split
  all_goals simpa using legal

@[simp] theorem memoryRequest_legal {l : Nat} {m : Msg} {s : State} (h : LegalSplits (splits s)) : LegalSplits (splits (memoryRequest l m s)) := by
  rw [memoryRequest]
  split
  · simp [h]
  · split <;> simp [h]

@[simp] theorem dataEntry_legal {m : Msg} {tid : Nat} {e : Entry} {s : State} (h : LegalSplits (splits s)) :
    LegalSplits (splits (dataEntry m tid e s)) := by
  rw [dataEntry]
  repeat' split
  all_goals simp [h]

theorem onResponse_legal {m : Msg} {act : Nat → Entry → State → State}
    (keeps : ∀ tid e s, LegalSplits (splits s) → LegalSplits (splits (act tid e s))) {s : State} (h : LegalSplits (splits s)) :
    LegalSplits (splits (onResponse m act s)) := by
  rw [onResponse]
  split
  · simpa using h
  · split
    · split <;> simp [h, keeps]
    · simpa using h

/-! ## Commands that go on with what waited -/

@[simp] theorem fenceEffect_legal {p : Packet} {s : State} (h : LegalSplits (splits s)) : LegalSplits (splits (fenceEffect p s).1) := by
  simp only [fenceEffect]
  split <;> simp [h]

@[simp] theorem unfenceEffect_legal {refault : Bool} {p : Packet} {s : State} (h : LegalSplits (splits s)) :
    LegalSplits (splits (unfenceEffect refault p s).1) := by
  simp only [unfenceEffect]
  repeat' split
  all_goals simp [h]

@[simp] theorem injectEffect_legal {p : Packet} {s : State} (h : LegalSplits (splits s)) : LegalSplits (splits (injectEffect p s).1) := by
  rw [injectEffect]
  dsimp only
  split <;> simp [h]

theorem runReset_legal (uid : Nat) (p : Packet) {s : State} (h : LegalSplits (splits s)) : LegalSplits (splits (runReset uid p s)) := by
  rw [runReset]
  dsimp only
  repeat' split
  all_goals simp [h]

@[simp] theorem evalSnarl_legal {s : State} (h : LegalSplits (splits s)) : LegalSplits (splits (evalSnarl s)) := by
  rw [evalSnarl]
  dsimp only
  split <;> simp [h]

@[simp] theorem jtagDo_legal {op : JtagOp} {s : State} (h : LegalSplits (splits s)) : LegalSplits (splits (jtagDo op s)) := by
  cases op
  case writeReg off v => exact barStore_legal _ _ _ h
  case sign d => simpa only [jtagDo, jtagOut_splits, splits_mk, splitReq_splitApplied] using h
  all_goals simp [jtagDo, h]

/-! ## The state after a loss of power -/

theorem coldState_legal (ph : PwrPhase) (s : State) : LegalSplits (splits (coldState ph s)) := by
  have fresh : splits (coldState ph s) = (4, 4) := rfl
  rw [fresh]
  exact ⟨by decide, by decide⟩

theorem beginStart_legal (s : State) : LegalSplits (splits (beginStart s)) := coldState_legal (.starting 0) s

theorem holdOff_legal (s : State) : LegalSplits (splits (holdOff s)) := by
  rw [holdOff]
  split
  · exact beginStart_legal s
  · exact coldState_legal _ s

end Sys2Proof.Machine
end

section
/-! PROOFS. Every command keeps the splits legal (R170, R171). -/

namespace Sys2Proof.Machine

/-! ## Commands -/

/-- A command's outcome keeps legal splits legal. -/
def KeepsLegal (s : State) (o : Host.Outcome State Fault Refusal) : Prop := ∀ t, o = .next t → LegalSplits (splits s) → LegalSplits (splits t)

theorem keeps_of_legal {s t : State} (h : LegalSplits (splits s) → LegalSplits (splits t)) : KeepsLegal s (.next t) := by
  rintro _ ⟨⟩
  exact h

theorem keeps_of_splits {s t : State} (h : splits t = splits s) : KeepsLegal s (.next t) := keeps_of_legal fun legal => by rwa [h]

/-- The injections that a command meets keep the splits of the command, or, where it is struck, those before it. -/
theorem met_splits (before s : State) : splits (met before s) = splits s ∨ splits (met before s) = splits before := by
  rw [met]
  split
  · exact .inl rfl
  · split
    · exact .inr (by simp)
    · refine .inl ?_
      dsimp only
      generalize s.hitches.find? _ = hitch
      cases hitch <;> simp

theorem met_legal {before s : State} (was : LegalSplits (splits before)) (h : LegalSplits (splits s)) : LegalSplits (splits (met before s)) := by
  obtain same | same := met_splits before s <;> rwa [same]

theorem keeps_met {s t : State} (h : LegalSplits (splits s) → LegalSplits (splits t)) : KeepsLegal s (.next (met s t)) :=
  keeps_of_legal fun legal => met_legal legal (h legal)

theorem keeps_met_of_splits {s t : State} (h : splits t = splits s) : KeepsLegal s (.next (met s t)) := keeps_met fun legal => by rwa [h]

theorem takeUp_legal {op : Nat} {run : Nat → Packet → State → State} (keeps : ∀ uid p s, LegalSplits (splits s) → LegalSplits (splits (run uid p s)))
    {p : Packet} {s : State} (h : LegalSplits (splits s)) : LegalSplits (splits (takeUp op run p s)) := by
  simp only [takeUp]
  repeat' split
  all_goals simp [keeps, h]

theorem runNow_legal {checks : State → Packet → Checks} {effect : Packet → State → State × Result}
    (keeps : ∀ p s, LegalSplits (splits s) → LegalSplits (splits (effect p s).1)) (uid : Nat) (p : Packet) {s : State} (h : LegalSplits (splits s)) :
    LegalSplits (splits (runNow checks effect uid p s)) := by
  simp only [runNow]
  split <;> simp [keeps, h]

/-- A packet command whose run keeps legal splits legal. -/
theorem keeps_packet_of_legal {op : Nat} {run : Nat → Packet → State → State} {p : Packet} {s : State}
    (keeps : ∀ uid p s, LegalSplits (splits s) → LegalSplits (splits (run uid p s))) : KeepsLegal s (.next (met s (takeUp op run p s))) :=
  keeps_met (takeUp_legal keeps)

/-- A packet command whose run keeps the splits. -/
theorem keeps_packet {op : Nat} {run : Nat → Packet → State → State} {p : Packet} {s : State} (keeps : ∀ uid p s, splits (run uid p s) = splits s) :
    KeepsLegal s (.next (met s (takeUp op run p s))) :=
  keeps_packet_of_legal fun uid p s legal => by rwa [keeps]

/-- An access of the host whose effect keeps legal splits legal. -/
theorem keeps_host {f : State → State} {s : State} (keeps : ∀ s, LegalSplits (splits s) → LegalSplits (splits (f s))) :
    KeepsLegal s (.next (hostAccess f s)) := by
  refine keeps_of_legal fun h => ?_
  rw [hostAccess]
  split
  · exact keeps s h
  · split <;> simpa using h

theorem onArrival_legal {l v : Nat} {kind : Byte} {m : Msg} {act : Arrival → State → State}
    (keeps : ∀ a s, LegalSplits (splits s) → LegalSplits (splits (act a s))) {s : State} (h : LegalSplits (splits s)) :
    LegalSplits (splits (onArrival l v kind m act s)) := by
  rw [onArrival]
  split
  · next taken => exact keeps _ _ (by rwa [takeArrival_splits taken])
  · exact h

/-- A message of a peer whose effect keeps legal splits legal. -/
theorem keeps_arrival {l v : Nat} {kind : Byte} {m : Msg} {act : Arrival → State → State} {s : State}
    (keeps : ∀ a s, LegalSplits (splits s) → LegalSplits (splits (act a s))) : KeepsLegal s (.next (onArrival l v kind m act s)) :=
  keeps_of_legal (onArrival_legal keeps)

theorem keeps_flit {l ftype : Nat} {f : List Byte} {body : State → State} {s : State} (keeps : ∀ s, splits (body s) = splits s) :
    KeepsLegal s (.next (onFlit l ftype f body s)) := keeps_of_splits (onFlit_splits keeps s)

theorem keeps_control {f : State → State} {s : State} (keeps : ∀ s, splits (f s) = splits s) : KeepsLegal s (.next (onControl f s)) :=
  keeps_of_splits (onControl_splits keeps s)

theorem keeps_request {f : State → State} {s : State} (keeps : ∀ s, splits (f s) = splits s) : KeepsLegal s (.next (onRequest f s)) :=
  keeps_of_splits (onRequest_splits keeps s)

theorem keeps_phase {n : Nat} {f : State → State} {s : State} (keeps : splits (f s) = splits s) : KeepsLegal s (.next (inPhase n s f)) :=
  keeps_of_splits (inPhase_splits keeps)

theorem keeps_spl {l kind : Nat} {m : SplMsg} {act : Nat → Nat → Plan → Bkt → SplMsg → State → State} {s : State}
    (keeps : ∀ p e x b m s, splits (act p e x b m s) = splits s) : KeepsLegal s (.next (met s (onSpl l kind m act s))) :=
  keeps_met_of_splits (onSpl_splits keeps s)

theorem execDoorbellWrite_keeps (offset size : Nat) (value : DWord) (host : HostNews) (s : State) :
    KeepsLegal s (execDoorbellWrite offset size value host s) := by
  refine keeps_of_legal fun h => keeps_host (s := takeNews host s) (fun s h => ?_) _ rfl (by simpa using h)
  repeat' split
  all_goals simp [h]

theorem execPacketFetch_keeps (gqid : Nat) (host : HostNews) (s : State) : KeepsLegal s (execPacketFetch gqid host s) := by
  refine keeps_of_splits ?_
  split
  · simp
  · split
    · simp
    · split <;> simp

theorem execPacketComplete_keeps (uid : Nat) (s : State) : KeepsLegal s (execPacketComplete uid s) := by
  refine keeps_met_of_splits ?_
  repeat' split
  all_goals simp

theorem execMemoryReply_keeps (tid : Nat) (epoch : Byte) (ecc : Ecc) (s : State) : KeepsLegal s (execMemoryReply tid epoch ecc s) := by
  refine keeps_met fun h => ?_
  repeat' split
  all_goals simp [h]

theorem execTrackerTimeout_keeps (tid : Nat) (s : State) : KeepsLegal s (execTrackerTimeout tid s) := by
  refine keeps_of_legal fun h => ?_
  split
  · exact h
  · split
    · exact h
    · dsimp only
      split <;> simp [h]

theorem execHostCompletion_keeps (tid : Nat) (epoch : Byte) (how : HostEnd) (host : HostNews) (s : State) :
    KeepsLegal s (execHostCompletion tid epoch how host s) := by
  refine keeps_of_legal fun h => met_legal (by simpa using h) ?_
  repeat' split
  all_goals simp [h]

theorem execPcieCompletionTimeout_keeps (tid : Nat) (s : State) : KeepsLegal s (execPcieCompletionTimeout tid s) := by
  refine keeps_of_legal fun h => ?_
  repeat' split
  all_goals simp [h]

theorem execMsgWrite_keeps (l : Nat) (m : Msg) (s : State) : KeepsLegal s (execMsgWrite l m s) := by
  refine keeps_of_legal fun h => ?_
  split
  · exact onArrival_legal (fun _ _ => memoryRequest_legal) h
  · exact h

theorem execMsgReadReq_keeps (l : Nat) (m : Msg) (s : State) : KeepsLegal s (execMsgReadReq l m s) := keeps_arrival fun _ _ => memoryRequest_legal

theorem execMsgHitchOp_keeps (l : Nat) (m : Msg) (s : State) : KeepsLegal s (execMsgHitchOp l m s) :=
  keeps_met (onArrival_legal fun a s h => by simp [h])

theorem execMsgWindowRevoke_keeps (l : Nat) (m : Msg) (s : State) : KeepsLegal s (execMsgWindowRevoke l m s) := keeps_arrival fun _ _ h => h

theorem execMsgAck_keeps (l : Nat) (m : Msg) (s : State) : KeepsLegal s (execMsgAck l m s) :=
  keeps_arrival fun _ _ => onResponse_legal fun tid e s h => by simp [h]

theorem execMsgReadData_keeps (l : Nat) (m : Msg) (s : State) : KeepsLegal s (execMsgReadData l m s) :=
  keeps_arrival fun _ _ => onResponse_legal fun _ _ _ => dataEntry_legal

theorem execMsgNeg_keeps (l : Nat) (m : Msg) (s : State) : KeepsLegal s (execMsgNeg l m s) :=
  keeps_arrival fun _ _ => onResponse_legal fun tid e s h => by simp [h]

theorem execMsgMgtReq_keeps (l : Nat) (localOnly : Bool) (m : Msg) (s : State) : KeepsLegal s (execMsgMgtReq l localOnly m s) :=
  keeps_arrival fun a s h => by split <;> simp [h]

theorem execMsgMgtRsp_keeps (l : Nat) (m : Msg) (s : State) : KeepsLegal s (execMsgMgtRsp l m s) := keeps_arrival fun _ _ h => h

theorem execFlitTrain_keeps (l : Nat) (peerDev : Option (BitVec 14)) (peerLink : BitVec 5) (badLanes : List Nat) (rtt : BitVec 10) (s : State) :
    KeepsLegal s (execFlitTrain l peerDev peerLink badLanes rtt s) := keeps_of_splits (by simp)

theorem execLinkRetrainEnd_keeps (l : Nat) (ok : Bool) (s : State) : KeepsLegal s (execLinkRetrainEnd l ok s) := keeps_of_splits (by simp)

theorem execLaneSymbolLimit_keeps (l lane : Nat) (s : State) : KeepsLegal s (execLaneSymbolLimit l lane s) := keeps_of_splits (by simp)

theorem execFrameAlignmentLoss_keeps (l : Nat) (s : State) : KeepsLegal s (execFrameAlignmentLoss l s) := keeps_of_splits (by simp)

theorem execFlitIdle_keeps (l : Nat) (f : List Byte) (s : State) : KeepsLegal s (execFlitIdle l f s) := keeps_flit fun _ => rfl

theorem execFlitNak_keeps (l : Nat) (f : List Byte) (s : State) : KeepsLegal s (execFlitNak l f s) := keeps_flit (by simp)

theorem execFlitCreditAudit_keeps (l : Nat) (f : List Byte) (s : State) : KeepsLegal s (execFlitCreditAudit l f s) :=
  keeps_flit fun s => by simp [inSequence_splits]

theorem execFlitData_keeps (l : Nat) (f : List Byte) (s : State) : KeepsLegal s (execFlitData l f s) := keeps_flit (inSequence_splits (by simp))

theorem execMsgSend_keeps (l v : Nat) (s : State) : KeepsLegal s (execMsgSend l v s) := keeps_of_splits (by simp)

theorem execErrorEvent_keeps (p : Strand) (src : Nat) (obj : ErrObj) (s : State) : KeepsLegal s (execErrorEvent p src obj s) := by
  refine keeps_of_legal fun h => ?_
  split <;> simp [h]

theorem execRailFault_keeps (p : Strand) (src : Nat) (onSummary : Bool) (s : State) : KeepsLegal s (execRailFault p src onSummary s) := by
  refine keeps_of_legal fun h => ?_
  repeat' split
  all_goals simp [h]

theorem execClockLoss_keeps (what : ClockFault) (s : State) : KeepsLegal s (execClockLoss what s) := by
  refine keeps_of_legal fun h => ?_
  split <;> simp [h]

theorem execSysRefclkLoss_keeps (s : State) : KeepsLegal s (execSysRefclkLoss s) := keeps_of_splits (by simp)

theorem execWatchdogExpiry_keeps (s : State) : KeepsLegal s (execWatchdogExpiry s) := keeps_of_splits (by simp)

theorem execRootScan_keeps (s : State) : KeepsLegal s (execRootScan s) := keeps_of_splits (by simp)

theorem execStickyRearm_keeps (p : Strand) (src : Nat) (s : State) : KeepsLegal s (execStickyRearm p src s) := by
  refine keeps_of_splits ?_
  split <;> simp

theorem execBlockRemapDone_keeps (u : Strand) (b : Nat) (s : State) : KeepsLegal s (execBlockRemapDone u b s) := keeps_of_legal fun h => by simp [h]

theorem execUnitRedirectDone_keeps (u : Strand) (s : State) : KeepsLegal s (execUnitRedirectDone u s) := keeps_of_legal fun h => by simp [h]

theorem execPatrolScrub_keeps (u : Strand) (addr : Nat) (found : Ecc) (s : State) : KeepsLegal s (execPatrolScrub u addr found s) := by
  refine keeps_of_splits ?_
  repeat' split
  all_goals simp

theorem execLogProgram_keeps (s : State) : KeepsLegal s (execLogProgram s) := keeps_of_splits (by simp)

theorem execLogTokenRefill_keeps (code : BitVec 16) (s : State) : KeepsLegal s (execLogTokenRefill code s) := keeps_of_splits (by simp)

theorem execGenResetDone_keeps (uid : Nat) (s : State) : KeepsLegal s (execGenResetDone uid s) := by
  refine keeps_of_splits ?_
  split <;> simp

theorem execGenResetForce_keeps (uid : Nat) (s : State) : KeepsLegal s (execGenResetForce uid s) := by
  refine keeps_of_legal fun h => ?_
  repeat' split
  all_goals simp [h]

theorem execFndCaptureDone_keeps (s : State) : KeepsLegal s (execFndCaptureDone s) := by
  refine keeps_of_legal fun h => ?_
  repeat' split
  all_goals simp [h]

theorem execFndStopDone_keeps (s : State) : KeepsLegal s (execFndStopDone s) := by
  refine keeps_of_splits ?_
  split <;> simp

theorem execFndDrainDone_keeps (s : State) : KeepsLegal s (execFndDrainDone s) := by
  refine keeps_of_splits ?_
  split <;> simp

theorem execFndResetDone_keeps (s : State) : KeepsLegal s (execFndResetDone s) := by
  refine keeps_of_splits ?_
  split <;> simp

theorem execFndRestoreDone_keeps (s : State) : KeepsLegal s (execFndRestoreDone s) := by
  refine keeps_of_legal fun h => ?_
  split
  · exact h
  · next r _ =>
    split
    · exact h
    · extract_lets ms contexts rst idle log counted linked logged raised answered rst' begun
      have raised_splits : splits raised = splits s := by simp [raised, logged, linked, counted, idle, contexts]
      have answered_splits : splits answered = splits raised := by
        refine splits_foldl (fun s u => ?_) _ raised
        split <;> simp
      have begun_splits : splits begun = splits answered := by
        simp only [begun]
        split <;> simp
      refine advance_legal ?_
      rwa [evalLevels_splits, begun_splits, answered_splits, raised_splits]

theorem execSnarlEval_keeps (s : State) : KeepsLegal s (execSnarlEval s) := by
  refine keeps_of_legal fun h => ?_
  repeat' split
  all_goals simp [h]

theorem execCaptureDone_keeps (silent : List SilentEngine) (s : State) : KeepsLegal s (execCaptureDone silent s) := by
  refine keeps_of_legal fun h => ?_
  split
  · exact h
  · dsimp only
    split <;> simp [h]

theorem execCaptTrigger_keeps (s : State) : KeepsLegal s (execCaptTrigger s) := by
  refine keeps_of_legal fun h => ?_
  split
  · exact barWrite_legal _ _ h
  · exact h

theorem execSbTrigLow_keeps (s : State) : KeepsLegal s (execSbTrigLow s) := keeps_of_splits (by simp)

theorem execRegWrite_keeps (offset size : Nat) (value : DWord) (s : State) : KeepsLegal s (execRegWrite offset size value s) :=
  keeps_host fun s h => by simpa using barStore_legal offset size value h

theorem execIrqEnableWrite_keeps (value : Word) (s : State) : KeepsLegal s (execIrqEnableWrite value s) :=
  keeps_host fun s h => by simpa using barWrite_legal 0x1004 value h

theorem execDeviceIdWrite_keeps (value : Word) (s : State) : KeepsLegal s (execDeviceIdWrite value s) :=
  keeps_host fun _ => barWrite_legal 0x8000 value

theorem execSpillSplitWrite_keeps (value : Word) (s : State) : KeepsLegal s (execSpillSplitWrite value s) :=
  keeps_host fun _ => barWrite_legal 0x4004 value

theorem execRoutingWrite_keeps (offset size : Nat) (value : DWord) (s : State) : KeepsLegal s (execRoutingWrite offset size value s) := by
  refine keeps_of_legal fun h => ?_
  split
  · exact met_legal h (keeps_host (fun _ => barStore_legal offset size value) _ rfl h)
  · exact h

theorem execApertureWrite_keeps (offset size : Nat) (value : DWord) (s : State) : KeepsLegal s (execApertureWrite offset size value s) := by
  refine keeps_of_legal fun h => ?_
  split
  · exact keeps_host (fun _ => barStore_legal offset size value) _ rfl h
  · exact h

theorem execApertureRead_keeps (s : State) : KeepsLegal s (execApertureRead s) := keeps_host fun s h => by simp [h]

theorem execBar4Read_keeps (offset len : Nat) (s : State) : KeepsLegal s (execBar4Read offset len s) := keeps_host fun s h => by
  repeat' split
  all_goals simp [h]

theorem execBar4Write_keeps (offset : Nat) (data : List Byte) (ep : Bool) (s : State) : KeepsLegal s (execBar4Write offset data ep s) :=
  keeps_host fun s h => by
  repeat' split
  all_goals simp [h]

theorem execRebarSizeWrite_keeps (log2GiB : Nat) (s : State) : KeepsLegal s (execRebarSizeWrite log2GiB s) := keeps_of_splits (by simp)

theorem execMboxGo_keeps (s : State) : KeepsLegal s (execMboxGo s) := keeps_host fun _ => barWrite_legal mboxBase 1

theorem execMboxDone_keeps (s : State) : KeepsLegal s (execMboxDone s) := by
  refine keeps_of_splits ?_
  repeat' split
  all_goals simp

theorem execMsixUnmask_keeps (vector : Nat) (s : State) : KeepsLegal s (execMsixUnmask vector s) := keeps_host fun s h => by simp [h]

theorem execPciePmStateWrite_keeps (d3hot : Bool) (s : State) : KeepsLegal s (execPciePmStateWrite d3hot s) := by
  refine keeps_of_legal fun h => ?_
  repeat' split
  all_goals simp [h]

theorem execPcieHotReset_keeps (s : State) : KeepsLegal s (execPcieHotReset s) := keeps_of_splits (by simp)

theorem execPerstNAssert_keeps (s : State) : KeepsLegal s (execPerstNAssert s) := keeps_of_splits (by simp)

theorem execPerstNRelease_keeps (s : State) : KeepsLegal s (execPerstNRelease s) := keeps_of_splits (by simp)

theorem execPcieCorrectable_keeps (s : State) : KeepsLegal s (execPcieCorrectable s) := keeps_of_splits (by simp)

theorem execArrMapRebuild_keeps (s : State) : KeepsLegal s (execArrMapRebuild s) := keeps_of_splits (by simp)

theorem execBatchDeadline_keeps (batch : Nat) (s : State) : KeepsLegal s (execBatchDeadline batch s) := keeps_of_splits (by simp)

theorem execArraySchedule_keeps (failing : List (Nat × Nat)) (units : List Strand) (s : State) :
    KeepsLegal s (execArraySchedule failing units s) := by
  refine keeps_of_splits ?_
  split
  · repeat' split
    all_goals simp
  · split
    · rfl
    · split
      · split <;> next taken => simpa using splits_of_eq taken (takeOp_splits ..)
      · rfl

theorem execArraySpill_keeps (s : State) : KeepsLegal s (execArraySpill s) := by
  refine keeps_of_splits ?_
  repeat' split
  all_goals simp

theorem execTileDrain_keeps (upsets : List CellUpset) (s : State) : KeepsLegal s (execTileDrain upsets s) := by
  refine keeps_of_splits ?_
  repeat' split
  all_goals simp

theorem execCtxDestroyDone_keeps (uid : Nat) (s : State) : KeepsLegal s (execCtxDestroyDone uid s) := by
  refine keeps_of_splits ?_
  split <;> simp

theorem execCtxDestroyForce_keeps (uid : Nat) (s : State) : KeepsLegal s (execCtxDestroyForce uid s) := by
  refine keeps_of_splits ?_
  split <;> simp

theorem execHchWaitTimeout_keeps (gqid : Nat) (s : State) : KeepsLegal s (execHchWaitTimeout gqid s) := keeps_of_splits (by simp)

theorem execInputInWindow_keeps (s : State) : KeepsLegal s (execInputInWindow s) := by
  refine keeps_of_legal fun h => ?_
  split
  · exact holdOff_legal _
  · exact h

theorem execPwrEnAssert_keeps (s : State) : KeepsLegal s (execPwrEnAssert s) := by
  refine keeps_of_legal fun h => ?_
  split
  · exact beginStart_legal _
  · exact h

theorem execPwrEnDeassert_keeps (s : State) : KeepsLegal s (execPwrEnDeassert s) := keeps_of_splits (by simp)

theorem execPowerdownDone_keeps (s : State) : KeepsLegal s (execPowerdownDone s) := by
  refine keeps_of_legal fun h => ?_
  split
  · exact holdOff_legal s
  · exact h

theorem execInputDrop_keeps (millivolts : Nat) (kept : Bool) (s : State) : KeepsLegal s (execInputDrop millivolts kept s) :=
  keeps_of_legal fun _ => coldState_legal .unpowered s

theorem execThermalTrip_keeps (source stack : BitVec 4) (s : State) : KeepsLegal s (execThermalTrip source stack s) := by
  refine keeps_of_legal fun h => ?_
  split
  · exact coldState_legal .tripped s
  · exact h

theorem execTripLatchClear_keeps (s : State) : KeepsLegal s (execTripLatchClear s) := by
  refine keeps_of_legal fun h => ?_
  split
  · exact coldState_legal _ _
  · exact h

theorem execSysResetNAssert_keeps (s : State) : KeepsLegal s (execSysResetNAssert s) := keeps_of_splits (by simp)

theorem execSysResetNRelease_keeps (s : State) : KeepsLegal s (execSysResetNRelease s) := keeps_of_splits (by simp)

theorem execUptimeMsTick_keeps (s : State) : KeepsLegal s (execUptimeMsTick s) := by
  refine keeps_of_legal fun h => ?_
  split <;> simp [h]

theorem execOpSecondsTick_keeps (s : State) : KeepsLegal s (execOpSecondsTick s) := keeps_of_splits (by simp)

theorem execOpSecondsPersist_keeps (s : State) : KeepsLegal s (execOpSecondsPersist s) := keeps_of_splits (by simp)

theorem execStartupPhaseTimeout_keeps (unit : Strand) (s : State) : KeepsLegal s (execStartupPhaseTimeout unit s) := by
  refine keeps_of_splits ?_
  split <;> simp

theorem execStartupSupply_keeps (s : State) : KeepsLegal s (execStartupSupply s) := keeps_phase (by simp)

theorem execStartupRom_keeps (straps : BitVec 3) (s : State) : KeepsLegal s (execStartupRom straps s) := keeps_phase (by simp)

theorem execStartupMgmt_keeps (s : State) : KeepsLegal s (execStartupMgmt s) := keeps_phase (by simp)

theorem execStartupHost_keeps (failedCores : List Nat) (s : State) : KeepsLegal s (execStartupHost failedCores s) := keeps_phase (by simp)

theorem execStartupPower_keeps (failed : PowerFaults) (s : State) : KeepsLegal s (execStartupPower failed s) := keeps_phase (by simp)

theorem execStartupTrain_keeps (failed : List Strand) (s : State) : KeepsLegal s (execStartupTrain failed s) := keeps_phase (by simp)

theorem execStartupTest_keeps (failed : List Strand) (failedBlocks : List (Strand × Nat)) (s : State) :
    KeepsLegal s (execStartupTest failed failedBlocks s) := keeps_phase (by simp)

theorem execStartupReady_keeps (elapsedMs : BitVec 24) (s : State) : KeepsLegal s (execStartupReady elapsedMs s) := keeps_phase (by simp)

theorem execEntdaa_keeps (addr : BitVec 7) (s : State) : KeepsLegal s (execEntdaa addr s) := keeps_of_splits (by simp)

theorem execSetdasa_keeps (staticAddr addr : BitVec 7) (s : State) : KeepsLegal s (execSetdasa staticAddr addr s) := keeps_of_splits (by simp)

theorem execSetEndpointId_keeps (eid : Byte) (s : State) : KeepsLegal s (execSetEndpointId eid s) := keeps_control (by simp)

theorem execGetEndpointId_keeps (s : State) : KeepsLegal s (execGetEndpointId s) := keeps_control (by simp)

theorem execGetMctpVersionSupport_keeps (s : State) : KeepsLegal s (execGetMctpVersionSupport s) := keeps_control (by simp)

theorem execGetMessageTypeSupport_keeps (s : State) : KeepsLegal s (execGetMessageTypeSupport s) := keeps_control (by simp)

theorem execGetVendorDefinedMessageSupport_keeps (s : State) : KeepsLegal s (execGetVendorDefinedMessageSupport s) := keeps_control (by simp)

theorem execPacketReq_keeps (vendor : BitVec 16) (tag : Byte) (rsvd : BitVec 24) (words : List Word) (s : State) :
    KeepsLegal s (execPacketReq vendor tag rsvd words s) := keeps_request (by simp)

theorem execCaptReq_keeps (vendor : BitVec 16) (tag : Byte) (rsvd : BitVec 24) (offset length : Word) (s : State) :
    KeepsLegal s (execCaptReq vendor tag rsvd offset length s) := keeps_request (by simp)

theorem execGetSensorReading_keeps (sensor : Nat) (s : State) : KeepsLegal s (execGetSensorReading sensor s) := keeps_request (by simp)

theorem execGetPdr_keeps (record : Nat) (s : State) : KeepsLegal s (execGetPdr record s) := keeps_request (by simp)

theorem execSetEventReceiver_keeps (eid : Byte) (polling : Bool) (s : State) : KeepsLegal s (execSetEventReceiver eid polling s) :=
  keeps_request (by simp)

theorem execQueryDeviceIdentifiers_keeps (s : State) : KeepsLegal s (execQueryDeviceIdentifiers s) := keeps_request (by simp)

theorem execGetFirmwareParameters_keeps (s : State) : KeepsLegal s (execGetFirmwareParameters s) := keeps_request (by simp)

theorem execGetStatus_keeps (s : State) : KeepsLegal s (execGetStatus s) := keeps_request (by simp)

theorem execRequestUpdate_keeps (s : State) : KeepsLegal s (execRequestUpdate s) := keeps_request (by simp)

theorem execPassComponentTable_keeps (s : State) : KeepsLegal s (execPassComponentTable s) := keeps_request (by simp)

theorem execUpdateComponent_keeps (imageSize : Word) (s : State) : KeepsLegal s (execUpdateComponent imageSize s) := keeps_request (by simp)

theorem execRequestFirmwareData_keeps (offset : Nat) (data : List Byte) (s : State) : KeepsLegal s (execRequestFirmwareData offset data s) :=
  keeps_request fun s => by
  repeat' split
  all_goals simp

theorem execVerifyComplete_keeps (s : State) : KeepsLegal s (execVerifyComplete s) := by
  refine keeps_of_splits ?_
  repeat' split
  all_goals simp

theorem execApplyComplete_keeps (readBackOk : Bool) (s : State) : KeepsLegal s (execApplyComplete readBackOk s) := by
  refine keeps_of_splits ?_
  repeat' split
  all_goals simp

theorem execActivateFirmware_keeps (s : State) : KeepsLegal s (execActivateFirmware s) := keeps_request (by simp)

theorem execCancelUpdateComponent_keeps (s : State) : KeepsLegal s (execCancelUpdateComponent s) := keeps_request (by simp)

theorem execCancelUpdate_keeps (s : State) : KeepsLegal s (execCancelUpdate s) := keeps_request (by simp)

theorem execJtagPrivateInstruction_keeps (op : JtagOp) (s : State) : KeepsLegal s (execJtagPrivateInstruction op s) := by
  refine keeps_of_legal fun h => ?_
  split
  · exact jtagDo_legal h
  · exact h

theorem execSplMsgRun_keeps (l : Nat) (m : SplMsg) (us : List LaneUpset) (s : State) : KeepsLegal s (execSplMsgRun l m us s) := keeps_spl (by simp)

theorem execSplMsgFinal_keeps (l : Nat) (m : SplMsg) (s : State) : KeepsLegal s (execSplMsgFinal l m s) := keeps_spl (by simp)

theorem execSplMsgGrant_keeps (l : Nat) (m : SplMsg) (s : State) : KeepsLegal s (execSplMsgGrant l m s) := keeps_spl (by simp)

theorem execSplMsgAbandon_keeps (l : Nat) (m : SplMsg) (s : State) : KeepsLegal s (execSplMsgAbandon l m s) := keeps_spl (by simp)

theorem execSplBucketActivate_keeps (p : Nat) (s : State) : KeepsLegal s (execSplBucketActivate p s) := by
  refine keeps_of_splits ?_
  split <;> simp

theorem execSplLocalRead_keeps (p e c : Nat) (us : List LaneUpset) (s : State) : KeepsLegal s (execSplLocalRead p e c us s) := by
  refine keeps_met_of_splits ?_
  split
  · split
    · rfl
    · dsimp only
      split <;> simp
  · rfl

theorem execSplSlotRelease_keeps (p e c : Nat) (s : State) : KeepsLegal s (execSplSlotRelease p e c s) := by
  refine keeps_met_of_splits ?_
  split <;> simp

theorem execSplWaitTimeout_keeps (p e : Nat) (s : State) : KeepsLegal s (execSplWaitTimeout p e s) := by
  refine keeps_met_of_splits ?_
  split <;> simp

theorem execSplFinalTimeout_keeps (p e : Nat) (s : State) : KeepsLegal s (execSplFinalTimeout p e s) := by
  refine keeps_met_of_splits ?_
  repeat' split
  all_goals simp

theorem execSpillSplitApply_keeps (s : State) : KeepsLegal s (execSpillSplitApply s) := by
  refine keeps_of_legal fun h => ?_
  split
  · exact h
  · rw [splits_foldl retryOpen_splits]
    exact ⟨h.1, h.1⟩

theorem execSplLowrankStep_keeps (p e : Nat) (s : State) : KeepsLegal s (execSplLowrankStep p e s) := by
  refine keeps_met_of_splits ?_
  split <;> simp

theorem execTklBlockUpdate_keeps (block lane : Nat) (parityFail : Bool) (s : State) : KeepsLegal s (execTklBlockUpdate block lane parityFail s) := by
  refine keeps_of_splits ?_
  split <;> simp

theorem execTklGroupDone_keeps (s : State) : KeepsLegal s (execTklGroupDone s) := by
  refine keeps_met_of_splits ?_
  split
  · rfl
  · dsimp only
    split
    · rfl
    · split <;> simp

theorem exec_keeps (i : Instr) (s : State) : KeepsLegal s (exec i s) := by
  cases i with
  | ctlNop p => exact keeps_packet (runNow_splits (by simp))
  | ctlBarrier p => exact keeps_packet runBarrier_splits
  | ctxCreate p => exact keeps_packet (runNow_splits createEffect_splits)
  | ctxDestroy p => exact keeps_packet runDestroy_splits
  | ctxMap p => exact keeps_packet runMap_splits
  | ctxUnmap p => exact keeps_packet runUnmap_splits
  | qCreate p => exact keeps_packet (runNow_splits qCreateEffect_splits)
  | qDestroy p => exact keeps_packet runQDestroy_splits
  | hchSignal p => exact keeps_packet (runNow_splits signalEffect_splits)
  | hchAdd p => exact keeps_packet (runNow_splits addEffect_splits)
  | hchWait p => exact keeps_packet runWait_splits
  | hchRead p => exact keeps_packet (runNow_splits (by simp))
  | hchProducer p => exact keeps_packet (runNow_splits producerEffect_splits)
  | hchRemoteSignal p => exact keeps_packet runRemoteSignal_splits
  | xfrCopy p => exact keeps_packet_of_legal fun uid p s => runXfer_legal uid p
  | xfrCopy2d p => exact keeps_packet_of_legal fun uid p s => runXfer_legal uid p
  | xfrFill p => exact keeps_packet_of_legal fun uid p s => runXfer_legal uid p
  | xfrPrefetch p => exact keeps_packet_of_legal fun uid p s => runXfer_legal uid p
  | xfrRemoteWrite p => exact keeps_packet_of_legal fun uid p s => runXfer_legal uid p
  | xfrRemoteRead p => exact keeps_packet_of_legal fun uid p s => runXfer_legal uid p
  | xfrWindowGrant p => exact keeps_packet (runNow_splits windowEffect_splits)
  | xfrWindowRevoke p => exact keeps_packet runRevoke_splits
  | arrMma p => exact keeps_packet (runPlain_splits .mma)
  | arrMmaPacked p => exact keeps_packet runPacked_splits
  | arrDist p => exact keeps_packet (runPlain_splits .dist)
  | arrSelftest p => exact keeps_packet runSelftest_splits
  | accSave p => exact keeps_packet (runPlain_splits .save)
  | accResume p => exact keeps_packet (runPlain_splits .resume)
  | vecMap p => exact keeps_packet (runTracked_splits vecMapEffect_splits)
  | vecReduce p => exact keeps_packet (runTracked_splits (by simp))
  | vecSoftmax p => exact keeps_packet (runTracked_splits (by simp))
  | vecNorm p => exact keeps_packet (runTracked_splits normEffect_splits)
  | vecConvert p => exact keeps_packet (runTracked_splits convertEffect_splits)
  | vecQuant p => exact keeps_packet (runTracked_splits convertEffect_splits)
  | vecOrtho p => exact keeps_packet (runTracked_splits orthoEffect_splits)
  | vecSummary p => exact keeps_packet (runTracked_splits summaryEffect_splits)
  | gsxGather p => exact keeps_packet (runTracked_splits gatherEffect_splits)
  | gsxScatter p => exact keeps_packet (runTracked_splits scatterEffect_splits)
  | gsxRoute p => exact keeps_packet (runTracked_splits routeEffect_splits)
  | rnkTopk p => exact keeps_packet (runTracked_splits topkEffect_splits)
  | attSelect p => exact keeps_packet (runTracked_splits selectEffect_splits)
  | attFwd p => exact keeps_packet (runTracked_splits fwdEffect_splits)
  | attBwd p => exact keeps_packet (runTracked_splits bwdEffect_splits)
  | splPlan p => exact keeps_packet runPlan_splits
  | splOpen p => exact keeps_packet runOpen_splits
  | splContrib p => exact keeps_packet runContrib_splits
  | splLowrank p => exact keeps_packet (runNow_splits lowrankEffect_splits)
  | splClose p => exact keeps_packet runClose_splits
  | splStatus p => exact keeps_packet (runNow_splits statusEffect_splits)
  | tklCoef p => exact keeps_packet runCoef_splits
  | tklStepsize p => exact keeps_packet runStepsize_splits
  | tklMask p => exact keeps_packet (runNow_splits maskEffect_splits)
  | tklNorm p => exact keeps_packet (runNow_splits tklNormEffect_splits)
  | tklStep p => exact keeps_packet runStep_splits
  | tklLoad p => exact keeps_packet (runNow_splits loadEffect_splits)
  | tklStore p => exact keeps_packet (runNow_splits storeEffect_splits)
  | tklDigest p => exact keeps_packet (runNow_splits digestEffect_splits)
  | ttlBind p => exact keeps_packet (runNow_splits bindEffect_splits)
  | ttlRead p => exact keeps_packet (runNow_splits ttlReadEffect_splits)
  | ttlReset p => exact keeps_packet (runNow_splits ttlResetEffect_splits)
  | strQuery p => exact keeps_packet (runNow_splits (by simp))
  | strFence p => exact keeps_packet_of_legal (runNow_legal fun p s => fenceEffect_legal)
  | strUnfence p _ => exact keeps_packet_of_legal (runNow_legal fun p s => unfenceEffect_legal)
  | strReset p => exact keeps_packet_of_legal fun uid p s => runReset_legal uid p
  | strInject p => exact keeps_packet_of_legal (runNow_legal fun p s => injectEffect_legal)
  | strRepairCommit p => exact keeps_packet (runNow_splits commitEffect_splits)
  | strService p => exact keeps_packet (runNow_splits (by simp))
  | logMark p => exact keeps_packet (runNow_splits markEffect_splits)
  | logRead p => exact keeps_packet (runNowData_splits readLogEffect_splits)
  | logLimit p => exact keeps_packet (runNow_splits limitEffect_splits)
  | secIdent p => exact keeps_packet (runNowData_splits identEffect_splits)
  | secAttest p => exact keeps_packet (runNowData_splits attestEffect_splits)
  | secFwStage p readBackOk => exact keeps_packet (runStage_splits readBackOk)
  | secFwActivate p => exact keeps_packet (runNow_splits (by simp))
  | doorbellWrite offset size value host => exact execDoorbellWrite_keeps offset size value host s
  | packetFetch gqid host => exact execPacketFetch_keeps gqid host s
  | packetComplete uid => exact execPacketComplete_keeps uid s
  | hchWaitTimeout gqid => exact execHchWaitTimeout_keeps gqid s
  | batchDeadline batch => exact execBatchDeadline_keeps batch s
  | arraySchedule failing units => exact execArraySchedule_keeps failing units s
  | arrMapRebuild => exact execArrMapRebuild_keeps s
  | tileDrain upsets => exact execTileDrain_keeps upsets s
  | arraySpill => exact execArraySpill_keeps s
  | spillSplitWrite value => exact execSpillSplitWrite_keeps value s
  | spillSplitApply => exact execSpillSplitApply_keeps s
  | msgWrite link m => exact execMsgWrite_keeps link m s
  | msgReadReq link m => exact execMsgReadReq_keeps link m s
  | msgHitchOp link m => exact execMsgHitchOp_keeps link m s
  | msgWindowRevoke link m => exact execMsgWindowRevoke_keeps link m s
  | msgAck link m => exact execMsgAck_keeps link m s
  | msgReadData link m => exact execMsgReadData_keeps link m s
  | msgNeg link m => exact execMsgNeg_keeps link m s
  | msgMgtReq link localOnly m => exact execMsgMgtReq_keeps link localOnly m s
  | msgMgtRsp link m => exact execMsgMgtRsp_keeps link m s
  | msgSend link vc => exact execMsgSend_keeps link vc s
  | flitData link flit => exact execFlitData_keeps link flit s
  | flitIdle link flit => exact execFlitIdle_keeps link flit s
  | flitNak link flit => exact execFlitNak_keeps link flit s
  | flitCreditAudit link flit => exact execFlitCreditAudit_keeps link flit s
  | flitTrain link peerDev peerLink badLanes rtt => exact execFlitTrain_keeps link peerDev peerLink badLanes rtt s
  | linkRetrainEnd link ok => exact execLinkRetrainEnd_keeps link ok s
  | laneSymbolLimit link lane => exact execLaneSymbolLimit_keeps link lane s
  | splMsgRun link m upsets => exact execSplMsgRun_keeps link m upsets s
  | splMsgFinal link m => exact execSplMsgFinal_keeps link m s
  | splMsgGrant link m => exact execSplMsgGrant_keeps link m s
  | splMsgAbandon link m => exact execSplMsgAbandon_keeps link m s
  | splBucketActivate plan => exact execSplBucketActivate_keeps plan s
  | splLocalRead plan entry chunk upsets => exact execSplLocalRead_keeps plan entry chunk upsets s
  | splLowrankStep plan entry => exact execSplLowrankStep_keeps plan entry s
  | splSlotRelease plan entry chunk => exact execSplSlotRelease_keeps plan entry chunk s
  | splWaitTimeout plan entry => exact execSplWaitTimeout_keeps plan entry s
  | splFinalTimeout plan entry => exact execSplFinalTimeout_keeps plan entry s
  | tklBlockUpdate block lane parityFail => exact execTklBlockUpdate_keeps block lane parityFail s
  | tklGroupDone => exact execTklGroupDone_keeps s
  | trackerTimeout tid => exact execTrackerTimeout_keeps tid s
  | hostCompletion tid epoch how host => exact execHostCompletion_keeps tid epoch how host s
  | pcieCompletionTimeout tid => exact execPcieCompletionTimeout_keeps tid s
  | errorEvent strand src obj => exact execErrorEvent_keeps strand src obj s
  | railFault strand src summary => exact execRailFault_keeps strand src summary s
  | blockRemapDone unit block => exact execBlockRemapDone_keeps unit block s
  | unitRedirectDone unit => exact execUnitRedirectDone_keeps unit s
  | patrolScrub unit addr found => exact execPatrolScrub_keeps unit addr found s
  | rootScan => exact execRootScan_keeps s
  | stickyRearm strand src => exact execStickyRearm_keeps strand src s
  | watchdogExpiry => exact execWatchdogExpiry_keeps s
  | clockLoss strands => exact execClockLoss_keeps strands s
  | sysRefclkLoss => exact execSysRefclkLoss_keeps s
  | genResetDone uid => exact execGenResetDone_keeps uid s
  | genResetForce uid => exact execGenResetForce_keeps uid s
  | fndCaptureDone => exact execFndCaptureDone_keeps s
  | fndStopDone => exact execFndStopDone_keeps s
  | fndDrainDone => exact execFndDrainDone_keeps s
  | fndResetDone => exact execFndResetDone_keeps s
  | fndRestoreDone => exact execFndRestoreDone_keeps s
  | ctxDestroyDone uid => exact execCtxDestroyDone_keeps uid s
  | ctxDestroyForce uid => exact execCtxDestroyForce_keeps uid s
  | snarlEval => exact execSnarlEval_keeps s
  | captureDone silent => exact execCaptureDone_keeps silent s
  | captTrigger => exact execCaptTrigger_keeps s
  | sbTrigLow => exact execSbTrigLow_keeps s
  | mboxGo => exact execMboxGo_keeps s
  | mboxDone => exact execMboxDone_keeps s
  | irqEnableWrite value => exact execIrqEnableWrite_keeps value s
  | deviceIdWrite value => exact execDeviceIdWrite_keeps value s
  | routingWrite offset size value => exact execRoutingWrite_keeps offset size value s
  | apertureWrite offset size value => exact execApertureWrite_keeps offset size value s
  | apertureRead => exact execApertureRead_keeps s
  | bar4Read offset len => exact execBar4Read_keeps offset len s
  | bar4Write offset data ep => exact execBar4Write_keeps offset data ep s
  | regWrite offset size value => exact execRegWrite_keeps offset size value s
  | msixUnmask vector => exact execMsixUnmask_keeps vector s
  | pciePmStateWrite d3hot => exact execPciePmStateWrite_keeps d3hot s
  | rebarSizeWrite log2GiB => exact execRebarSizeWrite_keeps log2GiB s
  | pcieHotReset => exact execPcieHotReset_keeps s
  | perstNAssert => exact execPerstNAssert_keeps s
  | perstNRelease => exact execPerstNRelease_keeps s
  | pcieCorrectable => exact execPcieCorrectable_keeps s
  | sysResetNAssert => exact execSysResetNAssert_keeps s
  | sysResetNRelease => exact execSysResetNRelease_keeps s
  | inputInWindow => exact execInputInWindow_keeps s
  | pwrEnAssert => exact execPwrEnAssert_keeps s
  | pwrEnDeassert => exact execPwrEnDeassert_keeps s
  | powerdownDone => exact execPowerdownDone_keeps s
  | inputDrop millivolts kept => exact execInputDrop_keeps millivolts kept s
  | thermalTrip source stack => exact execThermalTrip_keeps source stack s
  | tripLatchClear => exact execTripLatchClear_keeps s
  | startupSupply => exact execStartupSupply_keeps s
  | startupRom straps => exact execStartupRom_keeps straps s
  | startupMgmt => exact execStartupMgmt_keeps s
  | startupHost failedCores => exact execStartupHost_keeps failedCores s
  | startupPower failed => exact execStartupPower_keeps failed s
  | startupTrain failed => exact execStartupTrain_keeps failed s
  | startupTest failed failedBlocks => exact execStartupTest_keeps failed failedBlocks s
  | startupReady elapsedMs => exact execStartupReady_keeps elapsedMs s
  | startupPhaseTimeout unit => exact execStartupPhaseTimeout_keeps unit s
  | logProgram => exact execLogProgram_keeps s
  | logTokenRefill code => exact execLogTokenRefill_keeps code s
  | opSecondsTick => exact execOpSecondsTick_keeps s
  | uptimeMsTick => exact execUptimeMsTick_keeps s
  | opSecondsPersist => exact execOpSecondsPersist_keeps s
  | entdaa addr => exact execEntdaa_keeps addr s
  | setdasa staticAddr addr => exact execSetdasa_keeps staticAddr addr s
  | setEndpointId eid => exact execSetEndpointId_keeps eid s
  | getEndpointId => exact execGetEndpointId_keeps s
  | getMctpVersionSupport => exact execGetMctpVersionSupport_keeps s
  | getMessageTypeSupport => exact execGetMessageTypeSupport_keeps s
  | getVendorDefinedMessageSupport => exact execGetVendorDefinedMessageSupport_keeps s
  | packetReq vendor tag rsvd words => exact execPacketReq_keeps vendor tag rsvd words s
  | captReq vendor tag rsvd offset length => exact execCaptReq_keeps vendor tag rsvd offset length s
  | getSensorReading sensor => exact execGetSensorReading_keeps sensor s
  | getPdr record => exact execGetPdr_keeps record s
  | setEventReceiver eid polling => exact execSetEventReceiver_keeps eid polling s
  | queryDeviceIdentifiers => exact execQueryDeviceIdentifiers_keeps s
  | getFirmwareParameters => exact execGetFirmwareParameters_keeps s
  | getStatus => exact execGetStatus_keeps s
  | requestUpdate => exact execRequestUpdate_keeps s
  | passComponentTable => exact execPassComponentTable_keeps s
  | updateComponent imageSize => exact execUpdateComponent_keeps imageSize s
  | requestFirmwareData offset data => exact execRequestFirmwareData_keeps offset data s
  | activateFirmware => exact execActivateFirmware_keeps s
  | cancelUpdateComponent => exact execCancelUpdateComponent_keeps s
  | cancelUpdate => exact execCancelUpdate_keeps s
  | memoryReply tid epoch ecc => exact execMemoryReply_keeps tid epoch ecc s
  | frameAlignmentLoss link => exact execFrameAlignmentLoss_keeps link s
  | jtagPrivateInstruction op => exact execJtagPrivateInstruction_keeps op s
  | verifyComplete => exact execVerifyComplete_keeps s
  | applyComplete readBackOk => exact execApplyComplete_keeps readBackOk s

end Sys2Proof.Machine

namespace Sys2Proof

open Machine

/-- Settles O59: every command keeps legal splits legal; an empty queue idles. -/
theorem splitsStayLegal : Obligations.SplitsStayLegal := by
  unfold Obligations.SplitsStayLegal
  intro s t legal stepped
  unfold step at stepped
  split at stepped
  · cases stepped
    exact legal
  · exact exec_keeps _ _ t stepped legal

end Sys2Proof
end

section
/-! PROOFS. The splice commands (R171, R259 to R291): what each does when it is accepted, SPL.PLAN with the bytes it read. -/

namespace Sys2Proof.Machine

open Safety

/-! ## SPL.PLAN (R259) -/

/-- A plan whose bytes could be read, sound and past the early checks, is checked with them and loaded. -/
theorem runPlan_read {p : Packet} {s : State} {bs : List PByte} (read : planBytes s (envHN s p) (dw p 4) = .ok bs)
    (sound : anyPoison bs = false) (early : verdict { noChecks with param := planParam p, degraded := splDegraded s } = none) (uid : Nat) :
    runPlan uid p s = runNow (fun s p => planChecks s p (bs.map Prod.fst)) (fun p s => loadPlan p (bs.map Prod.fst) s) uid p
      (detectVa reachHN (issuerCtx s p.issuer) (dw p 4) bs.length s) := by
  simp [runPlan, read, sound, early]

/-! ## SPL.OPEN (R171, R264) -/

/-- What passes all the checks passes those that apply whatever the split. -/
theorem openEarly_passes {p : Packet} {s : State} (h : verdict (openChecks s p) = none) : verdict (openEarly s p) = none :=
  verdict_without_resource (openChecks s p) h

/-- An accepted SPL.OPEN waits for a pending split, and else arms its plan. -/
theorem runOpen_accepted (uid : Nat) (p : Packet) (s : State) (h : verdict (openChecks s p) = none) :
    runOpen uid p s
      = if splitPending s then addJob (newJob s uid p .splOpen) s
        else addJob { newJob s uid p .finished with res := some (openEffect p s).2 } (openEffect p s).1 := by
  simp [runOpen, openEarly_passes h, runNow_accepted _ _ _ _ _ h]

/-! ## SPL.CLOSE (R290) -/

/-- Only a packet of the array commands is answered with work of its own (R369). -/
theorem answerAtOnce_no_array {p : Packet} (other : p.opcode.toNat / 256 ≠ 4) (uid : Nat) (r : Result) (s : State) :
    answerAtOnce uid p r s = addJob { newJob s uid p .finished with res := some r } s := by rw [answerAtOnce, if_neg other]

/-- An accepted SPL.CLOSE waits for the buckets of an armed plan; of an unarmed one it is answered, and the plan dropped where it says so. -/
theorem runClose_accepted (uid : Nat) (p : Packet) (s : State) (h : verdict (closeChecks s p) = none) :
    runClose uid p s
      = if isArmed s (splPlanId p) then
          closeCheck (splPlanId p) (if closeAbort p then abandonPlan (splPlanId p) 6 (addJob (newJob s uid p (.splClose (splPlanId p) (closeDrop p))) s)
            else addJob (newJob s uid p (.splClose (splPlanId p) (closeDrop p))) s)
        else
          let t := answerAtOnce uid p okRes s
          if closeDrop p then { t with spl := { t.spl with plans := kvErase (splPlanId p) t.spl.plans } } else t := by
  simp only [runClose, h]
  cases isArmed s (splPlanId p) <;> rfl

end Sys2Proof.Machine

namespace Sys2Proof

open Machine Safety

/-- An SPL.PLAN whose bytes pass the checks loads the plan they spell. -/
theorem splPlan_loads {p : Packet} {s : State} {bs : List PByte} (ready : Ready 0x0701 p s) :
    let q := asOp 0x0701 p
    let s0 := takenUp 0x0701 p s
    let s1 := detectVa reachHN (issuerCtx s0 q.issuer) (dw q 4) bs.length s0
    planBytes s0 (envHN s0 q) (dw q 4) = .ok bs → anyPoison bs = false →
    verdict { noChecks with param := planParam q, degraded := splDegraded s0 } = none → verdict (planChecks s1 q (bs.map Prod.fst)) = none →
    let r := loadPlan q (bs.map Prod.fst) s1
    exec (.splPlan p) s = .next (met s (addJob { newJob s1 (packetNo 0x0701 p s) q .finished with res := some r.2 } r.1)) := by
  intro q s0 s1 read sound early passes
  change Host.Outcome.next (met s (takeUp 0x0701 runPlan p s)) = _
  rw [takeUp_ready 0x0701 runPlan p s ready, runPlan_read read sound early, runNow_accepted _ _ _ _ _ passes]

/-- Settles O22: SPL.PLAN with the bytes it read, SPL.LOWRANK and SPL.STATUS whole in their step, and the starts of SPL.OPEN, SPL.CONTRIB and SPL.CLOSE. -/
theorem spliceCommandsComplete : Obligations.SpliceCommandsComplete := by
  refine ⟨fun _ _ _ => splPlan_loads, ?openPlan, ?contrib, runsWhole_of_runNow fun _ _ => rfl, runsWhole_of_runNow fun _ _ => rfl, ?closePlan⟩
  case openPlan =>
    intro p s h
    rw [exec_accepted (mk := .splOpen) (fun _ _ => rfl) h, runOpen_accepted _ _ _ h.2]
  case contrib =>
    intro p s h
    rw [exec_accepted (mk := .splContrib) (fun _ _ => rfl) h, runContrib_accepted _ _ _ h.2]
  case closePlan =>
    intro p s h
    rw [exec_accepted (mk := .splClose) (fun _ _ => rfl) h, runClose_accepted _ _ _ h.2, answerAtOnce_no_array (by simp [asOp])]

end Sys2Proof
end
